-- ==== Sys2Proof/Word.lean ====
section
/-! DEFINITION. Word types of the part and their plainest arithmetic (R4, R5, R12, R13). -/

namespace Sys2Proof

/-- A byte of memory. -/
abbrev Byte := BitVec 8
/-- A 64-bit value: a Spindle register, an address held in a register, half a vector register. -/
abbrev Word := BitVec 64
/-- The bits of a Fibre vector register. -/
abbrev V128 := BitVec 128
/-- The number of a Fibre vector register, v0 to v63. -/
abbrev VReg := BitVec 6
/-- The number of a mask register, k0 to k3. -/
abbrev MReg := BitVec 2
/-- The number of a Spindle register, x0 to x31. -/
abbrev XReg := BitVec 5

/-- R13: zext(x, n) of a natural number. -/
def zext (x n : Nat) : Nat := x % 2 ^ n

/-- R13: sext(x, n) of a natural number. -/
def sext (x n : Nat) : Int :=
  if x % 2 ^ n < 2 ^ (n - 1) then ((x % 2 ^ n : Nat) : Int) else ((x % 2 ^ n : Nat) : Int) - 2 ^ n

/-- R13: trunc(x, n) of an integer, as a natural number. -/
def trunc (x : Int) (n : Nat) : Nat := (x % (2 ^ n : Int)).toNat

/-- R13: sat_s(x, n). -/
def satS (x : Int) (n : Nat) : Int := max (-(2 ^ (n - 1) : Int)) (min x (2 ^ (n - 1) - 1))

/-- R13: sat_z(x, n). -/
def satZ (x : Int) (n : Nat) : Int := max 0 (min x (2 ^ n - 1))

/-- R4: the bits [h:l] of x as a natural number. -/
def bits (x h l : Nat) : Nat := (x >>> l) % 2 ^ (h + 1 - l)

/-- Bit i of x. -/
def bit (x i : Nat) : Bool := x.testBit i

/-- 1 for true and 0 for false. -/
def b01 (b : Bool) : Nat := if b then 1 else 0

/-- R5: the n bytes of x, least significant first. -/
def bytesOf (x : Nat) : Nat → List Byte
  | 0 => []
  | n + 1 => BitVec.ofNat 8 x :: bytesOf (x >>> 8) n

/-- R5: the number whose bytes are given, least significant first. -/
def ofBytes : List Byte → Nat
  | [] => 0
  | b :: bs => b.toNat + 256 * ofBytes bs

/-- Replaces bits [l+n-1:l] of x by the low n bits of v. -/
def setBits (x l n v : Nat) : Nat :=
  x % 2 ^ l + (v % 2 ^ n) * 2 ^ l + (x >>> (l + n)) * 2 ^ (l + n)

/-- The number of bits needed for x: 0 for 0, floor(log2 x) + 1 otherwise. -/
def bitLength (x : Nat) : Nat := if x = 0 then 0 else x.log2 + 1

/-- ceil(a / b) for b > 0. -/
def ceilDiv (a b : Nat) : Nat := (a + b - 1) / b

/-- a rounded up to a multiple of b. -/
def roundUp (a b : Nat) : Nat := ceilDiv a b * b

/-! ### Operand types of the instructions (constructors of `Instr` carry them) -/

/-- R82: lane widths by width code. -/
inductive Width where
  | w8 | w16 | w32 | w64
  deriving DecidableEq, Repr

/-- The four floating-point types of the Fibre instructions, in the order of R110. -/
inductive FpT where
  | f16 | bf16 | f32 | f64
  deriving DecidableEq, Repr

/-- R28: element type codes 0x0 to 0xD. -/
inductive TyCode where
  | z8 | s8 | z16 | s16 | z32 | s32 | z64 | s64 | f16 | bf16 | f32 | f64 | e4m3 | e5m2
  deriving DecidableEq, Repr

/-- R37, R64: rounding modes. -/
inductive Rm where
  | rne | rtz | rup | rdn | rna | sr
  deriving DecidableEq, Repr

/-- R64: access sizes. -/
inductive Size where
  | b8 | b16 | b32 | b64 | b128 | b256
  deriving DecidableEq, Repr

/-- R64, R290: scopes. -/
inductive Scope where
  | core | die | pkg | pod
  deriving DecidableEq, Repr

/-- R64: orderings. -/
inductive Ord where
  | none | acq | rel | acqrel
  deriving DecidableEq, Repr

/-- R86: integer compare conditions. -/
inductive ICond where
  | eq | ne | lt | le | ltz | lez
  deriving DecidableEq, Repr

/-- R117: floating-point compare conditions. -/
inductive FCond where
  | eq | ne | lt | le | un
  deriving DecidableEq, Repr

/-- The types of the special functions (R124). -/
inductive SpT where
  | f16 | bf16 | f32
  deriving DecidableEq, Repr

/-- Hart loads (RV64I; R146). -/
inductive LoadOp where
  | lb | lh | lw | ld | lbu | lhu | lwu
  deriving DecidableEq, Repr

/-- Hart stores (RV64I; R146). -/
inductive StoreOp where
  | sb | sh | sw | sd
  deriving DecidableEq, Repr

/-- Hart atomic memory operations (RV64A; R146). -/
inductive AmoOp where
  | swap | add | xor | and | or | min | max | minu | maxu
  deriving DecidableEq, Repr

/-- Zicsr operations (R146). -/
inductive CsrOp where
  | rw | rs | rc
  deriving DecidableEq, Repr

/-- Two-register operations of RV64IM, Zba and Zbb (R146). -/
inductive RvRR where
  | add | sub | sll | slt | sltu | xor | srl | sra | or | and
  | addw | subw | sllw | srlw | sraw
  | mul | mulh | mulhsu | mulhu | div | divu | rem | remu | mulw | divw | divuw | remw | remuw
  | addUw | sh1add | sh2add | sh3add | sh1addUw | sh2addUw | sh3addUw
  | andn | orn | xnor | max | maxu | min | minu | rol | ror | rolw | rorw
  deriving DecidableEq, Repr

/-- Register-immediate operations of RV64I, Zba and Zbb (R146). -/
inductive RvRI where
  | addi | slti | sltiu | xori | ori | andi | slli | srli | srai
  | addiw | slliw | srliw | sraiw | slliUw | rori | roriw
  deriving DecidableEq, Repr

/-- One-register operations of Zbb (R146). -/
inductive RvR where
  | clz | ctz | cpop | clzw | ctzw | cpopw | sextB | sextH | zextH | orcB | rev8
  deriving DecidableEq, Repr

/-- Conditional branches of RV64I. -/
inductive RvBr where
  | beq | bne | blt | bge | bltu | bgeu
  deriving DecidableEq, Repr

/-- R146: the ordinary RV64IMAC and Zicsr instructions that have no row of their own in the opcode
table. `illegal` is a word that no extension of R146 assigns, and every M-mode or S-mode instruction. -/
inductive RvOp where
  | rr (op : RvRR) (d a b : XReg)
  | ri (op : RvRI) (d a : XReg) (i : BitVec 12)
  | r (op : RvR) (d a : XReg)
  | lui (d : XReg) (i : BitVec 20)
  | auipc (d : XReg) (i : BitVec 20)
  | jal (d : XReg) (off : BitVec 21)
  | jalr (d a : XReg) (i : BitVec 12)
  | br (op : RvBr) (a b : XReg) (off : BitVec 13)
  | ebreak
  | csrRead (csr : BitVec 12) (d : XReg)
  | illegal (raw : BitVec 32)
  deriving DecidableEq, Repr

/-- R73, R146: the operands of the hart instruction that the decoder read, for the rows of the opcode table that
name a group of RISC-V instructions and carry no fields. -/
inductive HartOp where
  | none
  | load (op : LoadOp) (d a : XReg) (i : BitVec 12) (rvc : Bool)
  | store (op : StoreOp) (a b : XReg) (i : BitVec 12) (rvc : Bool)
  | amo (op : AmoOp) (dbl : Bool) (o : Ord) (d a b : XReg)
  | lr (dbl : Bool) (o : Ord) (d a : XReg)
  | sc (dbl : Bool) (o : Ord) (d a b : XReg)
  | fence (fm pred succ : BitVec 4)
  | csr (op : CsrOp) (imm : Bool) (csr : BitVec 12) (d a : XReg)
  | rv (op : RvOp) (rvc : Bool)
  | custom (raw : BitVec 32)
  deriving DecidableEq, Repr

/-- R369: where an error strikes. -/
inductive ErrSite where
  | memory (pma : Nat)
  | scratch (core off : Nat)
  | vreg (core ctx reg : Nat)
  | block (core addr : Nat)
  | accRow (core bank row : Nat)
  deriving DecidableEq, Repr

/-- The four side-link directions (R345). -/
inductive Dir where
  | north | south | east | west
  deriving DecidableEq, Repr

/-- The operands of an event: which core, context, request, kernel, port or slot it concerns, and the data that come
with it. Each event's meaning says which of these it reads. -/
structure EvArgs where
  core : Nat := 0
  k : Nat := 0
  n : Nat := 0
  m : Nat := 0
  b : Bool := false
  dir : Dir := .north
  site : ErrSite := .memory 0
  data : List Byte := []
  codes : List Nat := []
  deriving DecidableEq, Repr

end Sys2Proof
end

