-- ==== Sys2Proof/Syntax.lean ====
section
/-! DEFINITION. The syntax of the model: one constructor per row of spec/opcode_table.json.
Constructors carry the fields the table gives their row, in the table's order; rows with fields stand before rows
without. The operands of an event are in `State.ev` and those of a RISC-V group of R146 in `State.hop`: the table
gives those rows no fields. -/

namespace Sys2Proof

/-- One row of the opcode table: an instruction of a Fibre or a hart, a host command, or an event. -/
inductive Instr where
  /-- R85: Adds lanes. -/
  | add (m : MReg) (w : Width) (b : VReg) (a : VReg) (d : VReg)
  /-- R85: Subtracts lanes. -/
  | sub (m : MReg) (w : Width) (b : VReg) (a : VReg) (d : VReg)
  /-- R85: Signed saturating add. -/
  | addsS (m : MReg) (w : Width) (b : VReg) (a : VReg) (d : VReg)
  /-- R85: Unsigned saturating add. -/
  | addsZ (m : MReg) (w : Width) (b : VReg) (a : VReg) (d : VReg)
  /-- R85: Signed saturating subtract. -/
  | subsS (m : MReg) (w : Width) (b : VReg) (a : VReg) (d : VReg)
  /-- R85: Unsigned saturating subtract. -/
  | subsZ (m : MReg) (w : Width) (b : VReg) (a : VReg) (d : VReg)
  /-- R85: Negates lanes. -/
  | neg (m : MReg) (w : Width) (a : VReg) (d : VReg)
  /-- R85: Absolute value of signed lanes. -/
  | abs (m : MReg) (w : Width) (a : VReg) (d : VReg)
  /-- R85: Low product of lanes. -/
  | mul (m : MReg) (w : Width) (b : VReg) (a : VReg) (d : VReg)
  /-- R85: High signed product of lanes. -/
  | mulh (m : MReg) (w : Width) (b : VReg) (a : VReg) (d : VReg)
  /-- R85: High unsigned product of lanes. -/
  | mulhz (m : MReg) (w : Width) (b : VReg) (a : VReg) (d : VReg)
  /-- R85: Signed division truncating towards zero. -/
  | div (m : MReg) (w : Width) (b : VReg) (a : VReg) (d : VReg)
  /-- R85: Unsigned division. -/
  | divz (m : MReg) (w : Width) (b : VReg) (a : VReg) (d : VReg)
  /-- R85: Signed remainder. -/
  | rem (m : MReg) (w : Width) (b : VReg) (a : VReg) (d : VReg)
  /-- R85: Unsigned remainder. -/
  | remz (m : MReg) (w : Width) (b : VReg) (a : VReg) (d : VReg)
  /-- R85: Signed minimum. -/
  | min (m : MReg) (w : Width) (b : VReg) (a : VReg) (d : VReg)
  /-- R85: Signed maximum. -/
  | max (m : MReg) (w : Width) (b : VReg) (a : VReg) (d : VReg)
  /-- R85: Unsigned minimum. -/
  | minz (m : MReg) (w : Width) (b : VReg) (a : VReg) (d : VReg)
  /-- R85: Unsigned maximum. -/
  | maxz (m : MReg) (w : Width) (b : VReg) (a : VReg) (d : VReg)
  /-- R85: Bitwise and. -/
  | and (m : MReg) (w : Width) (b : VReg) (a : VReg) (d : VReg)
  /-- R85: Bitwise or. -/
  | or (m : MReg) (w : Width) (b : VReg) (a : VReg) (d : VReg)
  /-- R85: Bitwise exclusive or. -/
  | xor (m : MReg) (w : Width) (b : VReg) (a : VReg) (d : VReg)
  /-- R85: Bitwise and with the complement of the second source. -/
  | andn (m : MReg) (w : Width) (b : VReg) (a : VReg) (d : VReg)
  /-- R85: Shifts left by a register count. -/
  | shl (m : MReg) (w : Width) (b : VReg) (a : VReg) (d : VReg)
  /-- R85: Logical right shift. -/
  | shr (m : MReg) (w : Width) (b : VReg) (a : VReg) (d : VReg)
  /-- R85: Arithmetic right shift. -/
  | sra (m : MReg) (w : Width) (b : VReg) (a : VReg) (d : VReg)
  /-- R85: Rotates lanes left. -/
  | rot (m : MReg) (w : Width) (b : VReg) (a : VReg) (d : VReg)
  /-- R85: Counts leading zeros. -/
  | clz (m : MReg) (w : Width) (a : VReg) (d : VReg)
  /-- R85: Counts one bits. -/
  | popc (m : MReg) (w : Width) (a : VReg) (d : VReg)
  /-- R86: Integer compare that writes a mask. -/
  | cmp (m : MReg) (w : Width) (c : ICond) (b : VReg) (a : VReg) (k : MReg)
  /-- R87: Selects lanes from two sources by mask. -/
  | sel (m : MReg) (w : Width) (b : VReg) (a : VReg) (d : VReg)
  /-- R87: Copies a register with its tag, or copies masked lanes. -/
  | mov (m : MReg) (w : Width) (a : VReg) (d : VReg)
  /-- R88: Adds a sign-extended immediate to 32- or 64-bit lanes. -/
  | addi (i : BitVec 12) (t : Bool) (a : VReg) (d : VReg)
  /-- R88: Shifts left by an immediate count. -/
  | shlImm (w : Width) (n : BitVec 6) (a : VReg) (d : VReg)
  /-- R88: Logical right shift by an immediate count. -/
  | shrImm (w : Width) (n : BitVec 6) (a : VReg) (d : VReg)
  /-- R88: Arithmetic right shift by an immediate count. -/
  | sraImm (w : Width) (n : BitVec 6) (a : VReg) (d : VReg)
  /-- R88: Rotates by an immediate count. -/
  | rotImm (w : Width) (n : BitVec 6) (a : VReg) (d : VReg)
  /-- R88: Writes an extended immediate into every lane. -/
  | movi (i : BitVec 12) (s : Bool) (w : Width) (d : VReg)
  /-- R88: Replaces 12 bits of each lane at a position. -/
  | movh (i : BitVec 12) (t : Bool) (p : BitVec 6) (d : VReg)
  /-- R89: Extracts lane j into lane 0 and zeroes the rest. -/
  | ext (w : Width) (j : BitVec 6) (a : VReg) (d : VReg)
  /-- R89: Inserts lane 0 of the source at lane j. -/
  | ins (m : MReg) (w : Width) (j : BitVec 6) (a : VReg) (d : VReg)
  /-- R89: Broadcasts lane j to the selected lanes. -/
  | bcst (m : MReg) (w : Width) (j : BitVec 6) (a : VReg) (d : VReg)
  /-- R89: Shuffles lanes by index. -/
  | shuf (m : MReg) (w : Width) (b : VReg) (a : VReg) (d : VReg)
  /-- R89: Permutes from a two-register table. -/
  | perm (m : MReg) (w : Width) (b : VReg) (a : VReg) (d : VReg)
  /-- R89: Interleaves two sources into a pair. -/
  | zip (w : Width) (b : VReg) (a : VReg) (d : VReg)
  /-- R89: De-interleaves two sources into a pair. -/
  | unzip (w : Width) (b : VReg) (a : VReg) (d : VReg)
  /-- R95: Moves a capability's address by a register amount. -/
  | cinc (b : VReg) (a : VReg) (d : VReg)
  /-- R95: Sets a capability's address. -/
  | cset (b : VReg) (a : VReg) (d : VReg)
  /-- R96: Narrows bounds exactly. -/
  | cbnd (b : VReg) (a : VReg) (d : VReg)
  /-- R96: Narrows bounds, rounded outward. -/
  | cbndR (b : VReg) (a : VReg) (d : VReg)
  /-- R95: Removes permissions. -/
  | cperm (b : VReg) (a : VReg) (d : VReg)
  /-- R95: Reads the base. -/
  | cgetb (a : VReg) (d : VReg)
  /-- R95: Reads the length. -/
  | cgetl (a : VReg) (d : VReg)
  /-- R95: Reads the permissions. -/
  | cgetp (a : VReg) (d : VReg)
  /-- R95: Reads the tag. -/
  | ctag (a : VReg) (d : VReg)
  /-- R95: Copies with the tag cleared. -/
  | cclr (a : VReg) (d : VReg)
  /-- R97: Moves a capability's address by an immediate. -/
  | cincImm (i : BitVec 12) (a : VReg) (d : VReg)
  /-- R97: Narrows bounds exactly to an immediate length. -/
  | cbndImm (i : BitVec 12) (a : VReg) (d : VReg)
  /-- R100: Reads a shape table entry into four registers. -/
  | shp (n : BitVec 6) (d : VReg)
  /-- R100: Splits a linear index into coordinates. -/
  | tix (b : VReg) (a : VReg) (d : VReg)
  /-- R100: Folds coordinates and strides into an offset. -/
  | tlin (b : VReg) (a : VReg) (d : VReg)
  /-- R102: Branches within the block unconditionally. -/
  | b (o : BitVec 13)
  /-- R102: Branches if a mask is nonzero. -/
  | bAny (o : BitVec 13) (k : MReg)
  /-- R102: Branches if a mask is zero. -/
  | bNone (o : BitVec 13) (k : MReg)
  /-- R102: Branches if the low n mask bits are all set. -/
  | bAll (o : BitVec 13) (n : BitVec 6) (k : MReg)
  /-- R102: Branches if the low n mask bits are not all set. -/
  | bNall (o : BitVec 13) (n : BitVec 6) (k : MReg)
  /-- R102: Branches if the register's low 64 bits are zero. -/
  | bZ (o : BitVec 13) (a : VReg)
  /-- R102: Branches if the register's low 64 bits are nonzero. -/
  | bNz (o : BitVec 13) (a : VReg)
  /-- R103: Links into e5 and transfers to a relative block address. -/
  | jal (o : BitVec 25)
  /-- R60: Writes an extension register, the flags or a mask. -/
  | setx (a : VReg) (x : BitVec 6)
  /-- R60: Reads an extension register, the flags, srseq or a mask. -/
  | getx (x : BitVec 6) (d : VReg)
  /-- R60: Sets the low n bits of a mask. -/
  | kset (n : BitVec 6) (k : MReg)
  /-- R60: Ands two masks. -/
  | kand (b : MReg) (a : MReg) (d : MReg)
  /-- R60: Ors two masks. -/
  | kor (b : MReg) (a : MReg) (d : MReg)
  /-- R60: Complements a mask. -/
  | knot (a : MReg) (d : MReg)
  /-- R60: Reads the cycle counter. -/
  | rdc (d : VReg)
  /-- R60: Reads an identity register. -/
  | rdid (i : BitVec 6) (d : VReg)
  /-- R104: Faults with TRAP n. -/
  | trap (n : BitVec 6)
  /-- R111: Floating-point add. -/
  | addFp (r : Rm) (b : VReg) (a : VReg) (d : VReg) (t : FpT)
  /-- R111: Floating-point subtract. -/
  | subFp (r : Rm) (b : VReg) (a : VReg) (d : VReg) (t : FpT)
  /-- R111: Floating-point multiply. -/
  | mulFp (r : Rm) (b : VReg) (a : VReg) (d : VReg) (t : FpT)
  /-- R111: Floating-point divide. -/
  | divFp (r : Rm) (b : VReg) (a : VReg) (d : VReg) (t : FpT)
  /-- R111: Floating-point minimum. -/
  | minFp (b : VReg) (a : VReg) (d : VReg) (t : FpT)
  /-- R111: Floating-point maximum. -/
  | maxFp (b : VReg) (a : VReg) (d : VReg) (t : FpT)
  /-- R111: Square root. -/
  | sqrt (r : Rm) (a : VReg) (d : VReg) (t : FpT)
  /-- R111: Clears the sign bit. -/
  | absFp (a : VReg) (d : VReg) (t : FpT)
  /-- R111: Inverts the sign bit. -/
  | negFp (a : VReg) (d : VReg) (t : FpT)
  /-- R111: Scales by a power of two. -/
  | scl (r : Rm) (b : VReg) (a : VReg) (d : VReg) (t : FpT)
  /-- R111: Rounds to an integral value. -/
  | rnd (r : Rm) (a : VReg) (d : VReg) (t : FpT)
  /-- R111: Returns the fraction a − rnd(a). -/
  | frc (r : Rm) (a : VReg) (d : VReg) (t : FpT)
  /-- R112: Fused a·b + c. -/
  | fma (m : MReg) (r : Rm) (b : VReg) (a : VReg) (d : VReg) (t : FpT)
  /-- R112: Fused a·b − c. -/
  | fms (m : MReg) (r : Rm) (b : VReg) (a : VReg) (d : VReg) (t : FpT)
  /-- R112: Fused −(a·b) + c. -/
  | fnma (m : MReg) (r : Rm) (b : VReg) (a : VReg) (d : VReg) (t : FpT)
  /-- R112: Fused −(a·b) − c. -/
  | fnms (m : MReg) (r : Rm) (b : VReg) (a : VReg) (d : VReg) (t : FpT)
  /-- R114: Pairwise tree sum of lanes. -/
  | rsum (m : MReg) (t : FpT) (r : Rm) (a : VReg) (d : VReg)
  /-- R115: Largest selected lane. -/
  | rmax (m : MReg) (t : FpT) (a : VReg) (d : VReg)
  /-- R116: Dot product into the accumulator lane with one rne rounding. -/
  | dot (m : MReg) (t : FpT) (b : VReg) (a : VReg) (d : VReg)
  /-- R116: Dot product with stochastic rounding. -/
  | dotSr (m : MReg) (t : FpT) (b : VReg) (a : VReg) (d : VReg)
  /-- R117: Float compare that writes a mask. -/
  | cmpFp (m : MReg) (t : FpT) (c : FCond) (b : VReg) (a : VReg) (k : MReg)
  /-- R118: Classifies lanes. -/
  | classify (m : MReg) (t : FpT) (a : VReg) (d : VReg)
  /-- R121: Converts between element types. -/
  | cvt (t : TyCode) (r : Rm) (s : TyCode) (a : VReg) (d : VReg)
  /-- R121: Converts to FP8 with clamping. -/
  | cvtSat (t : TyCode) (r : Rm) (s : TyCode) (a : VReg) (d : VReg)
  /-- R122: Packs 32 elements into an MX block and its scale into e5. -/
  | mxpk (f : Bool) (s : Bool) (a : VReg) (d : VReg)
  /-- R123: Unpacks an MX block using the scale in e5. -/
  | mxup (t : Bool) (r : Rm) (f : Bool) (a : VReg) (d : VReg)
  /-- R126: Reciprocal. -/
  | rcp (t : SpT) (a : VReg) (d : VReg)
  /-- R126: Reciprocal square root. -/
  | rsq (t : SpT) (a : VReg) (d : VReg)
  /-- R126: Power of two. -/
  | exp2 (t : SpT) (a : VReg) (d : VReg)
  /-- R126: Base-2 logarithm. -/
  | log2 (t : SpT) (a : VReg) (d : VReg)
  /-- R126: Sine. -/
  | sin (t : SpT) (a : VReg) (d : VReg)
  /-- R126: Cosine. -/
  | cos (t : SpT) (a : VReg) (d : VReg)
  /-- R126: Hyperbolic tangent. -/
  | tanh (t : SpT) (a : VReg) (d : VReg)
  /-- R277: Checks the access and posts a load; the register is PENDING until the data lands. -/
  | ld (o : BitVec 10) (z : Size) (b : VReg) (d : VReg)
  /-- R277: Checks the access and posts a store. -/
  | st (o : BitVec 10) (z : Size) (b : VReg) (s : VReg)
  /-- R280: Acquire load. -/
  | ldAcq (c : Scope) (o : BitVec 6) (z : Size) (b : VReg) (d : VReg)
  /-- R280: Release store. -/
  | stRel (c : Scope) (o : BitVec 6) (z : Size) (b : VReg) (s : VReg)
  /-- R280: Acquire fence. -/
  | fenceAcq (c : Scope)
  /-- R280: Release fence. -/
  | fenceRel (c : Scope)
  /-- R280: Full fence. -/
  | fence (c : Scope)
  /-- R281: Gathers lanes from per-lane offsets. -/
  | ldg (m : MReg) (w : Bool) (x : VReg) (b : VReg) (d : VReg)
  /-- R281: Scatters lanes to per-lane offsets. -/
  | stg (m : MReg) (w : Bool) (x : VReg) (b : VReg) (s : VReg)
  /-- R281: Loads one value into every selected lane. -/
  | ldbc (m : MReg) (w : Width) (b : VReg) (d : VReg)
  /-- R283: Atomic add. -/
  | amoAdd (o : Ord) (c : Scope) (z : Bool) (b : VReg) (d : VReg)
  /-- R283: Atomic signed minimum. -/
  | amoMin (o : Ord) (c : Scope) (z : Bool) (b : VReg) (d : VReg)
  /-- R283: Atomic signed maximum. -/
  | amoMax (o : Ord) (c : Scope) (z : Bool) (b : VReg) (d : VReg)
  /-- R283: Atomic unsigned minimum. -/
  | amoMinz (o : Ord) (c : Scope) (z : Bool) (b : VReg) (d : VReg)
  /-- R283: Atomic unsigned maximum. -/
  | amoMaxz (o : Ord) (c : Scope) (z : Bool) (b : VReg) (d : VReg)
  /-- R283: Atomic and. -/
  | amoAnd (o : Ord) (c : Scope) (z : Bool) (b : VReg) (d : VReg)
  /-- R283: Atomic or. -/
  | amoOr (o : Ord) (c : Scope) (z : Bool) (b : VReg) (d : VReg)
  /-- R283: Atomic exclusive or. -/
  | amoXor (o : Ord) (c : Scope) (z : Bool) (b : VReg) (d : VReg)
  /-- R283: Atomic swap. -/
  | amoSwp (o : Ord) (c : Scope) (z : Bool) (b : VReg) (d : VReg)
  /-- R283: Atomic compare and swap. -/
  | amoCas (o : Ord) (c : Scope) (z : Bool) (b : VReg) (d : VReg)
  /-- R283: Atomic floating-point add. -/
  | amoAddf (o : Ord) (c : Scope) (z : Bool) (b : VReg) (d : VReg)
  /-- R260: Takes a full/empty word and leaves it EMPTY. -/
  | ldfe (o : Bool) (c : Scope) (x : BitVec 6) (b : VReg) (d : VReg)
  /-- R260: Reads a full/empty word once it is FULL. -/
  | ldff (o : Bool) (c : Scope) (x : BitVec 6) (b : VReg) (d : VReg)
  /-- R260: Fills a full/empty word once it is EMPTY. -/
  | stef (o : Bool) (c : Scope) (x : BitVec 6) (b : VReg) (s : VReg)
  /-- R260: Writes a full/empty word and makes it FULL. -/
  | stff (o : Bool) (c : Scope) (x : BitVec 6) (b : VReg) (s : VReg)
  /-- R260: Makes a full/empty word EMPTY. -/
  | feclr (o : Bool) (c : Scope) (x : BitVec 6) (b : VReg)
  /-- R223: Makes a register HELD. -/
  | hold (d : VReg)
  /-- R223: Holds the registers that a mask names. -/
  | holdm (a : VReg)
  /-- R223: Writes the presence bitmap. -/
  | pres (d : VReg)
  /-- R226: Sends a one-register deposit. -/
  | rstv (b : VReg) (a : VReg)
  /-- R226: Sends a four-register deposit. -/
  | rstv4 (b : VReg) (a : VReg)
  /-- R226: Sends a one-register deposit with release ordering. -/
  | rstvRel (b : VReg) (a : VReg)
  /-- R226: Sends a four-register deposit with release ordering. -/
  | rstv4Rel (b : VReg) (a : VReg)
  /-- R197: Sends a request. -/
  | send (b : VReg) (a : VReg)
  /-- R197: Sends a request whose answer lands in a register pair. -/
  | sendr (b : VReg) (a : VReg) (d : VReg)
  /-- R198: Answers a dispatched request. -/
  | reply (b : VReg) (a : VReg) (l : BitVec 6)
  /-- R199: Waits until a register is PRESENT. -/
  | wrep (a : VReg)
  /-- R200: Enables a channel. -/
  | chen (a : VReg)
  /-- R200: Disables a channel. -/
  | chdis (a : VReg)
  /-- R200: Reads a channel's E and W bits. -/
  | chpend (a : VReg) (d : VReg)
  /-- R202: Claims n free hank slots. -/
  | hkProd (n : BitVec 6) (h : BitVec 4) (d : VReg)
  /-- R202: Commits n hank slots as filled. -/
  | hkComm (n : BitVec 6) (h : BitVec 4)
  /-- R202: Claims n filled hank slots. -/
  | hkCons (n : BitVec 6) (h : BitVec 4) (d : VReg)
  /-- R202: Frees n hank slots. -/
  | hkFree (n : BitVec 6) (h : BitVec 4)
  /-- R265: Initialises a join counter. -/
  | jcInit (s : Scope) (b : VReg) (a : VReg)
  /-- R265: Adds to a join counter. -/
  | jcAdd (s : Scope) (b : VReg) (a : VReg)
  /-- R265: Decrements a join counter. -/
  | jcDec (s : Scope) (b : VReg) (a : VReg)
  /-- R265: Waits until a join counter is at most 0. -/
  | jcWait (s : Scope) (a : VReg)
  /-- R244: Sends a spawn to channel 3. -/
  | spawn (b : VReg) (a : VReg)
  /-- R321: Carder copy from memory into the scratchpad. -/
  | cdrCpy (w : VReg) (r : VReg) (c : VReg)
  /-- R324: Carder deal to a rectangle of scratchpads. -/
  | cdrDeal (w : VReg) (r : VReg) (c : VReg)
  /-- R321: Carder put from the scratchpad into memory, with an optional flag. -/
  | cdrPut (w : VReg) (r : VReg) (c : VReg)
  /-- R321: Carder fill of memory. -/
  | cdrFill (w : VReg) (r : VReg) (c : VReg)
  /-- R323: Carder pack into MX blocks. -/
  | cdrCvt (w : VReg) (r : VReg) (c : VReg)
  /-- R213: Configures a Skimmer box. -/
  | skmCfg (b : VReg) (a : VReg) (d : VReg)
  /-- R213: Sends a put to a Skimmer. -/
  | skmPut (b : VReg) (a : VReg)
  /-- R213: Reads or removes a ranked Skimmer entry. -/
  | skmTake (a : VReg) (d : VReg)
  /-- R139: Fills a block slot and starts the fetch. -/
  | bfetch (a : VReg) (s : Bool)
  /-- R139: Transfers to a block slot's target. -/
  | bjump (s : Bool)
  /-- R139: Transfers to a capability's address. -/
  | jr (a : VReg)
  /-- R141: Reads another context's peer word. -/
  | peer (a : VReg) (d : VReg)
  /-- R141: Waits for a peer's lifetime to end. -/
  | peerw (a : VReg)
  /-- R220: Joins a named Skein or forms a new one. -/
  | join (a : VReg) (d : VReg)
  /-- R221: Leaves the joined Skein. -/
  | leave (d : VReg)
  /-- R66: Parcel mov. -/
  | parcelMov (s : BitVec 5) (d : BitVec 5)
  /-- R66: Parcel add.s32. -/
  | parcelAddS32 (s : BitVec 5) (d : BitVec 5)
  /-- R66: Parcel addi.s32. -/
  | parcelAddiS32 (i : BitVec 5) (d : BitVec 5)
  /-- R66: Parcel sub.s32. -/
  | parcelSubS32 (s : BitVec 5) (d : BitVec 5)
  /-- R66: Parcel add.s64. -/
  | parcelAddS64 (s : BitVec 5) (d : BitVec 5)
  /-- R66: Parcel addi.s64. -/
  | parcelAddiS64 (i : BitVec 5) (d : BitVec 5)
  /-- R66: Parcel mul.s32. -/
  | parcelMulS32 (s : BitVec 5) (d : BitVec 5)
  /-- R66: Parcel min.s32. -/
  | parcelMinS32 (s : BitVec 5) (d : BitVec 5)
  /-- R66: Parcel max.s32. -/
  | parcelMaxS32 (s : BitVec 5) (d : BitVec 5)
  /-- R66: Parcel and. -/
  | parcelAnd (s : BitVec 5) (d : BitVec 5)
  /-- R66: Parcel or. -/
  | parcelOr (s : BitVec 5) (d : BitVec 5)
  /-- R66: Parcel xor. -/
  | parcelXor (s : BitVec 5) (d : BitVec 5)
  /-- R66: Parcel shl.z32 by an immediate. -/
  | parcelShlZ32 (n : BitVec 5) (d : BitVec 5)
  /-- R66: Parcel shr.z32 by an immediate. -/
  | parcelShrZ32 (n : BitVec 5) (d : BitVec 5)
  /-- R66: Parcel sra.s32 by an immediate. -/
  | parcelSraS32 (n : BitVec 5) (d : BitVec 5)
  /-- R66: Parcel add.f32. -/
  | parcelAddF32 (s : BitVec 5) (d : BitVec 5)
  /-- R66: Parcel sub.f32. -/
  | parcelSubF32 (s : BitVec 5) (d : BitVec 5)
  /-- R66: Parcel mul.f32. -/
  | parcelMulF32 (s : BitVec 5) (d : BitVec 5)
  /-- R66: Parcel fma.f32 with v(vs+1). -/
  | parcelFmaF32 (s : BitVec 5) (d : BitVec 5)
  /-- R66: Parcel max.f32. -/
  | parcelMaxF32 (s : BitVec 5) (d : BitVec 5)
  /-- R66: Parcel add.f16. -/
  | parcelAddF16 (s : BitVec 5) (d : BitVec 5)
  /-- R66: Parcel mul.f16. -/
  | parcelMulF16 (s : BitVec 5) (d : BitVec 5)
  /-- R66: Parcel fma.f16 with v(vs+1). -/
  | parcelFmaF16 (s : BitVec 5) (d : BitVec 5)
  /-- R66: Parcel ld.128 at offset 0. -/
  | parcelLd128 (b : BitVec 5) (d : BitVec 5)
  /-- R66: Parcel st.128 at offset 0. -/
  | parcelSt128 (b : BitVec 5) (d : BitVec 5)
  /-- R66: Parcel bcst.z32 of lane 0. -/
  | parcelBcstZ32 (s : BitVec 5) (d : BitVec 5)
  /-- R66: Parcel movi.s32. -/
  | parcelMoviS32 (i : BitVec 5) (d : BitVec 5)
  /-- R66: Parcel neg.s32. -/
  | parcelNegS32 (s : BitVec 5) (d : BitVec 5)
  /-- R157: Appends a block to the Skein's stream. -/
  | jdBcast (b : XReg) (a : XReg) (d : XReg)
  /-- R157: Appends a block to the stream, waiting for room. -/
  | jdBcastw (b : XReg) (a : XReg) (d : XReg)
  /-- R155: Allocates a Skein of STOPPED members. -/
  | jdSkalloc (a : XReg) (d : XReg)
  /-- R156: Frees a Skein and its members. -/
  | jdSkfree (a : XReg) (d : XReg)
  /-- R156: Opens the stream and starts the members in broadcast mode. -/
  | jdSkstart (b : XReg) (a : XReg) (d : XReg)
  /-- R156: Closes the stream. -/
  | jdSkstop (a : XReg) (d : XReg)
  /-- R158: Waits until the members are quiescent. -/
  | jdSkwait (a : XReg) (d : XReg)
  /-- R158: Reads the Skein's status. -/
  | jdSkq (a : XReg) (d : XReg)
  /-- R159: Reads a Fibre's state. -/
  | jdFpeek (a : XReg) (d : XReg)
  /-- R159: Writes a STOPPED or FAULTED Fibre's state. -/
  | jdFpoke (b : XReg) (a : XReg) (d : XReg)
  /-- R204: Sends a message with the payload in a0 to a7. -/
  | jdSend (a : XReg) (d : XReg)
  /-- R204: Sends a message with its payload in the scratchpad. -/
  | jdSendx (b : XReg) (a : XReg) (d : XReg)
  /-- R205: Waits for a message and takes it. -/
  | jdRecv (d : XReg)
  /-- R205: Takes a message if one can be served. -/
  | jdTryrecv (d : XReg)
  /-- R206: Answers the message in jdimsg. -/
  | jdAck (a : XReg) (d : XReg)
  /-- R207: Writes a handler or hank word, or performs a hank operation. -/
  | jdChset (b : XReg) (a : XReg) (d : XReg)
  /-- R207: Reads a handler or hank word. -/
  | jdChget (a : XReg) (d : XReg)
  /-- R207: Enables a channel. -/
  | jdChen (a : XReg) (d : XReg)
  /-- R207: Disables a channel. -/
  | jdChdis (a : XReg) (d : XReg)
  /-- R306: Twister matrix product. -/
  | jdTwmma (b : XReg) (a : XReg) (d : XReg)
  /-- R309: Twister Cannon step. -/
  | jdTwrot (b : XReg) (a : XReg) (d : XReg)
  /-- R309: Twister ring step. -/
  | jdTwring (b : XReg) (a : XReg) (d : XReg)
  /-- R306: Twister batched products. -/
  | jdTwbmm (b : XReg) (a : XReg) (d : XReg)
  /-- R311: Twister epilogue into the scratchpad. -/
  | jdTwepi (b : XReg) (a : XReg) (d : XReg)
  /-- R305: Zeroes an accumulator bank. -/
  | jdTwclr (a : XReg) (d : XReg)
  /-- R305: Exchanges the front and back banks. -/
  | jdTwswp (d : XReg)
  /-- R308: Sets or clears the rotation domain. -/
  | jdTwdom (a : XReg) (d : XReg)
  /-- R313: Saves the Twister image and closes the batch. -/
  | jdTwsave (b : XReg) (a : XReg) (d : XReg)
  /-- R313: Restores a Twister image. -/
  | jdTwrest (a : XReg) (d : XReg)
  /-- R299: Claims or releases the Twister batch. -/
  | jdTwclaim (a : XReg) (d : XReg)
  /-- R312: Reads the Twister state word, optionally waiting for idle. -/
  | jdTwq (a : XReg) (d : XReg)
  /-- R327: Issues a Carder command from a scratchpad record. -/
  | jdCdr (b : XReg) (a : XReg) (d : XReg)
  /-- R213: Configures, takes from or puts to a Skimmer box. -/
  | jdSkm (b : XReg) (a : XReg) (d : XReg)
  /-- R151: Raises cause 24. -/
  | jdTrap (a : XReg)
  /-- R219: Gives a Spindle Skein a pod-wide name. -/
  | jdName (a : XReg) (d : XReg)
  /-- R285: Scoped fence of the hart. -/
  | jdFence (a : XReg)
  /-- R248: Reads a core counter. -/
  | jdCnt (a : XReg) (d : XReg)
  /-- R7: Power-on reset puts every field at its reset value, zeroes the cycle counters and marks every full/empty word EMPTY. -/
  | powerOnReset
  /-- R390: A module reset makes any staged firmware the running firmware and clears the gateway package map to absent. -/
  | moduleReset
  /-- R179: A whole message reaches an inbox, is checked in order and is queued, spilled to the ring, bounced, absorbed or refused. -/
  | messageArrival
  /-- R188: Each cycle the inbox dispatches the first servable queue head to a new context, a hart, the Skimmer or the Carder. -/
  | dispatch
  /-- R145: A reply to a fault message applies RELEASE, RETRY, SKIP or JUMP if its incarnation and sequence match. -/
  | faultReply
  /-- R197: The answer to a sendr lands in its register pair in one cycle and makes both registers PRESENT. -/
  | sendrAnswerLands
  /-- R228: The inbox takes one deposit per cycle, checks it and writes the HELD target, or refuses or forwards the deposit. -/
  | depositArrival
  /-- R230: A name server resolves a deposit by the Skein's state and forwards, applies to the image or refuses it. -/
  | nameServerDeposit
  /-- R216: A resolution from a name server replaces a name-cache entry, least recently used first. -/
  | nameCacheUpdate
  /-- R215: The launch agent allocates the oldest free index of the tenant's range, raises its generation and records it at the name server. -/
  | nameAllocation
  /-- R219: The answer to a name request completes a stalled jd.name, or the PENDING vd of a join with a zero operand. -/
  | nameAnswer
  /-- R210: The Skimmer inserts a put at its rank, evicts the last entry or refuses the put, and counts the drop. -/
  | skimmerPut
  /-- R329: A Carder command that arrives by message is checked against the root capability, then run or rejected. -/
  | carderCommandMessage
  /-- R288: A read reaches its home and is answered with data and poison per granule. -/
  | memoryReadRequest
  /-- R288: A write takes one point in its home's order, or is refused with BUSY or FENCED. -/
  | memoryWriteRequest
  /-- R283: An atomic is performed at its home at one point of the home order and answers the old value. -/
  | atomicRequest
  /-- R286: An lr places the hart's reservation at the home, and any write to the word clears it. -/
  | lrReservation
  /-- R258: An ldfe at the home takes the value of a FULL word and empties it, or queues a waiter. -/
  | homeLdfe
  /-- R258: An ldff at the home answers the value of a FULL word, or queues a waiter. -/
  | homeLdff
  /-- R258: A stef at the home fills an EMPTY word and serves readers, or queues a writer. -/
  | homeStef
  /-- R258: An stff at the home writes the value and makes the word FULL. -/
  | homeStff
  /-- R258: A feclr at the home makes the word EMPTY and serves a writer. -/
  | homeFeclr
  /-- R255: A cancel at the home removes the waiter and answers REMOVED, or answers SERVED. -/
  | homeCancel
  /-- R265: A jc.init at the home sets the count and the continuation, and answers every waiter if the count is at most 0. -/
  | homeJcInit
  /-- R265: A jc.add at the home adds to the count with saturation and crosses if the count falls from above 0 to 0 or below. -/
  | homeJcAdd
  /-- R265: A jc.dec at the home subtracts from the count with saturation and crosses if the count falls from above 0 to 0 or below. -/
  | homeJcDec
  /-- R265: A jc.wait at the home is answered at once if the count is at most 0, and otherwise queues a waiter. -/
  | homeJcWait
  /-- R259: 256 cycles after a WAITFULL refusal arrives, the core sends the same request again. -/
  | waitfullRetry
  /-- R341: 256 cycles after a BUSY refusal arrives, the core translates the operation again and resends it. -/
  | busyRetry
  /-- R277: The last lane of a load lands and its register becomes PRESENT, or a poisoned read is recorded against it. -/
  | loadLands
  /-- R283: An atomic's old value lands in vd, and addf raises its flags. -/
  | atomicAnswerLands
  /-- R261: A full/empty answer completes its instruction, or faults it with POISON. -/
  | feAnswerLands
  /-- R266: A join-counter answer completes the update, and a crossed answer with a nonzero cont posts the continuation. -/
  | jcAnswerLands
  /-- R255: REMOVED faults the waiting context with WAITLIM; after SERVED the context completes when its service answer arrives. -/
  | cancelAnswer
  /-- R254: The e7 count of a wait expires: a local wait faults with WAITLIM, and a remote wait sends a cancel. -/
  | waitLimitExpiry
  /-- R139: A block copy arrives in the block buffer and lets a waiting jump or a first fetch proceed, or report its fault. -/
  | blockFetchComplete
  /-- R131: A STOPPED context that is not a member and has nothing outstanding enters FREE and returns its registers. -/
  | contextDrainComplete
  /-- R337: The service core walks the tenant's tables for a miss and answers with a fill or a refusal. -/
  | translationMiss
  /-- R337: A fill arrives: it installs an entry and reissues the access, or it is discarded as stale. -/
  | translationFill
  /-- R337: A refused walk faults the Fibre with NOMAP, raises cause 13, 15 or 1 on a hart, or ends a Carder command. -/
  | translationRefusal
  /-- R339: A core removes matching entries, records the epoch and answers once the reads that used them have landed. -/
  | shootdownInvalidate
  /-- R339: Every invalidate answer has arrived and the shootdown is complete. -/
  | shootdownComplete
  /-- R340: The copier finishes moving the frame; the descriptor names the destination, held misses are answered and the source is released. -/
  | pageCopyComplete
  /-- R338: A frame reaches 16 corrected errors and starts retiring if the retirement pool holds a frame. -/
  | correctedErrorLimit
  /-- R338: Uncorrectable errors in more than 64 granules make the page POISONED. -/
  | framePoisoned
  /-- R369: An uncorrectable error poisons the granule, word or row, or faults the reading instruction. -/
  | uncorrectableError
  /-- R369: A correctable error is corrected and counted. -/
  | correctableError
  /-- R161: A halt request stops normal issue, aborts waits and records loads and states. -/
  | haltRequest
  /-- R161: Every component has halted; the halt is reported and the image write begins. -/
  | haltComplete
  /-- R161: The image is written and the normal level is SAVED. -/
  | saveComplete
  /-- R170: A restore request starts RESTORING, in which the service core reads the image back. -/
  | restoreRequest
  /-- R170: The image checks and is written back, and the level is LIVE, or the check fails and the kernel fails. -/
  | restoreComplete
  /-- R218: The members are installed on the new core and forwarded deposits are applied. -/
  | skeinMigrationInstalled
  /-- R218: A cache acknowledgement lowers the forwarding count of a migration. -/
  | forwardingAck
  /-- R371: A Fibre starts a signed block once the checker is free, and the block's effects are held from then on. -/
  | signedBlockEntry
  /-- R373: At the marker, the checker compares the path signature and commits the block, reruns it or faults with SIGFAIL. -/
  | signatureMarker
  /-- R296: A Twister command ends and its engine posts the completion reply. -/
  | twisterCommandEnd
  /-- R307: Rotated flits fill a latch's other buffer from FREE through FILLING to FULL. -/
  | latchFlitArrival
  /-- R321: A Carder command finishes its stream or stops on an error, writes the flag of a put, and posts its completion. -/
  | carderCommandEnd
  /-- R324: A deal block reaches a target Carder, which writes it into its scratchpad and acknowledges it. -/
  | dealBlockArrival
  /-- R233: The host's LAUNCH command reads a launch record and puts its kernel in CHECKING. -/
  | launch
  /-- R237: The launch record and image are checked and hashed, and the kernel enters BLOCKED or FAILED. -/
  | launchCheck
  /-- R236: Every prerequisite has ended and the kernel enters PLACING, or fails with PREREQ. -/
  | prerequisitesEnded
  /-- R238: Every core of the placements is free or SAVED and areas are allocated, so the kernel enters LOADING. -/
  | placementReady
  /-- R243: Another package's launch agent reports its placement loaded or failed to the home agent. -/
  | placementReport
  /-- R242: Every placement is loaded; the kernel enters RUNNING and start messages are sent. -/
  | setupComplete
  /-- R242: The home agent takes an answer to a start message: it absorbs a notice, schedules a resend, or fails the kernel. -/
  | startAnswer
  /-- R242: 4,096 cycles after a BOUNCED refusal, the home agent sends the start message again. -/
  | startResend
  /-- R250: After the sweep interval the home agent reads every core's counters and idle state, and ends the kernel on two agreeing sweeps. -/
  | sweep
  /-- R386: MAP action 0 sets a tenant's translation root. -/
  | mapSetRoot
  /-- R338: MAP action 1 installs a leaf as MAPPED and records the frame's owner. -/
  | mapInstallLeaf
  /-- R338: MAP action 2 removes a leaf after a shootdown. -/
  | mapRemoveLeaf
  /-- R386: MAP action 3 sets the firmware region. -/
  | mapSetFirmwareRegion
  /-- R386: MAP action 4 adds a frame to the retirement pool. -/
  | mapAddRetirementFrame
  /-- R340: MIGRATE freezes the page, shoots its translations down and starts the copy to the destination frame. -/
  | migrate
  /-- R365: FENCE_RECT create records a rectangle and resets it as a group. -/
  | fenceRectCreate
  /-- R365: FENCE_RECT seal makes the rectangle SEALED, and its boundary refuses traffic. -/
  | fenceRectSeal
  /-- R365: FENCE_RECT unseal returns the rectangle to ACTIVE. -/
  | fenceRectUnseal
  /-- R365: FENCE_RECT remove resets the rectangle as a group and marks it for removal. -/
  | fenceRectRemove
  /-- R367: RESET_RECT performs a group reset of the rectangle. -/
  | resetRect
  /-- R365: A group reset finishes, and the rectangle becomes ACTIVE or FREE. -/
  | groupResetComplete
  /-- R388: KEY_LOAD of kind 0 decrypts a blob into a memory key slot. -/
  | keyLoadMemory
  /-- R388: KEY_LOAD of kind 1 sets a link key and raises its epoch. -/
  | keyLoadLink
  /-- R381: ATTEST writes a signed attestation report. -/
  | attest
  /-- R376: SPARE_SWAP moves a cluster-row's spare onto a drained cluster. -/
  | spareSwap
  /-- R413: TELEMETRY kind 0 writes the module and per-core counters. -/
  | telemetryErrorCounts
  /-- R343: TELEMETRY kind 1 writes a tenant's hotness records, clearing them if asked. -/
  | telemetryHotness
  /-- R413: TELEMETRY kind 2 writes the cluster-row records and the port states. -/
  | telemetryClusterRows
  /-- R386: TELEMETRY kind 3 writes rails, margins and temperatures. -/
  | telemetryRails
  /-- R386: NAME_RANGE assigns a range of name indices to a tenant. -/
  | nameRange
  /-- R387: POD_CONFIG action 0 sets the package number. -/
  | podConfigSetPackage
  /-- R387: POD_CONFIG action 1 writes a routing entry into the inactive generation. -/
  | podConfigRoutingEntry
  /-- R360: POD_CONFIG action 2 activates the inactive generation and replies once the old count is zero. -/
  | podConfigActivate
  /-- R362: POD_CONFIG action 3 sets a package's marking in the gateway package map. -/
  | podConfigMarkPackage
  /-- R361: POD_CONFIG action 4 enables or disables a port. -/
  | podConfigPort
  /-- R384: A host write of V = 0 frees a reply slot, so the firmware may take the command slot of the same index. -/
  | hostReplySlotRelease
  /-- R383: A host CXL.mem read reaches a PMA through the HDM range. -/
  | hostHdmRead
  /-- R383: A host CXL.mem write is encrypted under the owner's slot, clears tags and writes whole poison granules. -/
  | hostHdmWrite
  /-- R390: A signed PLDM firmware update image is checked and staged. -/
  | firmwareUpdate
  /-- R391: At 105  degrees C the launch agent holds kernels in PLACING and raises a PLDM event. -/
  | thermalHold
  /-- R391: At 115  degrees C firmware resets the module and every kernel fails with status RESET. -/
  | thermalReset
  /-- R375: A lasting fault drains its cluster, fences the core and migrates its Skeins. -/
  | lastingFault
  /-- R377: Every 2^30 cycles firmware samples the monitors and adjusts the rail or drains the cluster. -/
  | marginSample
  /-- R351: Each cycle a router ranks its flits, ejects or deflects each one, and may inject. -/
  | reelFlitRouting
  /-- R353: An injection head that has waited 512 cycles raises the plane's throttle. -/
  | reelThrottle
  /-- R345: A beat arrives on a side link under credit and returns a credit when its buffer frees. -/
  | sideLinkBeat
  /-- R358: A gateway takes a message from the Reel and sends it on a plane, or refuses it with NOCORE for an absent package. -/
  | gatewayMessage
  /-- R356: A data frame is accepted in lseq order or discarded, then passed to the transport window. -/
  | podDataFrame
  /-- R356: An ack-only frame updates lack and starts a go-back-N resend. -/
  | podAckOnlyFrame
  /-- R359: A transport ack frees the acknowledged frames of a stream. -/
  | podTransportAck
  /-- R357: A pause frame pauses or resumes request classes. -/
  | podPauseFrame
  /-- R363: A key change frame moves a stream to the next epoch and restarts tseq. -/
  | podKeyChangeFrame
  /-- R356: After 64 cycles with nothing to send, the receiver sends an ack-only frame. -/
  | linkAckTimer
  /-- R359: The receiver sends a transport ack at least every 256 frames or 1,024 cycles. -/
  | transportAckTimer
  /-- R359: A frame unacknowledged 200,000 cycles after sending is resent on another plane. -/
  | transportResendTimeout
  /-- R359: An inbox's delivery notice lets the gateway inject the next ordered message. -/
  | deliveryNotice
  /-- R361: Training passes or fails, and the port goes UP, stays TRAINING or RETRAIN, or becomes FAILED. -/
  | portTrainingResult
  /-- R361: A loss of lock, or sixteen resends, moves an UP port to RETRAIN. -/
  | portLossOfLock
  /-- R362: An Ultra Ethernet packet is delivered, or dropped for an unsupported mode. -/
  | uePacketReceive
  /-- R104: Does nothing. -/
  | nop
  /-- R104: Faults with EBRK. -/
  | ebrk
  /-- R139: Returns a member to broadcast mode. -/
  | bjumpBc
  /-- R140: Stops the context. -/
  | stop
  /-- R66: Parcel nop. -/
  | parcelNop
  /-- R66: Parcel stop. -/
  | parcelStop
  /-- R66: Parcel ebrk. -/
  | parcelEbrk
  /-- R62: Ends the block. -/
  | endParcel
  /-- R151: Returns from a user interrupt. -/
  | jdUiret
  /-- R284: A hart load checked against the ambient capabilities. -/
  | hartLoad
  /-- R284: A hart store, posted and retired on acceptance. -/
  | hartStore
  /-- R284: A hart atomic memory operation. -/
  | hartAmo
  /-- R286: Load-reserved. -/
  | lr
  /-- R286: Store-conditional. -/
  | sc
  /-- R284: RISC-V fence at core scope. -/
  | riscvFence
  /-- R146: Invalidates the issuing hart's instruction cache. -/
  | fenceI
  /-- R146: Raises cause 8. -/
  | ecall
  /-- R146: Raises cause 2. -/
  | wfi
  /-- R148: A CSR write by a hart, refused with cause 2 for a read-only CSR. -/
  | csrWrite
  /-- R68: A Fibre issues a word or parcel with an unassigned major, sub-code or sub-field, or the all-ones word, and takes ILLINST. -/
  | unassignedEncoding
  /-- R74: A hart executes an unassigned custom-space word or an F or D encoding and takes cause 2 with the word in mtval. -/
  | unassignedCustomWord
  /-- R146: A hart executes an ordinary RV64IMAC or Zicsr instruction, including CSR reads such as cycle, or time, which raises cause 2. -/
  | rv64imacInstruction
  /-- R275: The home's answer that a plain store or scatter lane has been performed arrives, and frees its request-table entry and the waits that depend on it. -/
  | writePerformed
  /-- R284: The data or result of a hart load, lr, AMO or sc returns from its home and releases the held hart. -/
  | hartAccessAnswer
  /-- R307: A downstream neighbour's latch credit reaches a core and lets a waiting rotation command start its sends. -/
  | latchCredit
  /-- R384: The host writes a command slot: a whole 64-byte write sets V, and a shorter write or a write to a slot with V = 1 is discarded and counted. -/
  | hostCommandSlotWrite
  /-- R385: The firmware takes a command with an unknown op, or with plen above 48, and replies BADCMD. -/
  | unknownOpCommand
  /-- R391: The die temperature falls back below 105  degrees C and the launch agent stops holding kernels in PLACING. -/
  | thermalHoldEnd
  deriving DecidableEq, Repr

end Sys2Proof
end

