-- ==== Sys2Proof/WellFormed.lean ====
section
/-! DEFINITION. Well-formed instructions: the operand limits whose breach makes a word no instruction (R68). -/

namespace Sys2Proof

/-- R13: width(t) in bits. -/
def Width.bitsN : Width → Nat
  | .w8 => 8 | .w16 => 16 | .w32 => 32 | .w64 => 64

/-- R13: lanes(t). -/
def Width.lanes : Width → Nat
  | .w8 => 16 | .w16 => 8 | .w32 => 4 | .w64 => 2

/-- R28: width in bits of an element type. -/
def TyCode.bitsN : TyCode → Nat
  | .z8 | .s8 | .e4m3 | .e5m2 => 8
  | .z16 | .s16 | .f16 | .bf16 => 16
  | .z32 | .s32 | .f32 => 32
  | .z64 | .s64 | .f64 => 64

/-- R28: whether an element type is a floating-point type. -/
def TyCode.isFloat : TyCode → Bool
  | .f16 | .bf16 | .f32 | .f64 | .e4m3 | .e5m2 => true
  | .z8 | .s8 | .z16 | .s16 | .z32 | .s32 | .z64 | .s64 => false

/-- R28: whether an integer type is signed. -/
def TyCode.isSigned : TyCode → Bool
  | .s8 | .s16 | .s32 | .s64 => true
  | _ => false

/-- R59: the assigned identity selectors. -/
def idSelectorAssigned (n : Nat) : Bool :=
  n ≤ 0x0A || (0x10 ≤ n && n ≤ 0x14) || (0x18 ≤ n && n ≤ 0x1C) || (0x20 ≤ n && n ≤ 0x23)

/-- R120: the assigned conversions, apart from the destination limit of `.sat`. -/
def cvtAssigned (t s : TyCode) (r : Rm) : Bool :=
  t != s && (t.bitsN ≤ 4 * s.bitsN && s.bitsN ≤ 4 * t.bitsN) &&
  (t.isFloat || s.isFloat || r == .rne) && (t.isFloat || !s.isFloat || r != .sr)

/-- R59, R68, R88, R89, R102, R120: the field limits of each instruction. Rows without limits of their own are
well-formed at every value of their fields; an event carries no fields. -/
def Instr.wf : Instr → Bool
  | .shlImm w n _ _ => n.toNat < w.bitsN
  | .shrImm w n _ _ => n.toNat < w.bitsN
  | .sraImm w n _ _ => n.toNat < w.bitsN
  | .rotImm w n _ _ => n.toNat < w.bitsN
  | .movh _ t p _ => p.toNat + 12 ≤ (if t then 64 else 32)
  | .ext w j _ _ => j.toNat < w.lanes
  | .ins _ w j _ _ => j.toNat < w.lanes
  | .bcst _ w j _ _ => j.toNat < w.lanes
  | .bAll _ n _ => 1 ≤ n.toNat && n.toNat ≤ 16
  | .bNall _ n _ => 1 ≤ n.toNat && n.toNat ≤ 16
  | .setx _ x => x.toNat ≤ 8 || (0x10 ≤ x.toNat && x.toNat ≤ 0x13)
  | .getx x _ => x.toNat ≤ 9 || (0x10 ≤ x.toNat && x.toNat ≤ 0x13)
  | .kset n _ => n.toNat ≤ 16
  | .rdid i _ => idSelectorAssigned i.toNat
  | .rnd r _ _ _ => r != .sr
  | .frc r _ _ _ => r != .sr
  | .cvt t r s _ _ => cvtAssigned t s r
  | .cvtSat t r s _ _ => cvtAssigned t s r && (t == .e4m3 || t == .e5m2)
  | .amoAdd o c _ _ _ => o != .none || c == .core
  | .amoMin o c _ _ _ => o != .none || c == .core
  | .amoMax o c _ _ _ => o != .none || c == .core
  | .amoMinz o c _ _ _ => o != .none || c == .core
  | .amoMaxz o c _ _ _ => o != .none || c == .core
  | .amoAnd o c _ _ _ => o != .none || c == .core
  | .amoOr o c _ _ _ => o != .none || c == .core
  | .amoXor o c _ _ _ => o != .none || c == .core
  | .amoSwp o c _ _ _ => o != .none || c == .core
  | .amoCas o c _ _ _ => o != .none || c == .core
  | .amoAddf o c _ _ _ => o != .none || c == .core
  | .ldfe o c _ _ _ => o || c == .core
  | .ldff o c _ _ _ => o || c == .core
  | .stef o c _ _ _ => o || c == .core
  | .stff o c _ _ _ => o || c == .core
  | .feclr o c _ _ => o || c == .core
  | .reply src _ l => l.toNat ≤ 4 && (l.toNat != 0 || src.toNat == 0)
  | .hkProd n _ _ => n != 0#6
  | .hkComm n _ => n != 0#6
  | .hkCons n _ _ => n != 0#6
  | .hkFree n _ => n != 0#6
  | .parcelFmaF32 s _ => s != 31#5
  | .parcelFmaF16 s _ => s != 31#5
  | .add .. | .sub .. | .addsS .. | .addsZ .. | .subsS .. | .subsZ .. | .neg .. | .abs .. | .mul .. | .mulh ..
  | .mulhz .. | .div .. | .divz .. | .rem .. | .remz .. | .min .. | .max .. | .minz .. | .maxz .. | .and ..
  | .or .. | .xor .. | .andn .. | .shl .. | .shr .. | .sra .. | .rot .. | .clz .. | .popc .. | .cmp ..
  | .sel .. | .mov .. | .addi .. | .movi .. | .shuf .. | .perm .. | .zip .. | .unzip .. | .cinc .. | .cset ..
  | .cbnd .. | .cbndR .. | .cperm .. | .cgetb .. | .cgetl .. | .cgetp .. | .ctag .. | .cclr .. | .cincImm ..
  | .cbndImm .. | .shp .. | .tix .. | .tlin .. | .b .. | .bAny .. | .bNone .. | .bZ .. | .bNz .. | .jal ..
  | .kand .. | .kor .. | .knot .. | .rdc .. | .trap .. | .addFp .. | .subFp .. | .mulFp .. | .divFp ..
  | .minFp .. | .maxFp .. | .sqrt .. | .absFp .. | .negFp .. | .scl .. | .fma .. | .fms .. | .fnma ..
  | .fnms .. | .rsum .. | .rmax .. | .dot .. | .dotSr .. | .cmpFp .. | .classify .. | .mxpk .. | .mxup ..
  | .rcp .. | .rsq .. | .exp2 .. | .log2 .. | .sin .. | .cos .. | .tanh .. | .ld .. | .st .. | .ldAcq ..
  | .stRel .. | .fenceAcq .. | .fenceRel .. | .fence .. | .ldg .. | .stg .. | .ldbc .. | .hold .. | .holdm ..
  | .pres .. | .rstv .. | .rstv4 .. | .rstvRel .. | .rstv4Rel .. | .send .. | .sendr .. | .wrep .. | .chen ..
  | .chdis .. | .chpend .. | .jcInit .. | .jcAdd .. | .jcDec .. | .jcWait .. | .spawn .. | .cdrCpy ..
  | .cdrDeal .. | .cdrPut .. | .cdrFill .. | .cdrCvt .. | .skmCfg .. | .skmPut .. | .skmTake .. | .bfetch ..
  | .bjump .. | .jr .. | .peer .. | .peerw .. | .join .. | .leave .. | .parcelMov .. | .parcelAddS32 ..
  | .parcelAddiS32 .. | .parcelSubS32 .. | .parcelAddS64 .. | .parcelAddiS64 .. | .parcelMulS32 ..
  | .parcelMinS32 .. | .parcelMaxS32 .. | .parcelAnd .. | .parcelOr .. | .parcelXor .. | .parcelShlZ32 ..
  | .parcelShrZ32 .. | .parcelSraS32 .. | .parcelAddF32 .. | .parcelSubF32 .. | .parcelMulF32 ..
  | .parcelMaxF32 .. | .parcelAddF16 .. | .parcelMulF16 .. | .parcelLd128 .. | .parcelSt128 ..
  | .parcelBcstZ32 .. | .parcelMoviS32 .. | .parcelNegS32 .. | .jdBcast .. | .jdBcastw .. | .jdSkalloc ..
  | .jdSkfree .. | .jdSkstart .. | .jdSkstop .. | .jdSkwait .. | .jdSkq .. | .jdFpeek .. | .jdFpoke ..
  | .jdSend .. | .jdSendx .. | .jdRecv .. | .jdTryrecv .. | .jdAck .. | .jdChset .. | .jdChget .. | .jdChen ..
  | .jdChdis .. | .jdTwmma .. | .jdTwrot .. | .jdTwring .. | .jdTwbmm .. | .jdTwepi .. | .jdTwclr ..
  | .jdTwswp .. | .jdTwdom .. | .jdTwsave .. | .jdTwrest .. | .jdTwclaim .. | .jdTwq .. | .jdCdr ..
  | .jdSkm .. | .jdTrap .. | .jdName .. | .jdFence .. | .jdCnt .. | .powerOnReset | .moduleReset
  | .messageArrival | .dispatch | .faultReply | .sendrAnswerLands | .depositArrival | .nameServerDeposit
  | .nameCacheUpdate | .nameAllocation | .nameAnswer | .skimmerPut | .carderCommandMessage
  | .memoryReadRequest | .memoryWriteRequest | .atomicRequest | .lrReservation | .homeLdfe | .homeLdff
  | .homeStef | .homeStff | .homeFeclr | .homeCancel | .homeJcInit | .homeJcAdd | .homeJcDec | .homeJcWait
  | .waitfullRetry | .busyRetry | .loadLands | .atomicAnswerLands | .feAnswerLands | .jcAnswerLands
  | .cancelAnswer | .waitLimitExpiry | .blockFetchComplete | .contextDrainComplete | .translationMiss
  | .translationFill | .translationRefusal | .shootdownInvalidate | .shootdownComplete | .pageCopyComplete
  | .correctedErrorLimit | .framePoisoned | .uncorrectableError | .correctableError | .haltRequest
  | .haltComplete | .saveComplete | .restoreRequest | .restoreComplete | .skeinMigrationInstalled
  | .forwardingAck | .signedBlockEntry | .signatureMarker | .twisterCommandEnd | .latchFlitArrival
  | .carderCommandEnd | .dealBlockArrival | .launch | .launchCheck | .prerequisitesEnded | .placementReady
  | .placementReport | .setupComplete | .startAnswer | .startResend | .sweep | .mapSetRoot | .mapInstallLeaf
  | .mapRemoveLeaf | .mapSetFirmwareRegion | .mapAddRetirementFrame | .migrate | .fenceRectCreate
  | .fenceRectSeal | .fenceRectUnseal | .fenceRectRemove | .resetRect | .groupResetComplete | .keyLoadMemory
  | .keyLoadLink | .attest | .spareSwap | .telemetryErrorCounts | .telemetryHotness | .telemetryClusterRows
  | .telemetryRails | .nameRange | .podConfigSetPackage | .podConfigRoutingEntry | .podConfigActivate
  | .podConfigMarkPackage | .podConfigPort | .hostReplySlotRelease | .hostHdmRead | .hostHdmWrite
  | .firmwareUpdate | .thermalHold | .thermalReset | .lastingFault | .marginSample | .reelFlitRouting
  | .reelThrottle | .sideLinkBeat | .gatewayMessage | .podDataFrame | .podAckOnlyFrame | .podTransportAck
  | .podPauseFrame | .podKeyChangeFrame | .linkAckTimer | .transportAckTimer | .transportResendTimeout
  | .deliveryNotice | .portTrainingResult | .portLossOfLock | .uePacketReceive | .nop | .ebrk | .bjumpBc
  | .stop | .parcelNop | .parcelStop | .parcelEbrk | .endParcel | .jdUiret | .hartLoad | .hartStore | .hartAmo
  | .lr | .sc | .riscvFence | .fenceI | .ecall | .wfi | .csrWrite | .unassignedEncoding
  | .unassignedCustomWord | .rv64imacInstruction | .writePerformed | .hartAccessAnswer | .latchCredit
  | .hostCommandSlotWrite | .unknownOpCommand | .thermalHoldEnd => true

end Sys2Proof
end

