-- ==== Sys2Proof/Decode.lean ====
section
/-! DEFINITION. The decoders and the encoder: Fibre words and parcels (R61 to R69), jd.* words (R73) and the
RV64IMAC, Zicsr, Zifencei, Zba and Zbb words of the harts (R146; their encodings are the RISC-V standard's,
PRESUMED, notes/assumptions/9.md). Decoding is total: what no row assigns is rejected by name. -/

namespace Sys2Proof

/-- Why a Fibre word or parcel is no instruction (R62, R66, R68). -/
inductive Reject where
  | allOnes
  | unassignedMajor
  | unassignedSubcode
  | unassignedCode
  | fieldLimit
  deriving DecidableEq, Repr

/-- R82: width codes. -/
def Width.ofBits (b : BitVec 2) : Width :=
  if b = 0#2 then .w8 else if b = 1#2 then .w16 else if b = 2#2 then .w32 else .w64
def Width.bits : Width → BitVec 2
  | .w8 => 0#2 | .w16 => 1#2 | .w32 => 2#2 | .w64 => 3#2

/-- R110, R113, R117: type codes of the floating-point instructions. -/
def FpT.ofBits (b : BitVec 2) : FpT :=
  if b = 0#2 then .f16 else if b = 1#2 then .bf16 else if b = 2#2 then .f32 else .f64
def FpT.bits : FpT → BitVec 2
  | .f16 => 0#2 | .bf16 => 1#2 | .f32 => 2#2 | .f64 => 3#2

/-- R64: scope codes. -/
def Scope.ofBits (b : BitVec 2) : Scope :=
  if b = 0#2 then .core else if b = 1#2 then .die else if b = 2#2 then .pkg else .pod
def Scope.bits : Scope → BitVec 2
  | .core => 0#2 | .die => 1#2 | .pkg => 2#2 | .pod => 3#2

/-- R64: ordering codes. -/
def Ord.ofBits (b : BitVec 2) : Ord :=
  if b = 0#2 then .none else if b = 1#2 then .acq else if b = 2#2 then .rel else .acqrel
def Ord.bits : Ord → BitVec 2
  | .none => 0#2 | .acq => 1#2 | .rel => 2#2 | .acqrel => 3#2

/-- R64: rounding codes; 6 and 7 are unassigned. -/
def Rm.ofBits (b : BitVec 3) : Option Rm :=
  if b = 0#3 then some .rne else if b = 1#3 then some .rtz else if b = 2#3 then some .rup
  else if b = 3#3 then some .rdn else if b = 4#3 then some .rna else if b = 5#3 then some .sr else none
def Rm.bits : Rm → BitVec 3
  | .rne => 0#3 | .rtz => 1#3 | .rup => 2#3 | .rdn => 3#3 | .rna => 4#3 | .sr => 5#3

/-- R64: size codes; 6 and 7 are unassigned. -/
def Size.ofBits (b : BitVec 3) : Option Size :=
  if b = 0#3 then some .b8 else if b = 1#3 then some .b16 else if b = 2#3 then some .b32
  else if b = 3#3 then some .b64 else if b = 4#3 then some .b128 else if b = 5#3 then some .b256 else none
def Size.bits : Size → BitVec 3
  | .b8 => 0#3 | .b16 => 1#3 | .b32 => 2#3 | .b64 => 3#3 | .b128 => 4#3 | .b256 => 5#3

/-- R86: compare conditions; 6 and 7 are unassigned. -/
def ICond.ofBits (b : BitVec 3) : Option ICond :=
  if b = 0#3 then some .eq else if b = 1#3 then some .ne else if b = 2#3 then some .lt
  else if b = 3#3 then some .le else if b = 4#3 then some .ltz else if b = 5#3 then some .lez else none
def ICond.bits : ICond → BitVec 3
  | .eq => 0#3 | .ne => 1#3 | .lt => 2#3 | .le => 3#3 | .ltz => 4#3 | .lez => 5#3

/-- R117: compare conditions (op 5 is class; 6 and 7 are unassigned). -/
def FCond.ofBits (b : BitVec 3) : Option FCond :=
  if b = 0#3 then some .eq else if b = 1#3 then some .ne else if b = 2#3 then some .lt
  else if b = 3#3 then some .le else if b = 4#3 then some .un else none
def FCond.bits : FCond → BitVec 3
  | .eq => 0#3 | .ne => 1#3 | .lt => 2#3 | .le => 3#3 | .un => 4#3

/-- R124: types of the special functions; 3 is unassigned. -/
def SpT.ofBits (b : BitVec 2) : Option SpT :=
  if b = 0#2 then some .f16 else if b = 1#2 then some .bf16 else if b = 2#2 then some .f32 else none
def SpT.bits : SpT → BitVec 2
  | .f16 => 0#2 | .bf16 => 1#2 | .f32 => 2#2

/-- R28: element type codes; 0xE and 0xF name no element of a conversion. -/
def TyCode.ofBits (b : BitVec 4) : Option TyCode :=
  match b.toNat with
  | 0 => some .z8 | 1 => some .s8 | 2 => some .z16 | 3 => some .s16 | 4 => some .z32 | 5 => some .s32
  | 6 => some .z64 | 7 => some .s64 | 8 => some .f16 | 9 => some .bf16 | 10 => some .f32 | 11 => some .f64
  | 12 => some .e4m3 | 13 => some .e5m2 | _ => none
def TyCode.bits : TyCode → BitVec 4
  | .z8 => 0#4 | .s8 => 1#4 | .z16 => 2#4 | .s16 => 3#4 | .z32 => 4#4 | .s32 => 5#4 | .z64 => 6#4
  | .s64 => 7#4 | .f16 => 8#4 | .bf16 => 9#4 | .f32 => 10#4 | .f64 => 11#4 | .e4m3 => 12#4 | .e5m2 => 13#4

/-- R67: the rows of spec/opcode_table.json with major 0x00, by their match and mask. -/
def rawMajor00 (w : BitVec 32) : Except Reject Instr :=
  if w &&& 0x0E00007F#32 = 0x00000001#32 then .ok (.add (w.extractLsb' 30 2) (Width.ofBits (w.extractLsb' 28 2)) (w.extractLsb' 19 6) (w.extractLsb' 13 6) (w.extractLsb' 7 6))
  else if w &&& 0x0E00007F#32 = 0x02000001#32 then .ok (.sub (w.extractLsb' 30 2) (Width.ofBits (w.extractLsb' 28 2)) (w.extractLsb' 19 6) (w.extractLsb' 13 6) (w.extractLsb' 7 6))
  else if w &&& 0x0E00007F#32 = 0x04000001#32 then .ok (.addsS (w.extractLsb' 30 2) (Width.ofBits (w.extractLsb' 28 2)) (w.extractLsb' 19 6) (w.extractLsb' 13 6) (w.extractLsb' 7 6))
  else if w &&& 0x0E00007F#32 = 0x06000001#32 then .ok (.addsZ (w.extractLsb' 30 2) (Width.ofBits (w.extractLsb' 28 2)) (w.extractLsb' 19 6) (w.extractLsb' 13 6) (w.extractLsb' 7 6))
  else if w &&& 0x0E00007F#32 = 0x08000001#32 then .ok (.subsS (w.extractLsb' 30 2) (Width.ofBits (w.extractLsb' 28 2)) (w.extractLsb' 19 6) (w.extractLsb' 13 6) (w.extractLsb' 7 6))
  else if w &&& 0x0E00007F#32 = 0x0A000001#32 then .ok (.subsZ (w.extractLsb' 30 2) (Width.ofBits (w.extractLsb' 28 2)) (w.extractLsb' 19 6) (w.extractLsb' 13 6) (w.extractLsb' 7 6))
  else if w &&& 0x0FF8007F#32 = 0x0C000001#32 then .ok (.neg (w.extractLsb' 30 2) (Width.ofBits (w.extractLsb' 28 2)) (w.extractLsb' 13 6) (w.extractLsb' 7 6))
  else if w &&& 0x0FF8007F#32 = 0x0E000001#32 then .ok (.abs (w.extractLsb' 30 2) (Width.ofBits (w.extractLsb' 28 2)) (w.extractLsb' 13 6) (w.extractLsb' 7 6))
  else .error .unassignedSubcode

/-- R67: the rows of spec/opcode_table.json with major 0x01, by their match and mask. -/
def rawMajor01 (w : BitVec 32) : Except Reject Instr :=
  if w &&& 0x0E00007F#32 = 0x00000003#32 then .ok (.mul (w.extractLsb' 30 2) (Width.ofBits (w.extractLsb' 28 2)) (w.extractLsb' 19 6) (w.extractLsb' 13 6) (w.extractLsb' 7 6))
  else if w &&& 0x0E00007F#32 = 0x02000003#32 then .ok (.mulh (w.extractLsb' 30 2) (Width.ofBits (w.extractLsb' 28 2)) (w.extractLsb' 19 6) (w.extractLsb' 13 6) (w.extractLsb' 7 6))
  else if w &&& 0x0E00007F#32 = 0x04000003#32 then .ok (.mulhz (w.extractLsb' 30 2) (Width.ofBits (w.extractLsb' 28 2)) (w.extractLsb' 19 6) (w.extractLsb' 13 6) (w.extractLsb' 7 6))
  else if w &&& 0x0E00007F#32 = 0x06000003#32 then .ok (.div (w.extractLsb' 30 2) (Width.ofBits (w.extractLsb' 28 2)) (w.extractLsb' 19 6) (w.extractLsb' 13 6) (w.extractLsb' 7 6))
  else if w &&& 0x0E00007F#32 = 0x08000003#32 then .ok (.divz (w.extractLsb' 30 2) (Width.ofBits (w.extractLsb' 28 2)) (w.extractLsb' 19 6) (w.extractLsb' 13 6) (w.extractLsb' 7 6))
  else if w &&& 0x0E00007F#32 = 0x0A000003#32 then .ok (.rem (w.extractLsb' 30 2) (Width.ofBits (w.extractLsb' 28 2)) (w.extractLsb' 19 6) (w.extractLsb' 13 6) (w.extractLsb' 7 6))
  else if w &&& 0x0E00007F#32 = 0x0C000003#32 then .ok (.remz (w.extractLsb' 30 2) (Width.ofBits (w.extractLsb' 28 2)) (w.extractLsb' 19 6) (w.extractLsb' 13 6) (w.extractLsb' 7 6))
  else .error .unassignedSubcode

/-- R67: the rows of spec/opcode_table.json with major 0x02, by their match and mask. -/
def rawMajor02 (w : BitVec 32) : Except Reject Instr :=
  if w &&& 0x0E00007F#32 = 0x00000005#32 then .ok (.min (w.extractLsb' 30 2) (Width.ofBits (w.extractLsb' 28 2)) (w.extractLsb' 19 6) (w.extractLsb' 13 6) (w.extractLsb' 7 6))
  else if w &&& 0x0E00007F#32 = 0x02000005#32 then .ok (.max (w.extractLsb' 30 2) (Width.ofBits (w.extractLsb' 28 2)) (w.extractLsb' 19 6) (w.extractLsb' 13 6) (w.extractLsb' 7 6))
  else if w &&& 0x0E00007F#32 = 0x04000005#32 then .ok (.minz (w.extractLsb' 30 2) (Width.ofBits (w.extractLsb' 28 2)) (w.extractLsb' 19 6) (w.extractLsb' 13 6) (w.extractLsb' 7 6))
  else if w &&& 0x0E00007F#32 = 0x06000005#32 then .ok (.maxz (w.extractLsb' 30 2) (Width.ofBits (w.extractLsb' 28 2)) (w.extractLsb' 19 6) (w.extractLsb' 13 6) (w.extractLsb' 7 6))
  else if w &&& 0x0E00007F#32 = 0x08000005#32 then .ok (.and (w.extractLsb' 30 2) (Width.ofBits (w.extractLsb' 28 2)) (w.extractLsb' 19 6) (w.extractLsb' 13 6) (w.extractLsb' 7 6))
  else if w &&& 0x0E00007F#32 = 0x0A000005#32 then .ok (.or (w.extractLsb' 30 2) (Width.ofBits (w.extractLsb' 28 2)) (w.extractLsb' 19 6) (w.extractLsb' 13 6) (w.extractLsb' 7 6))
  else if w &&& 0x0E00007F#32 = 0x0C000005#32 then .ok (.xor (w.extractLsb' 30 2) (Width.ofBits (w.extractLsb' 28 2)) (w.extractLsb' 19 6) (w.extractLsb' 13 6) (w.extractLsb' 7 6))
  else if w &&& 0x0E00007F#32 = 0x0E000005#32 then .ok (.andn (w.extractLsb' 30 2) (Width.ofBits (w.extractLsb' 28 2)) (w.extractLsb' 19 6) (w.extractLsb' 13 6) (w.extractLsb' 7 6))
  else .error .unassignedSubcode

/-- R67: the rows of spec/opcode_table.json with major 0x03, by their match and mask. -/
def rawMajor03 (w : BitVec 32) : Except Reject Instr :=
  if w &&& 0x0E00007F#32 = 0x00000007#32 then .ok (.shl (w.extractLsb' 30 2) (Width.ofBits (w.extractLsb' 28 2)) (w.extractLsb' 19 6) (w.extractLsb' 13 6) (w.extractLsb' 7 6))
  else if w &&& 0x0E00007F#32 = 0x02000007#32 then .ok (.shr (w.extractLsb' 30 2) (Width.ofBits (w.extractLsb' 28 2)) (w.extractLsb' 19 6) (w.extractLsb' 13 6) (w.extractLsb' 7 6))
  else if w &&& 0x0E00007F#32 = 0x04000007#32 then .ok (.sra (w.extractLsb' 30 2) (Width.ofBits (w.extractLsb' 28 2)) (w.extractLsb' 19 6) (w.extractLsb' 13 6) (w.extractLsb' 7 6))
  else if w &&& 0x0E00007F#32 = 0x06000007#32 then .ok (.rot (w.extractLsb' 30 2) (Width.ofBits (w.extractLsb' 28 2)) (w.extractLsb' 19 6) (w.extractLsb' 13 6) (w.extractLsb' 7 6))
  else if w &&& 0x0FF8007F#32 = 0x08000007#32 then .ok (.clz (w.extractLsb' 30 2) (Width.ofBits (w.extractLsb' 28 2)) (w.extractLsb' 13 6) (w.extractLsb' 7 6))
  else if w &&& 0x0FF8007F#32 = 0x0A000007#32 then .ok (.popc (w.extractLsb' 30 2) (Width.ofBits (w.extractLsb' 28 2)) (w.extractLsb' 13 6) (w.extractLsb' 7 6))
  else .error .unassignedSubcode

/-- R67: the rows of spec/opcode_table.json with major 0x04, by their match and mask. -/
def rawMajor04 (w : BitVec 32) : Except Reject Instr :=
  if w &&& 0x00001E7F#32 = 0x00000009#32 then (ICond.ofBits (w.extractLsb' 25 3)).elim (.error .unassignedCode) fun x0 => .ok (.cmp (w.extractLsb' 30 2) (Width.ofBits (w.extractLsb' 28 2)) x0 (w.extractLsb' 19 6) (w.extractLsb' 13 6) (w.extractLsb' 7 2))
  else .error .unassignedSubcode

/-- R67: the rows of spec/opcode_table.json with major 0x05, by their match and mask. -/
def rawMajor05 (w : BitVec 32) : Except Reject Instr :=
  if w &&& 0x0E00007F#32 = 0x0000000B#32 then .ok (.sel (w.extractLsb' 30 2) (Width.ofBits (w.extractLsb' 28 2)) (w.extractLsb' 19 6) (w.extractLsb' 13 6) (w.extractLsb' 7 6))
  else if w &&& 0x0FF8007F#32 = 0x0200000B#32 then .ok (.mov (w.extractLsb' 30 2) (Width.ofBits (w.extractLsb' 28 2)) (w.extractLsb' 13 6) (w.extractLsb' 7 6))
  else .error .unassignedSubcode

/-- R67: the rows of spec/opcode_table.json with major 0x08, by their match and mask. -/
def rawMajor08 (w : BitVec 32) : Except Reject Instr :=
  if w &&& 0x0000007F#32 = 0x00000011#32 then .ok (.addi (w.extractLsb' 20 12) ((w.extractLsb' 19 1) == 1#1) (w.extractLsb' 13 6) (w.extractLsb' 7 6))
  else .error .unassignedSubcode

/-- R67: the rows of spec/opcode_table.json with major 0x09, by their match and mask. -/
def rawMajor09 (w : BitVec 32) : Except Reject Instr :=
  if w &&& 0xCC08007F#32 = 0x00000013#32 then .ok (.shlImm (Width.ofBits (w.extractLsb' 28 2)) (w.extractLsb' 20 6) (w.extractLsb' 13 6) (w.extractLsb' 7 6))
  else if w &&& 0xCC08007F#32 = 0x40000013#32 then .ok (.shrImm (Width.ofBits (w.extractLsb' 28 2)) (w.extractLsb' 20 6) (w.extractLsb' 13 6) (w.extractLsb' 7 6))
  else if w &&& 0xCC08007F#32 = 0x80000013#32 then .ok (.sraImm (Width.ofBits (w.extractLsb' 28 2)) (w.extractLsb' 20 6) (w.extractLsb' 13 6) (w.extractLsb' 7 6))
  else if w &&& 0xCC08007F#32 = 0xC0000013#32 then .ok (.rotImm (Width.ofBits (w.extractLsb' 28 2)) (w.extractLsb' 20 6) (w.extractLsb' 13 6) (w.extractLsb' 7 6))
  else .error .unassignedSubcode

/-- R67: the rows of spec/opcode_table.json with major 0x0A, by their match and mask. -/
def rawMajor0A (w : BitVec 32) : Except Reject Instr :=
  if w &&& 0x0007807F#32 = 0x00000015#32 then .ok (.movi (w.extractLsb' 20 12) ((w.extractLsb' 19 1) == 1#1) (Width.ofBits (w.extractLsb' 13 2)) (w.extractLsb' 7 6))
  else .error .unassignedSubcode

/-- R67: the rows of spec/opcode_table.json with major 0x0B, by their match and mask. -/
def rawMajor0B (w : BitVec 32) : Except Reject Instr :=
  if w &&& 0x0000007F#32 = 0x00000017#32 then .ok (.movh (w.extractLsb' 20 12) ((w.extractLsb' 19 1) == 1#1) (w.extractLsb' 13 6) (w.extractLsb' 7 6))
  else .error .unassignedSubcode

/-- R67: the rows of spec/opcode_table.json with major 0x0F, by their match and mask. -/
def rawMajor0F (w : BitVec 32) : Except Reject Instr :=
  if w &&& 0xCE00007F#32 = 0x0000001F#32 then .ok (.ext (Width.ofBits (w.extractLsb' 28 2)) (w.extractLsb' 19 6) (w.extractLsb' 13 6) (w.extractLsb' 7 6))
  else if w &&& 0x0E00007F#32 = 0x0200001F#32 then .ok (.ins (w.extractLsb' 30 2) (Width.ofBits (w.extractLsb' 28 2)) (w.extractLsb' 19 6) (w.extractLsb' 13 6) (w.extractLsb' 7 6))
  else if w &&& 0x0E00007F#32 = 0x0400001F#32 then .ok (.bcst (w.extractLsb' 30 2) (Width.ofBits (w.extractLsb' 28 2)) (w.extractLsb' 19 6) (w.extractLsb' 13 6) (w.extractLsb' 7 6))
  else if w &&& 0x0E00007F#32 = 0x0600001F#32 then .ok (.shuf (w.extractLsb' 30 2) (Width.ofBits (w.extractLsb' 28 2)) (w.extractLsb' 19 6) (w.extractLsb' 13 6) (w.extractLsb' 7 6))
  else if w &&& 0x0E00007F#32 = 0x0800001F#32 then .ok (.perm (w.extractLsb' 30 2) (Width.ofBits (w.extractLsb' 28 2)) (w.extractLsb' 19 6) (w.extractLsb' 13 6) (w.extractLsb' 7 6))
  else if w &&& 0xCE00007F#32 = 0x0A00001F#32 then .ok (.zip (Width.ofBits (w.extractLsb' 28 2)) (w.extractLsb' 19 6) (w.extractLsb' 13 6) (w.extractLsb' 7 6))
  else if w &&& 0xCE00007F#32 = 0x0C00001F#32 then .ok (.unzip (Width.ofBits (w.extractLsb' 28 2)) (w.extractLsb' 19 6) (w.extractLsb' 13 6) (w.extractLsb' 7 6))
  else .error .unassignedSubcode

/-- R67: the rows of spec/opcode_table.json with major 0x0C, by their match and mask. -/
def rawMajor0C (w : BitVec 32) : Except Reject Instr :=
  if w &&& 0xFE00007F#32 = 0x00000019#32 then .ok (.cinc (w.extractLsb' 19 6) (w.extractLsb' 13 6) (w.extractLsb' 7 6))
  else if w &&& 0xFE00007F#32 = 0x02000019#32 then .ok (.cset (w.extractLsb' 19 6) (w.extractLsb' 13 6) (w.extractLsb' 7 6))
  else if w &&& 0xFE00007F#32 = 0x04000019#32 then .ok (.cbnd (w.extractLsb' 19 6) (w.extractLsb' 13 6) (w.extractLsb' 7 6))
  else if w &&& 0xFE00007F#32 = 0x06000019#32 then .ok (.cbndR (w.extractLsb' 19 6) (w.extractLsb' 13 6) (w.extractLsb' 7 6))
  else if w &&& 0xFE00007F#32 = 0x08000019#32 then .ok (.cperm (w.extractLsb' 19 6) (w.extractLsb' 13 6) (w.extractLsb' 7 6))
  else if w &&& 0xFFF8007F#32 = 0x0A000019#32 then .ok (.cgetb (w.extractLsb' 13 6) (w.extractLsb' 7 6))
  else if w &&& 0xFFF8007F#32 = 0x0C000019#32 then .ok (.cgetl (w.extractLsb' 13 6) (w.extractLsb' 7 6))
  else if w &&& 0xFFF8007F#32 = 0x0E000019#32 then .ok (.cgetp (w.extractLsb' 13 6) (w.extractLsb' 7 6))
  else if w &&& 0xFFF8007F#32 = 0x10000019#32 then .ok (.ctag (w.extractLsb' 13 6) (w.extractLsb' 7 6))
  else if w &&& 0xFFF8007F#32 = 0x12000019#32 then .ok (.cclr (w.extractLsb' 13 6) (w.extractLsb' 7 6))
  else .error .unassignedSubcode

/-- R67: the rows of spec/opcode_table.json with major 0x0D, by their match and mask. -/
def rawMajor0D (w : BitVec 32) : Except Reject Instr :=
  if w &&& 0x0008007F#32 = 0x0000001B#32 then .ok (.cincImm (w.extractLsb' 20 12) (w.extractLsb' 13 6) (w.extractLsb' 7 6))
  else if w &&& 0x0008007F#32 = 0x0008001B#32 then .ok (.cbndImm (w.extractLsb' 20 12) (w.extractLsb' 13 6) (w.extractLsb' 7 6))
  else .error .unassignedSubcode

/-- R67: the rows of spec/opcode_table.json with major 0x0E, by their match and mask. -/
def rawMajor0E (w : BitVec 32) : Except Reject Instr :=
  if w &&& 0xFFF8007F#32 = 0x0000001D#32 then .ok (.shp (w.extractLsb' 13 6) (w.extractLsb' 7 6))
  else if w &&& 0xFE00007F#32 = 0x0200001D#32 then .ok (.tix (w.extractLsb' 19 6) (w.extractLsb' 13 6) (w.extractLsb' 7 6))
  else if w &&& 0xFE00007F#32 = 0x0400001D#32 then .ok (.tlin (w.extractLsb' 19 6) (w.extractLsb' 13 6) (w.extractLsb' 7 6))
  else .error .unassignedSubcode

/-- R67: the rows of spec/opcode_table.json with major 0x30, by their match and mask. -/
def rawMajor30 (w : BitVec 32) : Except Reject Instr :=
  if w &&& 0x0007FFFF#32 = 0x00000061#32 then .ok (.b (w.extractLsb' 19 13))
  else if w &&& 0x0007FCFF#32 = 0x00000461#32 then .ok (.bAny (w.extractLsb' 19 13) (w.extractLsb' 8 2))
  else if w &&& 0x0007FCFF#32 = 0x00000861#32 then .ok (.bNone (w.extractLsb' 19 13) (w.extractLsb' 8 2))
  else if w &&& 0x00001CFF#32 = 0x00000C61#32 then .ok (.bAll (w.extractLsb' 19 13) (w.extractLsb' 13 6) (w.extractLsb' 8 2))
  else if w &&& 0x00001CFF#32 = 0x00001061#32 then .ok (.bNall (w.extractLsb' 19 13) (w.extractLsb' 13 6) (w.extractLsb' 8 2))
  else if w &&& 0x00001FFF#32 = 0x00001461#32 then .ok (.bZ (w.extractLsb' 19 13) (w.extractLsb' 13 6))
  else if w &&& 0x00001FFF#32 = 0x00001861#32 then .ok (.bNz (w.extractLsb' 19 13) (w.extractLsb' 13 6))
  else .error .unassignedSubcode

/-- R67: the rows of spec/opcode_table.json with major 0x32, by their match and mask. -/
def rawMajor32 (w : BitVec 32) : Except Reject Instr :=
  if w &&& 0x0000007F#32 = 0x00000065#32 then .ok (.jal (w.extractLsb' 7 25))
  else .error .unassignedSubcode

/-- R67: the rows of spec/opcode_table.json with major 0x33, by their match and mask. -/
def rawMajor33 (w : BitVec 32) : Except Reject Instr :=
  if w &&& 0xFFF8007F#32 = 0x00000067#32 then .ok (.setx (w.extractLsb' 13 6) (w.extractLsb' 7 6))
  else if w &&& 0xFFF8007F#32 = 0x02000067#32 then .ok (.getx (w.extractLsb' 13 6) (w.extractLsb' 7 6))
  else if w &&& 0xFFF81E7F#32 = 0x04000067#32 then .ok (.kset (w.extractLsb' 13 6) (w.extractLsb' 7 2))
  else if w &&& 0xFFE79E7F#32 = 0x06000067#32 then .ok (.kand (w.extractLsb' 19 2) (w.extractLsb' 13 2) (w.extractLsb' 7 2))
  else if w &&& 0xFFE79E7F#32 = 0x08000067#32 then .ok (.kor (w.extractLsb' 19 2) (w.extractLsb' 13 2) (w.extractLsb' 7 2))
  else if w &&& 0xFFFF9E7F#32 = 0x0A000067#32 then .ok (.knot (w.extractLsb' 13 2) (w.extractLsb' 7 2))
  else if w &&& 0xFFFFE07F#32 = 0x0C000067#32 then .ok (.rdc (w.extractLsb' 7 6))
  else if w &&& 0xFFF8007F#32 = 0x0E000067#32 then .ok (.rdid (w.extractLsb' 13 6) (w.extractLsb' 7 6))
  else if w &&& 0xFFFFFFFF#32 = 0x10000067#32 then .ok .nop
  else if w &&& 0xFFF81FFF#32 = 0x12000067#32 then .ok (.trap (w.extractLsb' 13 6))
  else if w &&& 0xFFFFFFFF#32 = 0x14000067#32 then .ok .ebrk
  else .error .unassignedSubcode

/-- R67: the rows of spec/opcode_table.json with major 0x10 to 0x13, by their match and mask. -/
def rawMajor10 (w : BitVec 32) : Except Reject Instr :=
  if w &&& 0xF0000079#32 = 0x00000021#32 then (Rm.ofBits (w.extractLsb' 25 3)).elim (.error .unassignedCode) fun x0 => .ok (.addFp x0 (w.extractLsb' 19 6) (w.extractLsb' 13 6) (w.extractLsb' 7 6) (FpT.ofBits (w.extractLsb' 1 2)))
  else if w &&& 0xF0000079#32 = 0x10000021#32 then (Rm.ofBits (w.extractLsb' 25 3)).elim (.error .unassignedCode) fun x0 => .ok (.subFp x0 (w.extractLsb' 19 6) (w.extractLsb' 13 6) (w.extractLsb' 7 6) (FpT.ofBits (w.extractLsb' 1 2)))
  else if w &&& 0xF0000079#32 = 0x20000021#32 then (Rm.ofBits (w.extractLsb' 25 3)).elim (.error .unassignedCode) fun x0 => .ok (.mulFp x0 (w.extractLsb' 19 6) (w.extractLsb' 13 6) (w.extractLsb' 7 6) (FpT.ofBits (w.extractLsb' 1 2)))
  else if w &&& 0xF0000079#32 = 0x30000021#32 then (Rm.ofBits (w.extractLsb' 25 3)).elim (.error .unassignedCode) fun x0 => .ok (.divFp x0 (w.extractLsb' 19 6) (w.extractLsb' 13 6) (w.extractLsb' 7 6) (FpT.ofBits (w.extractLsb' 1 2)))
  else if w &&& 0xFE000079#32 = 0x40000021#32 then .ok (.minFp (w.extractLsb' 19 6) (w.extractLsb' 13 6) (w.extractLsb' 7 6) (FpT.ofBits (w.extractLsb' 1 2)))
  else if w &&& 0xFE000079#32 = 0x50000021#32 then .ok (.maxFp (w.extractLsb' 19 6) (w.extractLsb' 13 6) (w.extractLsb' 7 6) (FpT.ofBits (w.extractLsb' 1 2)))
  else if w &&& 0xF1F80079#32 = 0x60000021#32 then (Rm.ofBits (w.extractLsb' 25 3)).elim (.error .unassignedCode) fun x0 => .ok (.sqrt x0 (w.extractLsb' 13 6) (w.extractLsb' 7 6) (FpT.ofBits (w.extractLsb' 1 2)))
  else if w &&& 0xFFF80079#32 = 0x70000021#32 then .ok (.absFp (w.extractLsb' 13 6) (w.extractLsb' 7 6) (FpT.ofBits (w.extractLsb' 1 2)))
  else if w &&& 0xFFF80079#32 = 0x80000021#32 then .ok (.negFp (w.extractLsb' 13 6) (w.extractLsb' 7 6) (FpT.ofBits (w.extractLsb' 1 2)))
  else if w &&& 0xF0000079#32 = 0x90000021#32 then (Rm.ofBits (w.extractLsb' 25 3)).elim (.error .unassignedCode) fun x0 => .ok (.scl x0 (w.extractLsb' 19 6) (w.extractLsb' 13 6) (w.extractLsb' 7 6) (FpT.ofBits (w.extractLsb' 1 2)))
  else if w &&& 0xF1F80079#32 = 0xA0000021#32 then (Rm.ofBits (w.extractLsb' 25 3)).elim (.error .unassignedCode) fun x0 => .ok (.rnd x0 (w.extractLsb' 13 6) (w.extractLsb' 7 6) (FpT.ofBits (w.extractLsb' 1 2)))
  else if w &&& 0xF1F80079#32 = 0xB0000021#32 then (Rm.ofBits (w.extractLsb' 25 3)).elim (.error .unassignedCode) fun x0 => .ok (.frc x0 (w.extractLsb' 13 6) (w.extractLsb' 7 6) (FpT.ofBits (w.extractLsb' 1 2)))
  else .error .unassignedSubcode

/-- R67: the rows of spec/opcode_table.json with major 0x14 to 0x17, by their match and mask. -/
def rawMajor14 (w : BitVec 32) : Except Reject Instr :=
  if w &&& 0x30000079#32 = 0x00000029#32 then (Rm.ofBits (w.extractLsb' 25 3)).elim (.error .unassignedCode) fun x0 => .ok (.fma (w.extractLsb' 30 2) x0 (w.extractLsb' 19 6) (w.extractLsb' 13 6) (w.extractLsb' 7 6) (FpT.ofBits (w.extractLsb' 1 2)))
  else if w &&& 0x30000079#32 = 0x10000029#32 then (Rm.ofBits (w.extractLsb' 25 3)).elim (.error .unassignedCode) fun x0 => .ok (.fms (w.extractLsb' 30 2) x0 (w.extractLsb' 19 6) (w.extractLsb' 13 6) (w.extractLsb' 7 6) (FpT.ofBits (w.extractLsb' 1 2)))
  else if w &&& 0x30000079#32 = 0x20000029#32 then (Rm.ofBits (w.extractLsb' 25 3)).elim (.error .unassignedCode) fun x0 => .ok (.fnma (w.extractLsb' 30 2) x0 (w.extractLsb' 19 6) (w.extractLsb' 13 6) (w.extractLsb' 7 6) (FpT.ofBits (w.extractLsb' 1 2)))
  else if w &&& 0x30000079#32 = 0x30000029#32 then (Rm.ofBits (w.extractLsb' 25 3)).elim (.error .unassignedCode) fun x0 => .ok (.fnms (w.extractLsb' 30 2) x0 (w.extractLsb' 19 6) (w.extractLsb' 13 6) (w.extractLsb' 7 6) (FpT.ofBits (w.extractLsb' 1 2)))
  else .error .unassignedSubcode

/-- R67: the rows of spec/opcode_table.json with major 0x18, by their match and mask. -/
def rawMajor18 (w : BitVec 32) : Except Reject Instr :=
  if w &&& 0x0FC0007F#32 = 0x00000031#32 then (Rm.ofBits (w.extractLsb' 19 3)).elim (.error .unassignedCode) fun x0 => .ok (.rsum (w.extractLsb' 30 2) (FpT.ofBits (w.extractLsb' 28 2)) x0 (w.extractLsb' 13 6) (w.extractLsb' 7 6))
  else if w &&& 0x0FF8007F#32 = 0x02000031#32 then .ok (.rmax (w.extractLsb' 30 2) (FpT.ofBits (w.extractLsb' 28 2)) (w.extractLsb' 13 6) (w.extractLsb' 7 6))
  else if w &&& 0x0E00007F#32 = 0x04000031#32 then .ok (.dot (w.extractLsb' 30 2) (FpT.ofBits (w.extractLsb' 28 2)) (w.extractLsb' 19 6) (w.extractLsb' 13 6) (w.extractLsb' 7 6))
  else if w &&& 0x0E00007F#32 = 0x06000031#32 then .ok (.dotSr (w.extractLsb' 30 2) (FpT.ofBits (w.extractLsb' 28 2)) (w.extractLsb' 19 6) (w.extractLsb' 13 6) (w.extractLsb' 7 6))
  else .error .unassignedSubcode

/-- R67: the rows of spec/opcode_table.json with major 0x1B, by their match and mask. -/
def rawMajor1B (w : BitVec 32) : Except Reject Instr :=
  if w &&& 0x0FF8007F#32 = 0x0A000037#32 then .ok (.classify (w.extractLsb' 30 2) (FpT.ofBits (w.extractLsb' 28 2)) (w.extractLsb' 13 6) (w.extractLsb' 7 6))
  else if w &&& 0x00001E7F#32 = 0x00000037#32 then (FCond.ofBits (w.extractLsb' 25 3)).elim (.error .unassignedCode) fun x0 => .ok (.cmpFp (w.extractLsb' 30 2) (FpT.ofBits (w.extractLsb' 28 2)) x0 (w.extractLsb' 19 6) (w.extractLsb' 13 6) (w.extractLsb' 7 2))
  else .error .unassignedSubcode

/-- R67: the rows of spec/opcode_table.json with major 0x19, by their match and mask. -/
def rawMajor19 (w : BitVec 32) : Except Reject Instr :=
  if w &&& 0x0180007F#32 = 0x00000033#32 then (TyCode.ofBits (w.extractLsb' 28 4)).elim (.error .unassignedCode) fun x0 => (Rm.ofBits (w.extractLsb' 25 3)).elim (.error .unassignedCode) fun x1 => (TyCode.ofBits (w.extractLsb' 19 4)).elim (.error .unassignedCode) fun x2 => .ok (.cvt x0 x1 x2 (w.extractLsb' 13 6) (w.extractLsb' 7 6))
  else if w &&& 0x0180007F#32 = 0x00800033#32 then (TyCode.ofBits (w.extractLsb' 28 4)).elim (.error .unassignedCode) fun x0 => (Rm.ofBits (w.extractLsb' 25 3)).elim (.error .unassignedCode) fun x1 => (TyCode.ofBits (w.extractLsb' 19 4)).elim (.error .unassignedCode) fun x2 => .ok (.cvtSat x0 x1 x2 (w.extractLsb' 13 6) (w.extractLsb' 7 6))
  else if w &&& 0xDFF0007F#32 = 0xC1400033#32 then .ok (.mxpk ((w.extractLsb' 29 1) == 1#1) ((w.extractLsb' 19 1) == 1#1) (w.extractLsb' 13 6) (w.extractLsb' 7 6))
  else if w &&& 0xE1E8007F#32 = 0x81E00033#32 then (Rm.ofBits (w.extractLsb' 25 3)).elim (.error .unassignedCode) fun x0 => .ok (.mxup ((w.extractLsb' 28 1) == 1#1) x0 ((w.extractLsb' 20 1) == 1#1) (w.extractLsb' 13 6) (w.extractLsb' 7 6))
  else .error .unassignedSubcode

/-- R67: the rows of spec/opcode_table.json with major 0x1A, by their match and mask. -/
def rawMajor1A (w : BitVec 32) : Except Reject Instr :=
  if w &&& 0xFFE0007F#32 = 0x00000035#32 then (SpT.ofBits (w.extractLsb' 19 2)).elim (.error .unassignedCode) fun x0 => .ok (.rcp x0 (w.extractLsb' 13 6) (w.extractLsb' 7 6))
  else if w &&& 0xFFE0007F#32 = 0x10000035#32 then (SpT.ofBits (w.extractLsb' 19 2)).elim (.error .unassignedCode) fun x0 => .ok (.rsq x0 (w.extractLsb' 13 6) (w.extractLsb' 7 6))
  else if w &&& 0xFFE0007F#32 = 0x20000035#32 then (SpT.ofBits (w.extractLsb' 19 2)).elim (.error .unassignedCode) fun x0 => .ok (.exp2 x0 (w.extractLsb' 13 6) (w.extractLsb' 7 6))
  else if w &&& 0xFFE0007F#32 = 0x30000035#32 then (SpT.ofBits (w.extractLsb' 19 2)).elim (.error .unassignedCode) fun x0 => .ok (.log2 x0 (w.extractLsb' 13 6) (w.extractLsb' 7 6))
  else if w &&& 0xFFE0007F#32 = 0x40000035#32 then (SpT.ofBits (w.extractLsb' 19 2)).elim (.error .unassignedCode) fun x0 => .ok (.sin x0 (w.extractLsb' 13 6) (w.extractLsb' 7 6))
  else if w &&& 0xFFE0007F#32 = 0x50000035#32 then (SpT.ofBits (w.extractLsb' 19 2)).elim (.error .unassignedCode) fun x0 => .ok (.cos x0 (w.extractLsb' 13 6) (w.extractLsb' 7 6))
  else if w &&& 0xFFE0007F#32 = 0x60000035#32 then (SpT.ofBits (w.extractLsb' 19 2)).elim (.error .unassignedCode) fun x0 => .ok (.tanh x0 (w.extractLsb' 13 6) (w.extractLsb' 7 6))
  else .error .unassignedSubcode

/-- R67: the rows of spec/opcode_table.json with major 0x20, by their match and mask. -/
def rawMajor20 (w : BitVec 32) : Except Reject Instr :=
  if w &&& 0x0000007F#32 = 0x00000041#32 then (Size.ofBits (w.extractLsb' 19 3)).elim (.error .unassignedCode) fun x0 => .ok (.ld (w.extractLsb' 22 10) x0 (w.extractLsb' 13 6) (w.extractLsb' 7 6))
  else .error .unassignedSubcode

/-- R67: the rows of spec/opcode_table.json with major 0x21, by their match and mask. -/
def rawMajor21 (w : BitVec 32) : Except Reject Instr :=
  if w &&& 0x0000007F#32 = 0x00000043#32 then (Size.ofBits (w.extractLsb' 19 3)).elim (.error .unassignedCode) fun x0 => .ok (.st (w.extractLsb' 22 10) x0 (w.extractLsb' 13 6) (w.extractLsb' 7 6))
  else .error .unassignedSubcode

/-- R67: the rows of spec/opcode_table.json with major 0x22, by their match and mask. -/
def rawMajor22 (w : BitVec 32) : Except Reject Instr :=
  if w &&& 0xC000007F#32 = 0x40000045#32 then (Size.ofBits (w.extractLsb' 19 3)).elim (.error .unassignedCode) fun x0 => .ok (.ldAcq (Scope.ofBits (w.extractLsb' 28 2)) (w.extractLsb' 22 6) x0 (w.extractLsb' 13 6) (w.extractLsb' 7 6))
  else if w &&& 0xC000007F#32 = 0x80000045#32 then (Size.ofBits (w.extractLsb' 19 3)).elim (.error .unassignedCode) fun x0 => .ok (.stRel (Scope.ofBits (w.extractLsb' 28 2)) (w.extractLsb' 22 6) x0 (w.extractLsb' 13 6) (w.extractLsb' 7 6))
  else if w &&& 0xCFFFFFFF#32 = 0xC0080045#32 then .ok (.fenceAcq (Scope.ofBits (w.extractLsb' 28 2)))
  else if w &&& 0xCFFFFFFF#32 = 0xC0100045#32 then .ok (.fenceRel (Scope.ofBits (w.extractLsb' 28 2)))
  else if w &&& 0xCFFFFFFF#32 = 0xC0180045#32 then .ok (.fence (Scope.ofBits (w.extractLsb' 28 2)))
  else .error .unassignedSubcode

/-- R67: the rows of spec/opcode_table.json with major 0x23, by their match and mask. -/
def rawMajor23 (w : BitVec 32) : Except Reject Instr :=
  if w &&& 0x2E00007F#32 = 0x20000047#32 then .ok (.ldg (w.extractLsb' 30 2) ((w.extractLsb' 28 1) == 1#1) (w.extractLsb' 19 6) (w.extractLsb' 13 6) (w.extractLsb' 7 6))
  else if w &&& 0x2E00007F#32 = 0x22000047#32 then .ok (.stg (w.extractLsb' 30 2) ((w.extractLsb' 28 1) == 1#1) (w.extractLsb' 19 6) (w.extractLsb' 13 6) (w.extractLsb' 7 6))
  else if w &&& 0x0FF8007F#32 = 0x04000047#32 then .ok (.ldbc (w.extractLsb' 30 2) (Width.ofBits (w.extractLsb' 28 2)) (w.extractLsb' 13 6) (w.extractLsb' 7 6))
  else .error .unassignedSubcode

/-- R67: the rows of spec/opcode_table.json with major 0x24, by their match and mask. -/
def rawMajor24 (w : BitVec 32) : Except Reject Instr :=
  if w &&& 0x0FF0007F#32 = 0x00100049#32 then .ok (.amoAdd (Ord.ofBits (w.extractLsb' 30 2)) (Scope.ofBits (w.extractLsb' 28 2)) ((w.extractLsb' 19 1) == 1#1) (w.extractLsb' 13 6) (w.extractLsb' 7 6))
  else if w &&& 0x0FF0007F#32 = 0x00500049#32 then .ok (.amoMin (Ord.ofBits (w.extractLsb' 30 2)) (Scope.ofBits (w.extractLsb' 28 2)) ((w.extractLsb' 19 1) == 1#1) (w.extractLsb' 13 6) (w.extractLsb' 7 6))
  else if w &&& 0x0FF0007F#32 = 0x00900049#32 then .ok (.amoMax (Ord.ofBits (w.extractLsb' 30 2)) (Scope.ofBits (w.extractLsb' 28 2)) ((w.extractLsb' 19 1) == 1#1) (w.extractLsb' 13 6) (w.extractLsb' 7 6))
  else if w &&& 0x0FF0007F#32 = 0x00D00049#32 then .ok (.amoMinz (Ord.ofBits (w.extractLsb' 30 2)) (Scope.ofBits (w.extractLsb' 28 2)) ((w.extractLsb' 19 1) == 1#1) (w.extractLsb' 13 6) (w.extractLsb' 7 6))
  else if w &&& 0x0FF0007F#32 = 0x01100049#32 then .ok (.amoMaxz (Ord.ofBits (w.extractLsb' 30 2)) (Scope.ofBits (w.extractLsb' 28 2)) ((w.extractLsb' 19 1) == 1#1) (w.extractLsb' 13 6) (w.extractLsb' 7 6))
  else if w &&& 0x0FF0007F#32 = 0x01500049#32 then .ok (.amoAnd (Ord.ofBits (w.extractLsb' 30 2)) (Scope.ofBits (w.extractLsb' 28 2)) ((w.extractLsb' 19 1) == 1#1) (w.extractLsb' 13 6) (w.extractLsb' 7 6))
  else if w &&& 0x0FF0007F#32 = 0x01900049#32 then .ok (.amoOr (Ord.ofBits (w.extractLsb' 30 2)) (Scope.ofBits (w.extractLsb' 28 2)) ((w.extractLsb' 19 1) == 1#1) (w.extractLsb' 13 6) (w.extractLsb' 7 6))
  else if w &&& 0x0FF0007F#32 = 0x01D00049#32 then .ok (.amoXor (Ord.ofBits (w.extractLsb' 30 2)) (Scope.ofBits (w.extractLsb' 28 2)) ((w.extractLsb' 19 1) == 1#1) (w.extractLsb' 13 6) (w.extractLsb' 7 6))
  else if w &&& 0x0FF0007F#32 = 0x02100049#32 then .ok (.amoSwp (Ord.ofBits (w.extractLsb' 30 2)) (Scope.ofBits (w.extractLsb' 28 2)) ((w.extractLsb' 19 1) == 1#1) (w.extractLsb' 13 6) (w.extractLsb' 7 6))
  else if w &&& 0x0FF0007F#32 = 0x02500049#32 then .ok (.amoCas (Ord.ofBits (w.extractLsb' 30 2)) (Scope.ofBits (w.extractLsb' 28 2)) ((w.extractLsb' 19 1) == 1#1) (w.extractLsb' 13 6) (w.extractLsb' 7 6))
  else if w &&& 0x0FF0007F#32 = 0x02900049#32 then .ok (.amoAddf (Ord.ofBits (w.extractLsb' 30 2)) (Scope.ofBits (w.extractLsb' 28 2)) ((w.extractLsb' 19 1) == 1#1) (w.extractLsb' 13 6) (w.extractLsb' 7 6))
  else .error .unassignedSubcode

/-- R67: the rows of spec/opcode_table.json with major 0x25, by their match and mask. -/
def rawMajor25 (w : BitVec 32) : Except Reject Instr :=
  if w &&& 0x8038007F#32 = 0x0000004B#32 then .ok (.ldfe ((w.extractLsb' 30 1) == 1#1) (Scope.ofBits (w.extractLsb' 28 2)) (w.extractLsb' 22 6) (w.extractLsb' 13 6) (w.extractLsb' 7 6))
  else if w &&& 0x8038007F#32 = 0x0008004B#32 then .ok (.ldff ((w.extractLsb' 30 1) == 1#1) (Scope.ofBits (w.extractLsb' 28 2)) (w.extractLsb' 22 6) (w.extractLsb' 13 6) (w.extractLsb' 7 6))
  else if w &&& 0x4038007F#32 = 0x0010004B#32 then .ok (.stef ((w.extractLsb' 31 1) == 1#1) (Scope.ofBits (w.extractLsb' 28 2)) (w.extractLsb' 22 6) (w.extractLsb' 13 6) (w.extractLsb' 7 6))
  else if w &&& 0x4038007F#32 = 0x0018004B#32 then .ok (.stff ((w.extractLsb' 31 1) == 1#1) (Scope.ofBits (w.extractLsb' 28 2)) (w.extractLsb' 22 6) (w.extractLsb' 13 6) (w.extractLsb' 7 6))
  else if w &&& 0x40381FFF#32 = 0x0020004B#32 then .ok (.feclr ((w.extractLsb' 31 1) == 1#1) (Scope.ofBits (w.extractLsb' 28 2)) (w.extractLsb' 22 6) (w.extractLsb' 13 6))
  else .error .unassignedSubcode

/-- R67: the rows of spec/opcode_table.json with major 0x26, by their match and mask. -/
def rawMajor26 (w : BitVec 32) : Except Reject Instr :=
  if w &&& 0xFFFFE07F#32 = 0x0000004D#32 then .ok (.hold (w.extractLsb' 7 6))
  else if w &&& 0xFFF81FFF#32 = 0x0200004D#32 then .ok (.holdm (w.extractLsb' 13 6))
  else if w &&& 0xFFFFE07F#32 = 0x0400004D#32 then .ok (.pres (w.extractLsb' 7 6))
  else if w &&& 0xFE001FFF#32 = 0x0600004D#32 then .ok (.rstv (w.extractLsb' 19 6) (w.extractLsb' 13 6))
  else if w &&& 0xFE001FFF#32 = 0x0800004D#32 then .ok (.rstv4 (w.extractLsb' 19 6) (w.extractLsb' 13 6))
  else if w &&& 0xFE001FFF#32 = 0x0A00004D#32 then .ok (.rstvRel (w.extractLsb' 19 6) (w.extractLsb' 13 6))
  else if w &&& 0xFE001FFF#32 = 0x0C00004D#32 then .ok (.rstv4Rel (w.extractLsb' 19 6) (w.extractLsb' 13 6))
  else .error .unassignedSubcode

/-- R67: the rows of spec/opcode_table.json with major 0x27, by their match and mask. -/
def rawMajor27 (w : BitVec 32) : Except Reject Instr :=
  if w &&& 0xFE001FFF#32 = 0x0000004F#32 then .ok (.send (w.extractLsb' 19 6) (w.extractLsb' 13 6))
  else if w &&& 0xFE00007F#32 = 0x0200004F#32 then .ok (.sendr (w.extractLsb' 19 6) (w.extractLsb' 13 6) (w.extractLsb' 7 6))
  else if w &&& 0xFE00007F#32 = 0x0400004F#32 then .ok (.reply (w.extractLsb' 19 6) (w.extractLsb' 13 6) (w.extractLsb' 7 6))
  else if w &&& 0xFFF81FFF#32 = 0x0600004F#32 then .ok (.wrep (w.extractLsb' 13 6))
  else if w &&& 0xFFF81FFF#32 = 0x0800004F#32 then .ok (.chen (w.extractLsb' 13 6))
  else if w &&& 0xFFF81FFF#32 = 0x0A00004F#32 then .ok (.chdis (w.extractLsb' 13 6))
  else if w &&& 0xFFF8007F#32 = 0x0C00004F#32 then .ok (.chpend (w.extractLsb' 13 6) (w.extractLsb' 7 6))
  else if w &&& 0xFE06007F#32 = 0x0E00004F#32 then .ok (.hkProd (w.extractLsb' 19 6) (w.extractLsb' 13 4) (w.extractLsb' 7 6))
  else if w &&& 0xFE061FFF#32 = 0x1000004F#32 then .ok (.hkComm (w.extractLsb' 19 6) (w.extractLsb' 13 4))
  else if w &&& 0xFE06007F#32 = 0x1200004F#32 then .ok (.hkCons (w.extractLsb' 19 6) (w.extractLsb' 13 4) (w.extractLsb' 7 6))
  else if w &&& 0xFE061FFF#32 = 0x1400004F#32 then .ok (.hkFree (w.extractLsb' 19 6) (w.extractLsb' 13 4))
  else .error .unassignedSubcode

/-- R67: the rows of spec/opcode_table.json with major 0x28, by their match and mask. -/
def rawMajor28 (w : BitVec 32) : Except Reject Instr :=
  if w &&& 0xF8001FFF#32 = 0x00000051#32 then .ok (.jcInit (Scope.ofBits (w.extractLsb' 25 2)) (w.extractLsb' 19 6) (w.extractLsb' 13 6))
  else if w &&& 0xF8001FFF#32 = 0x08000051#32 then .ok (.jcAdd (Scope.ofBits (w.extractLsb' 25 2)) (w.extractLsb' 19 6) (w.extractLsb' 13 6))
  else if w &&& 0xF8001FFF#32 = 0x10000051#32 then .ok (.jcDec (Scope.ofBits (w.extractLsb' 25 2)) (w.extractLsb' 19 6) (w.extractLsb' 13 6))
  else if w &&& 0xF9F81FFF#32 = 0x18000051#32 then .ok (.jcWait (Scope.ofBits (w.extractLsb' 25 2)) (w.extractLsb' 13 6))
  else if w &&& 0xFE001FFF#32 = 0x20000051#32 then .ok (.spawn (w.extractLsb' 19 6) (w.extractLsb' 13 6))
  else .error .unassignedSubcode

/-- R67: the rows of spec/opcode_table.json with major 0x29, by their match and mask. -/
def rawMajor29 (w : BitVec 32) : Except Reject Instr :=
  if w &&& 0xFE00007F#32 = 0x00000053#32 then .ok (.cdrCpy (w.extractLsb' 19 6) (w.extractLsb' 13 6) (w.extractLsb' 7 6))
  else if w &&& 0xFE00007F#32 = 0x02000053#32 then .ok (.cdrDeal (w.extractLsb' 19 6) (w.extractLsb' 13 6) (w.extractLsb' 7 6))
  else if w &&& 0xFE00007F#32 = 0x04000053#32 then .ok (.cdrPut (w.extractLsb' 19 6) (w.extractLsb' 13 6) (w.extractLsb' 7 6))
  else if w &&& 0xFE00007F#32 = 0x06000053#32 then .ok (.cdrFill (w.extractLsb' 19 6) (w.extractLsb' 13 6) (w.extractLsb' 7 6))
  else if w &&& 0xFE00007F#32 = 0x08000053#32 then .ok (.cdrCvt (w.extractLsb' 19 6) (w.extractLsb' 13 6) (w.extractLsb' 7 6))
  else if w &&& 0xFE00007F#32 = 0x20000053#32 then .ok (.skmCfg (w.extractLsb' 19 6) (w.extractLsb' 13 6) (w.extractLsb' 7 6))
  else if w &&& 0xFE001FFF#32 = 0x22000053#32 then .ok (.skmPut (w.extractLsb' 19 6) (w.extractLsb' 13 6))
  else if w &&& 0xFFF8007F#32 = 0x24000053#32 then .ok (.skmTake (w.extractLsb' 13 6) (w.extractLsb' 7 6))
  else .error .unassignedSubcode

/-- R67: the rows of spec/opcode_table.json with major 0x31, by their match and mask. -/
def rawMajor31 (w : BitVec 32) : Except Reject Instr :=
  if w &&& 0xFFF81F7F#32 = 0x00000063#32 then .ok (.bfetch (w.extractLsb' 13 6) ((w.extractLsb' 7 1) == 1#1))
  else if w &&& 0xFFFFFF7F#32 = 0x02000063#32 then .ok (.bjump ((w.extractLsb' 7 1) == 1#1))
  else if w &&& 0xFFFFFFFF#32 = 0x04000063#32 then .ok .bjumpBc
  else if w &&& 0xFFF81FFF#32 = 0x06000063#32 then .ok (.jr (w.extractLsb' 13 6))
  else if w &&& 0xFFFFFFFF#32 = 0x08000063#32 then .ok .stop
  else .error .unassignedSubcode

/-- R67: the rows of spec/opcode_table.json with major 0x34, by their match and mask. -/
def rawMajor34 (w : BitVec 32) : Except Reject Instr :=
  if w &&& 0xFFF8007F#32 = 0x00000069#32 then .ok (.peer (w.extractLsb' 13 6) (w.extractLsb' 7 6))
  else if w &&& 0xFFF81FFF#32 = 0x02000069#32 then .ok (.peerw (w.extractLsb' 13 6))
  else if w &&& 0xFFF8007F#32 = 0x04000069#32 then .ok (.join (w.extractLsb' 13 6) (w.extractLsb' 7 6))
  else if w &&& 0xFFFFE07F#32 = 0x06000069#32 then .ok (.leave (w.extractLsb' 7 6))
  else .error .unassignedSubcode

/-- R63, R67: a 32-bit Fibre word is read by its major opcode. -/
def rawWord (w : BitVec 32) : Except Reject Instr :=
  match (w.extractLsb' 0 7).toNat with
  | 0x01 => rawMajor00 w
  | 0x03 => rawMajor01 w
  | 0x05 => rawMajor02 w
  | 0x07 => rawMajor03 w
  | 0x09 => rawMajor04 w
  | 0x0B => rawMajor05 w
  | 0x11 => rawMajor08 w
  | 0x13 => rawMajor09 w
  | 0x15 => rawMajor0A w
  | 0x17 => rawMajor0B w
  | 0x19 => rawMajor0C w
  | 0x1B => rawMajor0D w
  | 0x1D => rawMajor0E w
  | 0x1F => rawMajor0F w
  | 0x21 => rawMajor10 w
  | 0x23 => rawMajor10 w
  | 0x25 => rawMajor10 w
  | 0x27 => rawMajor10 w
  | 0x29 => rawMajor14 w
  | 0x2B => rawMajor14 w
  | 0x2D => rawMajor14 w
  | 0x2F => rawMajor14 w
  | 0x31 => rawMajor18 w
  | 0x33 => rawMajor19 w
  | 0x35 => rawMajor1A w
  | 0x37 => rawMajor1B w
  | 0x41 => rawMajor20 w
  | 0x43 => rawMajor21 w
  | 0x45 => rawMajor22 w
  | 0x47 => rawMajor23 w
  | 0x49 => rawMajor24 w
  | 0x4B => rawMajor25 w
  | 0x4D => rawMajor26 w
  | 0x4F => rawMajor27 w
  | 0x51 => rawMajor28 w
  | 0x53 => rawMajor29 w
  | 0x61 => rawMajor30 w
  | 0x63 => rawMajor31 w
  | 0x65 => rawMajor32 w
  | 0x67 => rawMajor33 w
  | 0x69 => rawMajor34 w
  | _ => .error .unassignedMajor

/-- R62, R66: the parcels. -/
def rawParcel (w : BitVec 16) : Except Reject Instr :=
  if w &&& 0xFFFF#16 = 0xFFFE#16 then .ok .signatureMarker
  else if w &&& 0xFFFF#16 = 0x0000#16 then .ok .parcelNop
  else if w &&& 0xFFFF#16 = 0x0002#16 then .ok .parcelStop
  else if w &&& 0x003F#16 = 0x0004#16 then .ok (.parcelMov (w.extractLsb' 11 5) (w.extractLsb' 6 5))
  else if w &&& 0x003F#16 = 0x0006#16 then .ok (.parcelAddS32 (w.extractLsb' 11 5) (w.extractLsb' 6 5))
  else if w &&& 0x003F#16 = 0x0008#16 then .ok (.parcelAddiS32 (w.extractLsb' 11 5) (w.extractLsb' 6 5))
  else if w &&& 0x003F#16 = 0x000A#16 then .ok (.parcelSubS32 (w.extractLsb' 11 5) (w.extractLsb' 6 5))
  else if w &&& 0x003F#16 = 0x000C#16 then .ok (.parcelAddS64 (w.extractLsb' 11 5) (w.extractLsb' 6 5))
  else if w &&& 0x003F#16 = 0x000E#16 then .ok (.parcelAddiS64 (w.extractLsb' 11 5) (w.extractLsb' 6 5))
  else if w &&& 0x003F#16 = 0x0010#16 then .ok (.parcelMulS32 (w.extractLsb' 11 5) (w.extractLsb' 6 5))
  else if w &&& 0x003F#16 = 0x0012#16 then .ok (.parcelMinS32 (w.extractLsb' 11 5) (w.extractLsb' 6 5))
  else if w &&& 0x003F#16 = 0x0014#16 then .ok (.parcelMaxS32 (w.extractLsb' 11 5) (w.extractLsb' 6 5))
  else if w &&& 0x003F#16 = 0x0016#16 then .ok (.parcelAnd (w.extractLsb' 11 5) (w.extractLsb' 6 5))
  else if w &&& 0x003F#16 = 0x0018#16 then .ok (.parcelOr (w.extractLsb' 11 5) (w.extractLsb' 6 5))
  else if w &&& 0x003F#16 = 0x001A#16 then .ok (.parcelXor (w.extractLsb' 11 5) (w.extractLsb' 6 5))
  else if w &&& 0x003F#16 = 0x001C#16 then .ok (.parcelShlZ32 (w.extractLsb' 11 5) (w.extractLsb' 6 5))
  else if w &&& 0x003F#16 = 0x001E#16 then .ok (.parcelShrZ32 (w.extractLsb' 11 5) (w.extractLsb' 6 5))
  else if w &&& 0x003F#16 = 0x0020#16 then .ok (.parcelSraS32 (w.extractLsb' 11 5) (w.extractLsb' 6 5))
  else if w &&& 0x003F#16 = 0x0022#16 then .ok (.parcelAddF32 (w.extractLsb' 11 5) (w.extractLsb' 6 5))
  else if w &&& 0x003F#16 = 0x0024#16 then .ok (.parcelSubF32 (w.extractLsb' 11 5) (w.extractLsb' 6 5))
  else if w &&& 0x003F#16 = 0x0026#16 then .ok (.parcelMulF32 (w.extractLsb' 11 5) (w.extractLsb' 6 5))
  else if w &&& 0x003F#16 = 0x0028#16 then .ok (.parcelFmaF32 (w.extractLsb' 11 5) (w.extractLsb' 6 5))
  else if w &&& 0x003F#16 = 0x002A#16 then .ok (.parcelMaxF32 (w.extractLsb' 11 5) (w.extractLsb' 6 5))
  else if w &&& 0x003F#16 = 0x002C#16 then .ok (.parcelAddF16 (w.extractLsb' 11 5) (w.extractLsb' 6 5))
  else if w &&& 0x003F#16 = 0x002E#16 then .ok (.parcelMulF16 (w.extractLsb' 11 5) (w.extractLsb' 6 5))
  else if w &&& 0x003F#16 = 0x0030#16 then .ok (.parcelFmaF16 (w.extractLsb' 11 5) (w.extractLsb' 6 5))
  else if w &&& 0x003F#16 = 0x0032#16 then .ok (.parcelLd128 (w.extractLsb' 11 5) (w.extractLsb' 6 5))
  else if w &&& 0x003F#16 = 0x0034#16 then .ok (.parcelSt128 (w.extractLsb' 11 5) (w.extractLsb' 6 5))
  else if w &&& 0x003F#16 = 0x0036#16 then .ok (.parcelBcstZ32 (w.extractLsb' 11 5) (w.extractLsb' 6 5))
  else if w &&& 0x003F#16 = 0x0038#16 then .ok (.parcelMoviS32 (w.extractLsb' 11 5) (w.extractLsb' 6 5))
  else if w &&& 0x003F#16 = 0x003A#16 then .ok (.parcelNegS32 (w.extractLsb' 11 5) (w.extractLsb' 6 5))
  else if w &&& 0xFFFF#16 = 0x003C#16 then .ok .parcelEbrk
  else if w &&& 0xFFFF#16 = 0x003E#16 then .ok .endParcel
  else .error .unassignedSubcode

/-- R73: the jd.* words of opcode 0x0B. -/
def rawCustom0B (w : BitVec 32) : Except Reject Instr :=
  if w &&& 0xFE00707F#32 = 0x0000000B#32 then .ok (.jdBcast (w.extractLsb' 20 5) (w.extractLsb' 15 5) (w.extractLsb' 7 5))
  else if w &&& 0xFE00707F#32 = 0x0200000B#32 then .ok (.jdBcastw (w.extractLsb' 20 5) (w.extractLsb' 15 5) (w.extractLsb' 7 5))
  else if w &&& 0xFFF0707F#32 = 0x0000100B#32 then .ok (.jdSkalloc (w.extractLsb' 15 5) (w.extractLsb' 7 5))
  else if w &&& 0xFFF0707F#32 = 0x0200100B#32 then .ok (.jdSkfree (w.extractLsb' 15 5) (w.extractLsb' 7 5))
  else if w &&& 0xFE00707F#32 = 0x0400100B#32 then .ok (.jdSkstart (w.extractLsb' 20 5) (w.extractLsb' 15 5) (w.extractLsb' 7 5))
  else if w &&& 0xFFF0707F#32 = 0x0600100B#32 then .ok (.jdSkstop (w.extractLsb' 15 5) (w.extractLsb' 7 5))
  else if w &&& 0xFFF0707F#32 = 0x0800100B#32 then .ok (.jdSkwait (w.extractLsb' 15 5) (w.extractLsb' 7 5))
  else if w &&& 0xFFF0707F#32 = 0x0A00100B#32 then .ok (.jdSkq (w.extractLsb' 15 5) (w.extractLsb' 7 5))
  else if w &&& 0xFFF0707F#32 = 0x0000200B#32 then .ok (.jdFpeek (w.extractLsb' 15 5) (w.extractLsb' 7 5))
  else if w &&& 0xFE00707F#32 = 0x0200200B#32 then .ok (.jdFpoke (w.extractLsb' 20 5) (w.extractLsb' 15 5) (w.extractLsb' 7 5))
  else .error .unassignedSubcode

/-- R73: the jd.* words of opcode 0x2B. -/
def rawCustom2B (w : BitVec 32) : Except Reject Instr :=
  if w &&& 0xFFF0707F#32 = 0x0000002B#32 then .ok (.jdSend (w.extractLsb' 15 5) (w.extractLsb' 7 5))
  else if w &&& 0xFE00707F#32 = 0x0200002B#32 then .ok (.jdSendx (w.extractLsb' 20 5) (w.extractLsb' 15 5) (w.extractLsb' 7 5))
  else if w &&& 0xFFFFF07F#32 = 0x0000102B#32 then .ok (.jdRecv (w.extractLsb' 7 5))
  else if w &&& 0xFFFFF07F#32 = 0x0200102B#32 then .ok (.jdTryrecv (w.extractLsb' 7 5))
  else if w &&& 0xFFF0707F#32 = 0x0400102B#32 then .ok (.jdAck (w.extractLsb' 15 5) (w.extractLsb' 7 5))
  else if w &&& 0xFE00707F#32 = 0x0000202B#32 then .ok (.jdChset (w.extractLsb' 20 5) (w.extractLsb' 15 5) (w.extractLsb' 7 5))
  else if w &&& 0xFFF0707F#32 = 0x0200202B#32 then .ok (.jdChget (w.extractLsb' 15 5) (w.extractLsb' 7 5))
  else if w &&& 0xFFF0707F#32 = 0x0400202B#32 then .ok (.jdChen (w.extractLsb' 15 5) (w.extractLsb' 7 5))
  else if w &&& 0xFFF0707F#32 = 0x0600202B#32 then .ok (.jdChdis (w.extractLsb' 15 5) (w.extractLsb' 7 5))
  else .error .unassignedSubcode

/-- R73: the jd.* words of opcode 0x5B. -/
def rawCustom5B (w : BitVec 32) : Except Reject Instr :=
  if w &&& 0xFE00707F#32 = 0x0000005B#32 then .ok (.jdTwmma (w.extractLsb' 20 5) (w.extractLsb' 15 5) (w.extractLsb' 7 5))
  else if w &&& 0xFE00707F#32 = 0x0200005B#32 then .ok (.jdTwrot (w.extractLsb' 20 5) (w.extractLsb' 15 5) (w.extractLsb' 7 5))
  else if w &&& 0xFE00707F#32 = 0x0400005B#32 then .ok (.jdTwring (w.extractLsb' 20 5) (w.extractLsb' 15 5) (w.extractLsb' 7 5))
  else if w &&& 0xFE00707F#32 = 0x0600005B#32 then .ok (.jdTwbmm (w.extractLsb' 20 5) (w.extractLsb' 15 5) (w.extractLsb' 7 5))
  else if w &&& 0xFE00707F#32 = 0x0800005B#32 then .ok (.jdTwepi (w.extractLsb' 20 5) (w.extractLsb' 15 5) (w.extractLsb' 7 5))
  else if w &&& 0xFFF0707F#32 = 0x0000105B#32 then .ok (.jdTwclr (w.extractLsb' 15 5) (w.extractLsb' 7 5))
  else if w &&& 0xFFFFF07F#32 = 0x0200105B#32 then .ok (.jdTwswp (w.extractLsb' 7 5))
  else if w &&& 0xFFF0707F#32 = 0x0400105B#32 then .ok (.jdTwdom (w.extractLsb' 15 5) (w.extractLsb' 7 5))
  else if w &&& 0xFE00707F#32 = 0x0600105B#32 then .ok (.jdTwsave (w.extractLsb' 20 5) (w.extractLsb' 15 5) (w.extractLsb' 7 5))
  else if w &&& 0xFFF0707F#32 = 0x0800105B#32 then .ok (.jdTwrest (w.extractLsb' 15 5) (w.extractLsb' 7 5))
  else if w &&& 0xFFF0707F#32 = 0x0A00105B#32 then .ok (.jdTwclaim (w.extractLsb' 15 5) (w.extractLsb' 7 5))
  else if w &&& 0xFFF0707F#32 = 0x0C00105B#32 then .ok (.jdTwq (w.extractLsb' 15 5) (w.extractLsb' 7 5))
  else if w &&& 0xFE00707F#32 = 0x0000205B#32 then .ok (.jdCdr (w.extractLsb' 20 5) (w.extractLsb' 15 5) (w.extractLsb' 7 5))
  else if w &&& 0xFE00707F#32 = 0x0000705B#32 then .ok (.jdSkm (w.extractLsb' 20 5) (w.extractLsb' 15 5) (w.extractLsb' 7 5))
  else .error .unassignedSubcode

/-- R73: the jd.* words of opcode 0x7B. -/
def rawCustom7B (w : BitVec 32) : Except Reject Instr :=
  if w &&& 0xFFFFFFFF#32 = 0x0000007B#32 then .ok .jdUiret
  else if w &&& 0xFFF07FFF#32 = 0x0200007B#32 then .ok (.jdTrap (w.extractLsb' 15 5))
  else if w &&& 0xFFF0707F#32 = 0x0000107B#32 then .ok (.jdName (w.extractLsb' 15 5) (w.extractLsb' 7 5))
  else if w &&& 0xFFF07FFF#32 = 0x0000207B#32 then .ok (.jdFence (w.extractLsb' 15 5))
  else if w &&& 0xFFF0707F#32 = 0x0000307B#32 then .ok (.jdCnt (w.extractLsb' 15 5) (w.extractLsb' 7 5))
  else .error .unassignedSubcode

/-! ### Harts: RV64IMAC, Zicsr, Zifencei, Zba, Zbb (R146) -/

/-- aq and rl of an A-extension word. -/
def rvOrd (w : BitVec 32) : Ord :=
  match w.getLsbD 26, w.getLsbD 25 with
  | false, false => .none | true, false => .acq | false, true => .rel | true, true => .acqrel

/-- Integer computational words of opcode 0x33 and 0x3B, by funct7 and funct3. -/
def rvRR (w32 : Bool) (f7 f3 : Nat) : Option RvRR :=
  if w32 then
    match f7, f3 with
    | 0x00, 0 => some .addw | 0x00, 1 => some .sllw | 0x00, 5 => some .srlw
    | 0x20, 0 => some .subw | 0x20, 5 => some .sraw
    | 0x01, 0 => some .mulw | 0x01, 4 => some .divw | 0x01, 5 => some .divuw | 0x01, 6 => some .remw
    | 0x01, 7 => some .remuw
    | 0x04, 0 => some .addUw
    | 0x10, 2 => some .sh1addUw | 0x10, 4 => some .sh2addUw | 0x10, 6 => some .sh3addUw
    | 0x30, 1 => some .rolw | 0x30, 5 => some .rorw
    | _, _ => none
  else
    match f7, f3 with
    | 0x00, 0 => some .add | 0x00, 1 => some .sll | 0x00, 2 => some .slt | 0x00, 3 => some .sltu
    | 0x00, 4 => some .xor | 0x00, 5 => some .srl | 0x00, 6 => some .or | 0x00, 7 => some .and
    | 0x20, 0 => some .sub | 0x20, 5 => some .sra | 0x20, 4 => some .xnor | 0x20, 6 => some .orn
    | 0x20, 7 => some .andn
    | 0x01, 0 => some .mul | 0x01, 1 => some .mulh | 0x01, 2 => some .mulhsu | 0x01, 3 => some .mulhu
    | 0x01, 4 => some .div | 0x01, 5 => some .divu | 0x01, 6 => some .rem | 0x01, 7 => some .remu
    | 0x10, 2 => some .sh1add | 0x10, 4 => some .sh2add | 0x10, 6 => some .sh3add
    | 0x05, 4 => some .min | 0x05, 5 => some .minu | 0x05, 6 => some .max | 0x05, 7 => some .maxu
    | 0x30, 1 => some .rol | 0x30, 5 => some .ror
    | _, _ => none

/-- Register-immediate words of opcode 0x13 (w32 false) and 0x1B (w32 true), from funct3 and the
12-bit immediate field. -/
def rvImm (w32 : Bool) (f3 : Nat) (i : BitVec 12) (d a : XReg) : Option RvOp :=
  let n := i.toNat
  let hi6 := n / 64
  let hi7 := n / 32
  let sh : BitVec 12 := i &&& 0x3F#12
  let sh5 : BitVec 12 := i &&& 0x1F#12
  if w32 then
    match f3 with
    | 0 => some (.ri .addiw d a i)
    | 1 => if hi7 = 0 then some (.ri .slliw d a sh5) else if hi6 = 2 then some (.ri .slliUw d a sh)
           else if n = 0x600 then some (.r .clzw d a) else if n = 0x601 then some (.r .ctzw d a)
           else if n = 0x602 then some (.r .cpopw d a) else none
    | 5 => if hi7 = 0 then some (.ri .srliw d a sh5) else if hi7 = 0x20 then some (.ri .sraiw d a sh5)
           else if hi7 = 0x30 then some (.ri .roriw d a sh5) else none
    | _ => none
  else
    match f3 with
    | 0 => some (.ri .addi d a i) | 2 => some (.ri .slti d a i) | 3 => some (.ri .sltiu d a i)
    | 4 => some (.ri .xori d a i) | 6 => some (.ri .ori d a i) | 7 => some (.ri .andi d a i)
    | 1 => if hi6 = 0 then some (.ri .slli d a sh)
           else if n = 0x600 then some (.r .clz d a) else if n = 0x601 then some (.r .ctz d a)
           else if n = 0x602 then some (.r .cpop d a) else if n = 0x604 then some (.r .sextB d a)
           else if n = 0x605 then some (.r .sextH d a) else none
    | 5 => if hi6 = 0 then some (.ri .srli d a sh) else if hi6 = 0x10 then some (.ri .srai d a sh)
           else if hi6 = 0x18 then some (.ri .rori d a sh)
           else if n = 0x287 then some (.r .orcB d a) else if n = 0x6B8 then some (.r .rev8 d a) else none
    | _ => none

/-- Loads by funct3. -/
def rvLoad (f3 : Nat) : Option LoadOp :=
  match f3 with
  | 0 => some .lb | 1 => some .lh | 2 => some .lw | 3 => some .ld | 4 => some .lbu | 5 => some .lhu
  | 6 => some .lwu | _ => none

/-- Stores by funct3. -/
def rvStore (f3 : Nat) : Option StoreOp :=
  match f3 with
  | 0 => some .sb | 1 => some .sh | 2 => some .sw | 3 => some .sd | _ => none

/-- Branches by funct3. -/
def rvBranch (f3 : Nat) : Option RvBr :=
  match f3 with
  | 0 => some .beq | 1 => some .bne | 4 => some .blt | 5 => some .bge | 6 => some .bltu | 7 => some .bgeu
  | _ => none

/-- AMOs by funct5. -/
def rvAmo (f5 : Nat) : Option AmoOp :=
  match f5 with
  | 0 => some .add | 1 => some .swap | 4 => some .xor | 8 => some .or | 12 => some .and | 16 => some .min
  | 20 => some .max | 24 => some .minu | 28 => some .maxu | _ => none

/-- Zicsr words: a CSRRS or CSRRC whose source field is 0 only reads. -/
def rvCsr (f3 : Nat) (csr : BitVec 12) (d a : XReg) : Instr × HartOp :=
  let imm : Bool := f3 / 4 == 1
  match f3 % 4 with
  | 1 => (.csrWrite, .csr .rw imm csr d a)
  | 2 => if a = 0#5 then (.rv64imacInstruction, .rv (.csrRead csr d) false) else (.csrWrite, .csr .rs imm csr d a)
  | _ => if a = 0#5 then (.rv64imacInstruction, .rv (.csrRead csr d) false) else (.csrWrite, .csr .rc imm csr d a)

/-- The RISC-V words of 32 bits, and the jd.* words. -/
def decodeHartWord (w : BitVec 32) : Instr × HartOp :=
  let d : XReg := w.extractLsb' 7 5
  let a : XReg := w.extractLsb' 15 5
  let b : XReg := w.extractLsb' 20 5
  let f3 := (w.extractLsb' 12 3).toNat
  let f7 := (w.extractLsb' 25 7).toNat
  let i : BitVec 12 := w.extractLsb' 20 12
  let ill : Instr × HartOp := (.rv64imacInstruction, .rv (.illegal w) false)
  let rv (o : Option RvOp) : Instr × HartOp := o.elim ill fun x => (.rv64imacInstruction, .rv x false)
  match (w.extractLsb' 0 7).toNat with
  | 0x03 => (rvLoad f3).elim ill fun o => (.hartLoad, .load o d a i false)
  | 0x23 => (rvStore f3).elim ill fun o => (.hartStore, .store o a b (w.extractLsb' 25 7 ++ d) false)
  | 0x13 => rv (rvImm false f3 i d a)
  | 0x1B => rv (rvImm true f3 i d a)
  | 0x33 => rv ((rvRR false f7 f3).map fun o => .rr o d a b)
  | 0x3B => if f7 = 4 ∧ f3 = 4 then (if b = 0#5 then rv (some (.r .zextH d a)) else ill)
            else rv ((rvRR true f7 f3).map fun o => .rr o d a b)
  | 0x37 => rv (some (.lui d (w.extractLsb' 12 20)))
  | 0x17 => rv (some (.auipc d (w.extractLsb' 12 20)))
  | 0x6F => rv (some (.jal d (w.extractLsb' 31 1 ++ w.extractLsb' 12 8 ++ w.extractLsb' 20 1 ++
                              w.extractLsb' 21 10 ++ 0#1)))
  | 0x67 => if f3 = 0 then rv (some (.jalr d a i)) else ill
  | 0x63 => rv ((rvBranch f3).map fun o => .br o a b (w.extractLsb' 31 1 ++ w.extractLsb' 7 1 ++
                              w.extractLsb' 25 6 ++ w.extractLsb' 8 4 ++ 0#1))
  | 0x0F => if f3 = 0 then (.riscvFence, .fence (w.extractLsb' 28 4) (w.extractLsb' 24 4) (w.extractLsb' 20 4))
            else if f3 = 1 then (.fenceI, .none) else ill
  | 0x73 => if f3 = 0 then
              (if w = 0x00000073#32 then (.ecall, .none) else if w = 0x00100073#32 then rv (some .ebreak)
               else if w = 0x10500073#32 then (.wfi, .none) else ill)
            else if f3 = 4 then ill else rvCsr f3 i d a
  | 0x2F => if f3 = 2 ∨ f3 = 3 then
              (if f7 / 4 = 2 then (if b = 0#5 then (.lr, .lr (f3 == 3) (rvOrd w) d a) else ill)
               else if f7 / 4 = 3 then (.sc, .sc (f3 == 3) (rvOrd w) d a b)
               else (rvAmo (f7 / 4)).elim ill fun o => (.hartAmo, .amo o (f3 == 3) (rvOrd w) d a b))
            else ill
  | 0x0B => match rawCustom0B w with | .ok j => (j, .none) | .error _ => (.unassignedCustomWord, .custom w)
  | 0x2B => match rawCustom2B w with | .ok j => (j, .none) | .error _ => (.unassignedCustomWord, .custom w)
  | 0x5B => match rawCustom5B w with | .ok j => (j, .none) | .error _ => (.unassignedCustomWord, .custom w)
  | 0x7B => match rawCustom7B w with | .ok j => (j, .none) | .error _ => (.unassignedCustomWord, .custom w)
  | 0x07 | 0x27 | 0x43 | 0x47 | 0x4B | 0x4F | 0x53 => (.unassignedCustomWord, .custom w)
  | _ => ill

/-- The RISC-V compressed words, expanded; the two quadrants' floating-point forms are F or D
encodings (R74). -/
def decodeHartParcel (p : BitVec 16) : Instr × HartOp :=
  let raw : BitVec 32 := p.zeroExtend 32
  let ill : Instr × HartOp := (.rv64imacInstruction, .rv (.illegal raw) true)
  let rv (o : RvOp) : Instr × HartOp := (.rv64imacInstruction, .rv o true)
  let fd : Instr × HartOp := (.unassignedCustomWord, .custom raw)
  let x (n k : Nat) : BitVec k := p.extractLsb' n k
  let rc (n : Nat) : XReg := 1#2 ++ p.extractLsb' n 3
  let d : XReg := p.extractLsb' 7 5
  let s2 : XReg := p.extractLsb' 2 5
  let i6 : BitVec 12 := (x 12 1 ++ x 2 5 : BitVec 6).signExtend 12
  let u6 : BitVec 12 := (x 12 1 ++ x 2 5 : BitVec 6).zeroExtend 12
  let cw : BitVec 12 := (x 5 1 ++ x 10 3 ++ x 6 1 ++ 0#2 : BitVec 7).zeroExtend 12
  let cd : BitVec 12 := (x 5 2 ++ x 10 3 ++ 0#3 : BitVec 8).zeroExtend 12
  let sp : XReg := 2#5
  match (x 0 2).toNat, (x 13 3).toNat with
  | 0, 0 => let i : BitVec 12 := (x 7 4 ++ x 11 2 ++ x 5 1 ++ x 6 1 ++ 0#2 : BitVec 10).zeroExtend 12
            if i = 0#12 then ill else rv (.ri .addi (rc 2) sp i)
  | 0, 1 => fd
  | 0, 2 => (.hartLoad, .load .lw (rc 2) (rc 7) cw true)
  | 0, 3 => (.hartLoad, .load .ld (rc 2) (rc 7) cd true)
  | 0, 5 => fd
  | 0, 6 => (.hartStore, .store .sw (rc 7) (rc 2) cw true)
  | 0, 7 => (.hartStore, .store .sd (rc 7) (rc 2) cd true)
  | 1, 0 => rv (.ri .addi d d i6)
  | 1, 1 => if d = 0#5 then ill else rv (.ri .addiw d d i6)
  | 1, 2 => rv (.ri .addi d 0#5 i6)
  | 1, 3 => if u6 = 0#12 then ill
            else if d = 2#5 then
              rv (.ri .addi sp sp ((x 12 1 ++ x 3 2 ++ x 5 1 ++ x 2 1 ++ x 6 1 ++ 0#4 : BitVec 10).signExtend 12))
            else rv (.lui d ((x 12 1 ++ x 2 5 : BitVec 6).signExtend 20))
  | 1, 4 => match (x 10 2).toNat with
            | 0 => rv (.ri .srli (rc 7) (rc 7) u6)
            | 1 => rv (.ri .srai (rc 7) (rc 7) u6)
            | 2 => rv (.ri .andi (rc 7) (rc 7) i6)
            | _ => match (x 12 1).toNat, (x 5 2).toNat with
                   | 0, 0 => rv (.rr .sub (rc 7) (rc 7) (rc 2))
                   | 0, 1 => rv (.rr .xor (rc 7) (rc 7) (rc 2))
                   | 0, 2 => rv (.rr .or (rc 7) (rc 7) (rc 2))
                   | 0, 3 => rv (.rr .and (rc 7) (rc 7) (rc 2))
                   | 1, 0 => rv (.rr .subw (rc 7) (rc 7) (rc 2))
                   | 1, 1 => rv (.rr .addw (rc 7) (rc 7) (rc 2))
                   | _, _ => ill
  | 1, 5 => rv (.jal 0#5 ((x 12 1 ++ x 8 1 ++ x 9 2 ++ x 6 1 ++ x 7 1 ++ x 2 1 ++ x 11 1 ++ x 3 3 ++ 0#1 :
              BitVec 12).signExtend 21))
  | 1, 6 => rv (.br .beq (rc 7) 0#5 ((x 12 1 ++ x 5 2 ++ x 2 1 ++ x 10 2 ++ x 3 2 ++ 0#1 : BitVec 9).signExtend 13))
  | 1, 7 => rv (.br .bne (rc 7) 0#5 ((x 12 1 ++ x 5 2 ++ x 2 1 ++ x 10 2 ++ x 3 2 ++ 0#1 : BitVec 9).signExtend 13))
  | 2, 0 => rv (.ri .slli d d u6)
  | 2, 1 => fd
  | 2, 2 => if d = 0#5 then ill else
            (.hartLoad, .load .lw d sp ((x 2 2 ++ x 12 1 ++ x 4 3 ++ 0#2 : BitVec 8).zeroExtend 12) true)
  | 2, 3 => if d = 0#5 then ill else
            (.hartLoad, .load .ld d sp ((x 2 3 ++ x 12 1 ++ x 5 2 ++ 0#3 : BitVec 9).zeroExtend 12) true)
  | 2, 4 => if x 12 1 = 0#1 then
              (if s2 = 0#5 then (if d = 0#5 then ill else rv (.jalr 0#5 d 0#12))
               else rv (.rr .add d 0#5 s2))
            else if s2 = 0#5 then (if d = 0#5 then rv .ebreak else rv (.jalr 1#5 d 0#12))
            else rv (.rr .add d d s2)
  | 2, 5 => fd
  | 2, 6 => (.hartStore, .store .sw sp s2 ((x 7 2 ++ x 9 4 ++ 0#2 : BitVec 8).zeroExtend 12) true)
  | 2, 7 => (.hartStore, .store .sd sp s2 ((x 7 3 ++ x 10 3 ++ 0#3 : BitVec 9).zeroExtend 12) true)
  | _, _ => ill

/-- R146: whether the parcel at a hart's program counter begins a 32-bit word. -/
def hartIsWord (w : BitVec 32) : Bool := w.extractLsb' 0 2 == 3#2

/-- R146, R73, R74: the instruction of a hart from the 32 bits at its program counter. -/
def decodeHart (w : BitVec 32) : Instr × HartOp :=
  if hartIsWord w then decodeHartWord w else decodeHartParcel (w.extractLsb' 0 16)

/-! ### Fibres (R61 to R69) -/

/-- R68: the decoder of 32-bit Fibre words. -/
def decodeFibreWord (w : BitVec 32) : Except Reject Instr :=
  if w = 0xFFFFFFFF#32 then .error .allOnes
  else match rawWord w with
    | .ok i => if i.wf then .ok i else .error .fieldLimit
    | .error r => .error r

/-- R62, R66: the decoder of parcels. -/
def decodeParcel (p : BitVec 16) : Except Reject Instr :=
  match (if p = 0xFFFE#16 then .ok .signatureMarker else rawParcel p) with
  | .ok i => if i.wf then .ok i else .error .fieldLimit
  | .error r => .error r

/-- R61, R68: the instruction at a parcel offset from the 32 bits there; what decodes to nothing is the
row UNASSIGNED_ENCODING, which raises ILLINST. -/
def decodeFibre (w : BitVec 32) : Instr :=
  if w.getLsbD 0 then
    match decodeFibreWord w with
    | .ok i => i
    | .error _ => .unassignedEncoding
  else
    match decodeParcel (w.extractLsb' 0 16) with
    | .ok i => i
    | .error _ => .unassignedEncoding

/-- R60 to R319: the bits of a Fibre word, from the field maps of the encoding tables; none for an instruction that is not a 32-bit Fibre word. -/
def encodeFibreWord : Instr → Option (BitVec 32)
  | .add m w b a d => some (m ++ w.bits ++ 0#3 ++ b ++ a ++ d ++ 1#7)
  | .sub m w b a d => some (m ++ w.bits ++ 1#3 ++ b ++ a ++ d ++ 1#7)
  | .addsS m w b a d => some (m ++ w.bits ++ 2#3 ++ b ++ a ++ d ++ 1#7)
  | .addsZ m w b a d => some (m ++ w.bits ++ 3#3 ++ b ++ a ++ d ++ 1#7)
  | .subsS m w b a d => some (m ++ w.bits ++ 4#3 ++ b ++ a ++ d ++ 1#7)
  | .subsZ m w b a d => some (m ++ w.bits ++ 5#3 ++ b ++ a ++ d ++ 1#7)
  | .neg m w a d => some (m ++ w.bits ++ 384#9 ++ a ++ d ++ 1#7)
  | .abs m w a d => some (m ++ w.bits ++ 448#9 ++ a ++ d ++ 1#7)
  | .mul m w b a d => some (m ++ w.bits ++ 0#3 ++ b ++ a ++ d ++ 3#7)
  | .mulh m w b a d => some (m ++ w.bits ++ 1#3 ++ b ++ a ++ d ++ 3#7)
  | .mulhz m w b a d => some (m ++ w.bits ++ 2#3 ++ b ++ a ++ d ++ 3#7)
  | .div m w b a d => some (m ++ w.bits ++ 3#3 ++ b ++ a ++ d ++ 3#7)
  | .divz m w b a d => some (m ++ w.bits ++ 4#3 ++ b ++ a ++ d ++ 3#7)
  | .rem m w b a d => some (m ++ w.bits ++ 5#3 ++ b ++ a ++ d ++ 3#7)
  | .remz m w b a d => some (m ++ w.bits ++ 6#3 ++ b ++ a ++ d ++ 3#7)
  | .min m w b a d => some (m ++ w.bits ++ 0#3 ++ b ++ a ++ d ++ 5#7)
  | .max m w b a d => some (m ++ w.bits ++ 1#3 ++ b ++ a ++ d ++ 5#7)
  | .minz m w b a d => some (m ++ w.bits ++ 2#3 ++ b ++ a ++ d ++ 5#7)
  | .maxz m w b a d => some (m ++ w.bits ++ 3#3 ++ b ++ a ++ d ++ 5#7)
  | .and m w b a d => some (m ++ w.bits ++ 4#3 ++ b ++ a ++ d ++ 5#7)
  | .or m w b a d => some (m ++ w.bits ++ 5#3 ++ b ++ a ++ d ++ 5#7)
  | .xor m w b a d => some (m ++ w.bits ++ 6#3 ++ b ++ a ++ d ++ 5#7)
  | .andn m w b a d => some (m ++ w.bits ++ 7#3 ++ b ++ a ++ d ++ 5#7)
  | .shl m w b a d => some (m ++ w.bits ++ 0#3 ++ b ++ a ++ d ++ 7#7)
  | .shr m w b a d => some (m ++ w.bits ++ 1#3 ++ b ++ a ++ d ++ 7#7)
  | .sra m w b a d => some (m ++ w.bits ++ 2#3 ++ b ++ a ++ d ++ 7#7)
  | .rot m w b a d => some (m ++ w.bits ++ 3#3 ++ b ++ a ++ d ++ 7#7)
  | .clz m w a d => some (m ++ w.bits ++ 256#9 ++ a ++ d ++ 7#7)
  | .popc m w a d => some (m ++ w.bits ++ 320#9 ++ a ++ d ++ 7#7)
  | .cmp m w c b a k => some (m ++ w.bits ++ c.bits ++ b ++ a ++ 0#4 ++ k ++ 9#7)
  | .sel m w b a d => some (m ++ w.bits ++ 0#3 ++ b ++ a ++ d ++ 11#7)
  | .mov m w a d => some (m ++ w.bits ++ 64#9 ++ a ++ d ++ 11#7)
  | .addi i t a d => some (i ++ BitVec.ofBool t ++ a ++ d ++ 17#7)
  | .shlImm w n a d => some (0#2 ++ w.bits ++ 0#2 ++ n ++ 0#1 ++ a ++ d ++ 19#7)
  | .shrImm w n a d => some (1#2 ++ w.bits ++ 0#2 ++ n ++ 0#1 ++ a ++ d ++ 19#7)
  | .sraImm w n a d => some (2#2 ++ w.bits ++ 0#2 ++ n ++ 0#1 ++ a ++ d ++ 19#7)
  | .rotImm w n a d => some (3#2 ++ w.bits ++ 0#2 ++ n ++ 0#1 ++ a ++ d ++ 19#7)
  | .movi i s w d => some (i ++ BitVec.ofBool s ++ 0#4 ++ w.bits ++ d ++ 21#7)
  | .movh i t p d => some (i ++ BitVec.ofBool t ++ p ++ d ++ 23#7)
  | .ext w j a d => some (0#2 ++ w.bits ++ 0#3 ++ j ++ a ++ d ++ 31#7)
  | .ins m w j a d => some (m ++ w.bits ++ 1#3 ++ j ++ a ++ d ++ 31#7)
  | .bcst m w j a d => some (m ++ w.bits ++ 2#3 ++ j ++ a ++ d ++ 31#7)
  | .shuf m w b a d => some (m ++ w.bits ++ 3#3 ++ b ++ a ++ d ++ 31#7)
  | .perm m w b a d => some (m ++ w.bits ++ 4#3 ++ b ++ a ++ d ++ 31#7)
  | .zip w b a d => some (0#2 ++ w.bits ++ 5#3 ++ b ++ a ++ d ++ 31#7)
  | .unzip w b a d => some (0#2 ++ w.bits ++ 6#3 ++ b ++ a ++ d ++ 31#7)
  | .cinc b a d => some (0#7 ++ b ++ a ++ d ++ 25#7)
  | .cset b a d => some (1#7 ++ b ++ a ++ d ++ 25#7)
  | .cbnd b a d => some (2#7 ++ b ++ a ++ d ++ 25#7)
  | .cbndR b a d => some (3#7 ++ b ++ a ++ d ++ 25#7)
  | .cperm b a d => some (4#7 ++ b ++ a ++ d ++ 25#7)
  | .cgetb a d => some (320#13 ++ a ++ d ++ 25#7)
  | .cgetl a d => some (384#13 ++ a ++ d ++ 25#7)
  | .cgetp a d => some (448#13 ++ a ++ d ++ 25#7)
  | .ctag a d => some (512#13 ++ a ++ d ++ 25#7)
  | .cclr a d => some (576#13 ++ a ++ d ++ 25#7)
  | .cincImm i a d => some (i ++ 0#1 ++ a ++ d ++ 27#7)
  | .cbndImm i a d => some (i ++ 1#1 ++ a ++ d ++ 27#7)
  | .shp n d => some (0#13 ++ n ++ d ++ 29#7)
  | .tix b a d => some (1#7 ++ b ++ a ++ d ++ 29#7)
  | .tlin b a d => some (2#7 ++ b ++ a ++ d ++ 29#7)
  | .b o => some (o ++ 97#19)
  | .bAny o k => some (o ++ 1#9 ++ k ++ 97#8)
  | .bNone o k => some (o ++ 2#9 ++ k ++ 97#8)
  | .bAll o n k => some (o ++ n ++ 3#3 ++ k ++ 97#8)
  | .bNall o n k => some (o ++ n ++ 4#3 ++ k ++ 97#8)
  | .bZ o a => some (o ++ a ++ 5217#13)
  | .bNz o a => some (o ++ a ++ 6241#13)
  | .jal o => some (o ++ 101#7)
  | .setx a x => some (0#13 ++ a ++ x ++ 103#7)
  | .getx x d => some (64#13 ++ x ++ d ++ 103#7)
  | .kset n k => some (128#13 ++ n ++ 0#4 ++ k ++ 103#7)
  | .kand b a d => some (48#11 ++ b ++ 0#4 ++ a ++ 0#4 ++ d ++ 103#7)
  | .kor b a d => some (64#11 ++ b ++ 0#4 ++ a ++ 0#4 ++ d ++ 103#7)
  | .knot a d => some (5120#17 ++ a ++ 0#4 ++ d ++ 103#7)
  | .rdc d => some (24576#19 ++ d ++ 103#7)
  | .rdid i d => some (448#13 ++ i ++ d ++ 103#7)
  | .nop => some (268435559#32)
  | .trap n => some (576#13 ++ n ++ 103#13)
  | .ebrk => some (335544423#32)
  | .addFp r b a d t => some (0#4 ++ r.bits ++ b ++ a ++ d ++ 4#4 ++ t.bits ++ 1#1)
  | .subFp r b a d t => some (1#4 ++ r.bits ++ b ++ a ++ d ++ 4#4 ++ t.bits ++ 1#1)
  | .mulFp r b a d t => some (2#4 ++ r.bits ++ b ++ a ++ d ++ 4#4 ++ t.bits ++ 1#1)
  | .divFp r b a d t => some (3#4 ++ r.bits ++ b ++ a ++ d ++ 4#4 ++ t.bits ++ 1#1)
  | .minFp b a d t => some (32#7 ++ b ++ a ++ d ++ 4#4 ++ t.bits ++ 1#1)
  | .maxFp b a d t => some (40#7 ++ b ++ a ++ d ++ 4#4 ++ t.bits ++ 1#1)
  | .sqrt r a d t => some (6#4 ++ r.bits ++ 0#6 ++ a ++ d ++ 4#4 ++ t.bits ++ 1#1)
  | .absFp a d t => some (3584#13 ++ a ++ d ++ 4#4 ++ t.bits ++ 1#1)
  | .negFp a d t => some (4096#13 ++ a ++ d ++ 4#4 ++ t.bits ++ 1#1)
  | .scl r b a d t => some (9#4 ++ r.bits ++ b ++ a ++ d ++ 4#4 ++ t.bits ++ 1#1)
  | .rnd r a d t => some (10#4 ++ r.bits ++ 0#6 ++ a ++ d ++ 4#4 ++ t.bits ++ 1#1)
  | .frc r a d t => some (11#4 ++ r.bits ++ 0#6 ++ a ++ d ++ 4#4 ++ t.bits ++ 1#1)
  | .fma m r b a d t => some (m ++ 0#2 ++ r.bits ++ b ++ a ++ d ++ 5#4 ++ t.bits ++ 1#1)
  | .fms m r b a d t => some (m ++ 1#2 ++ r.bits ++ b ++ a ++ d ++ 5#4 ++ t.bits ++ 1#1)
  | .fnma m r b a d t => some (m ++ 2#2 ++ r.bits ++ b ++ a ++ d ++ 5#4 ++ t.bits ++ 1#1)
  | .fnms m r b a d t => some (m ++ 3#2 ++ r.bits ++ b ++ a ++ d ++ 5#4 ++ t.bits ++ 1#1)
  | .rsum m t r a d => some (m ++ t.bits ++ 0#6 ++ r.bits ++ a ++ d ++ 49#7)
  | .rmax m t a d => some (m ++ t.bits ++ 64#9 ++ a ++ d ++ 49#7)
  | .dot m t b a d => some (m ++ t.bits ++ 2#3 ++ b ++ a ++ d ++ 49#7)
  | .dotSr m t b a d => some (m ++ t.bits ++ 3#3 ++ b ++ a ++ d ++ 49#7)
  | .cmpFp m t c b a k => some (m ++ t.bits ++ c.bits ++ b ++ a ++ 0#4 ++ k ++ 55#7)
  | .classify m t a d => some (m ++ t.bits ++ 320#9 ++ a ++ d ++ 55#7)
  | .cvt t r s a d => some (t.bits ++ r.bits ++ 0#2 ++ s.bits ++ a ++ d ++ 51#7)
  | .cvtSat t r s a d => some (t.bits ++ r.bits ++ 1#2 ++ s.bits ++ a ++ d ++ 51#7)
  | .mxpk f s a d => some (3#2 ++ BitVec.ofBool f ++ 20#9 ++ BitVec.ofBool s ++ a ++ d ++ 51#7)
  | .mxup t r f a d => some (4#3 ++ BitVec.ofBool t ++ r.bits ++ 15#4 ++ BitVec.ofBool f ++ 0#1 ++ a ++ d ++ 51#7)
  | .rcp t a d => some (0#11 ++ t.bits ++ a ++ d ++ 53#7)
  | .rsq t a d => some (128#11 ++ t.bits ++ a ++ d ++ 53#7)
  | .exp2 t a d => some (256#11 ++ t.bits ++ a ++ d ++ 53#7)
  | .log2 t a d => some (384#11 ++ t.bits ++ a ++ d ++ 53#7)
  | .sin t a d => some (512#11 ++ t.bits ++ a ++ d ++ 53#7)
  | .cos t a d => some (640#11 ++ t.bits ++ a ++ d ++ 53#7)
  | .tanh t a d => some (768#11 ++ t.bits ++ a ++ d ++ 53#7)
  | .ld o z b d => some (o ++ z.bits ++ b ++ d ++ 65#7)
  | .st o z b s => some (o ++ z.bits ++ b ++ s ++ 67#7)
  | .ldAcq c o z b d => some (1#2 ++ c.bits ++ o ++ z.bits ++ b ++ d ++ 69#7)
  | .stRel c o z b s => some (2#2 ++ c.bits ++ o ++ z.bits ++ b ++ s ++ 69#7)
  | .fenceAcq c => some (3#2 ++ c.bits ++ 524357#28)
  | .fenceRel c => some (3#2 ++ c.bits ++ 1048645#28)
  | .fence c => some (3#2 ++ c.bits ++ 1572933#28)
  | .ldg m w x b d => some (m ++ 1#1 ++ BitVec.ofBool w ++ 0#3 ++ x ++ b ++ d ++ 71#7)
  | .stg m w x b s => some (m ++ 1#1 ++ BitVec.ofBool w ++ 1#3 ++ x ++ b ++ s ++ 71#7)
  | .ldbc m w b d => some (m ++ w.bits ++ 128#9 ++ b ++ d ++ 71#7)
  | .amoAdd o c z b d => some (o.bits ++ c.bits ++ 1#8 ++ BitVec.ofBool z ++ b ++ d ++ 73#7)
  | .amoMin o c z b d => some (o.bits ++ c.bits ++ 5#8 ++ BitVec.ofBool z ++ b ++ d ++ 73#7)
  | .amoMax o c z b d => some (o.bits ++ c.bits ++ 9#8 ++ BitVec.ofBool z ++ b ++ d ++ 73#7)
  | .amoMinz o c z b d => some (o.bits ++ c.bits ++ 13#8 ++ BitVec.ofBool z ++ b ++ d ++ 73#7)
  | .amoMaxz o c z b d => some (o.bits ++ c.bits ++ 17#8 ++ BitVec.ofBool z ++ b ++ d ++ 73#7)
  | .amoAnd o c z b d => some (o.bits ++ c.bits ++ 21#8 ++ BitVec.ofBool z ++ b ++ d ++ 73#7)
  | .amoOr o c z b d => some (o.bits ++ c.bits ++ 25#8 ++ BitVec.ofBool z ++ b ++ d ++ 73#7)
  | .amoXor o c z b d => some (o.bits ++ c.bits ++ 29#8 ++ BitVec.ofBool z ++ b ++ d ++ 73#7)
  | .amoSwp o c z b d => some (o.bits ++ c.bits ++ 33#8 ++ BitVec.ofBool z ++ b ++ d ++ 73#7)
  | .amoCas o c z b d => some (o.bits ++ c.bits ++ 37#8 ++ BitVec.ofBool z ++ b ++ d ++ 73#7)
  | .amoAddf o c z b d => some (o.bits ++ c.bits ++ 41#8 ++ BitVec.ofBool z ++ b ++ d ++ 73#7)
  | .ldfe o c x b d => some (0#1 ++ BitVec.ofBool o ++ c.bits ++ x ++ 0#3 ++ b ++ d ++ 75#7)
  | .ldff o c x b d => some (0#1 ++ BitVec.ofBool o ++ c.bits ++ x ++ 1#3 ++ b ++ d ++ 75#7)
  | .stef o c x b s => some (BitVec.ofBool o ++ 0#1 ++ c.bits ++ x ++ 2#3 ++ b ++ s ++ 75#7)
  | .stff o c x b s => some (BitVec.ofBool o ++ 0#1 ++ c.bits ++ x ++ 3#3 ++ b ++ s ++ 75#7)
  | .feclr o c x b => some (BitVec.ofBool o ++ 0#1 ++ c.bits ++ x ++ 4#3 ++ b ++ 75#13)
  | .hold d => some (0#19 ++ d ++ 77#7)
  | .holdm a => some (64#13 ++ a ++ 77#13)
  | .pres d => some (8192#19 ++ d ++ 77#7)
  | .rstv b a => some (3#7 ++ b ++ a ++ 77#13)
  | .rstv4 b a => some (4#7 ++ b ++ a ++ 77#13)
  | .rstvRel b a => some (5#7 ++ b ++ a ++ 77#13)
  | .rstv4Rel b a => some (6#7 ++ b ++ a ++ 77#13)
  | .send b a => some (0#7 ++ b ++ a ++ 79#13)
  | .sendr b a d => some (1#7 ++ b ++ a ++ d ++ 79#7)
  | .reply b a l => some (2#7 ++ b ++ a ++ l ++ 79#7)
  | .wrep a => some (192#13 ++ a ++ 79#13)
  | .chen a => some (256#13 ++ a ++ 79#13)
  | .chdis a => some (320#13 ++ a ++ 79#13)
  | .chpend a d => some (384#13 ++ a ++ d ++ 79#7)
  | .hkProd n h d => some (7#7 ++ n ++ 0#2 ++ h ++ d ++ 79#7)
  | .hkComm n h => some (8#7 ++ n ++ 0#2 ++ h ++ 79#13)
  | .hkCons n h d => some (9#7 ++ n ++ 0#2 ++ h ++ d ++ 79#7)
  | .hkFree n h => some (10#7 ++ n ++ 0#2 ++ h ++ 79#13)
  | .jcInit s b a => some (0#5 ++ s.bits ++ b ++ a ++ 81#13)
  | .jcAdd s b a => some (1#5 ++ s.bits ++ b ++ a ++ 81#13)
  | .jcDec s b a => some (2#5 ++ s.bits ++ b ++ a ++ 81#13)
  | .jcWait s a => some (3#5 ++ s.bits ++ 0#6 ++ a ++ 81#13)
  | .spawn b a => some (16#7 ++ b ++ a ++ 81#13)
  | .cdrCpy w r c => some (0#7 ++ w ++ r ++ c ++ 83#7)
  | .cdrDeal w r c => some (1#7 ++ w ++ r ++ c ++ 83#7)
  | .cdrPut w r c => some (2#7 ++ w ++ r ++ c ++ 83#7)
  | .cdrFill w r c => some (3#7 ++ w ++ r ++ c ++ 83#7)
  | .cdrCvt w r c => some (4#7 ++ w ++ r ++ c ++ 83#7)
  | .skmCfg b a d => some (16#7 ++ b ++ a ++ d ++ 83#7)
  | .skmPut b a => some (17#7 ++ b ++ a ++ 83#13)
  | .skmTake a d => some (1152#13 ++ a ++ d ++ 83#7)
  | .bfetch a s => some (0#13 ++ a ++ 0#5 ++ BitVec.ofBool s ++ 99#7)
  | .bjump s => some (131072#24 ++ BitVec.ofBool s ++ 99#7)
  | .bjumpBc => some (67108963#32)
  | .jr a => some (192#13 ++ a ++ 99#13)
  | .stop => some (134217827#32)
  | .peer a d => some (0#13 ++ a ++ d ++ 105#7)
  | .peerw a => some (64#13 ++ a ++ 105#13)
  | .join a d => some (128#13 ++ a ++ d ++ 105#7)
  | .leave d => some (12288#19 ++ d ++ 105#7)
  | _ => none

/-- R62, R66: the bits of a parcel. -/
def encodeParcel : Instr → Option (BitVec 16)
  | .signatureMarker => some (65534#16)
  | .parcelNop => some (0#16)
  | .parcelStop => some (2#16)
  | .parcelMov s d => some (s ++ d ++ 4#6)
  | .parcelAddS32 s d => some (s ++ d ++ 6#6)
  | .parcelAddiS32 i d => some (i ++ d ++ 8#6)
  | .parcelSubS32 s d => some (s ++ d ++ 10#6)
  | .parcelAddS64 s d => some (s ++ d ++ 12#6)
  | .parcelAddiS64 i d => some (i ++ d ++ 14#6)
  | .parcelMulS32 s d => some (s ++ d ++ 16#6)
  | .parcelMinS32 s d => some (s ++ d ++ 18#6)
  | .parcelMaxS32 s d => some (s ++ d ++ 20#6)
  | .parcelAnd s d => some (s ++ d ++ 22#6)
  | .parcelOr s d => some (s ++ d ++ 24#6)
  | .parcelXor s d => some (s ++ d ++ 26#6)
  | .parcelShlZ32 n d => some (n ++ d ++ 28#6)
  | .parcelShrZ32 n d => some (n ++ d ++ 30#6)
  | .parcelSraS32 n d => some (n ++ d ++ 32#6)
  | .parcelAddF32 s d => some (s ++ d ++ 34#6)
  | .parcelSubF32 s d => some (s ++ d ++ 36#6)
  | .parcelMulF32 s d => some (s ++ d ++ 38#6)
  | .parcelFmaF32 s d => some (s ++ d ++ 40#6)
  | .parcelMaxF32 s d => some (s ++ d ++ 42#6)
  | .parcelAddF16 s d => some (s ++ d ++ 44#6)
  | .parcelMulF16 s d => some (s ++ d ++ 46#6)
  | .parcelFmaF16 s d => some (s ++ d ++ 48#6)
  | .parcelLd128 b d => some (b ++ d ++ 50#6)
  | .parcelSt128 b d => some (b ++ d ++ 52#6)
  | .parcelBcstZ32 s d => some (s ++ d ++ 54#6)
  | .parcelMoviS32 i d => some (i ++ d ++ 56#6)
  | .parcelNegS32 s d => some (s ++ d ++ 58#6)
  | .parcelEbrk => some (60#16)
  | .endParcel => some (62#16)
  | _ => none

/-- R73: the bits of a jd.* word. -/
def encodeJdWord : Instr → Option (BitVec 32)
  | .jdBcast b a d => some (0#7 ++ b ++ a ++ 0#3 ++ d ++ 11#7)
  | .jdBcastw b a d => some (1#7 ++ b ++ a ++ 0#3 ++ d ++ 11#7)
  | .jdSkalloc a d => some (0#12 ++ a ++ 1#3 ++ d ++ 11#7)
  | .jdSkfree a d => some (32#12 ++ a ++ 1#3 ++ d ++ 11#7)
  | .jdSkstart b a d => some (2#7 ++ b ++ a ++ 1#3 ++ d ++ 11#7)
  | .jdSkstop a d => some (96#12 ++ a ++ 1#3 ++ d ++ 11#7)
  | .jdSkwait a d => some (128#12 ++ a ++ 1#3 ++ d ++ 11#7)
  | .jdSkq a d => some (160#12 ++ a ++ 1#3 ++ d ++ 11#7)
  | .jdFpeek a d => some (0#12 ++ a ++ 2#3 ++ d ++ 11#7)
  | .jdFpoke b a d => some (1#7 ++ b ++ a ++ 2#3 ++ d ++ 11#7)
  | .jdSend a d => some (0#12 ++ a ++ 0#3 ++ d ++ 43#7)
  | .jdSendx b a d => some (1#7 ++ b ++ a ++ 0#3 ++ d ++ 43#7)
  | .jdRecv d => some (1#20 ++ d ++ 43#7)
  | .jdTryrecv d => some (8193#20 ++ d ++ 43#7)
  | .jdAck a d => some (64#12 ++ a ++ 1#3 ++ d ++ 43#7)
  | .jdChset b a d => some (0#7 ++ b ++ a ++ 2#3 ++ d ++ 43#7)
  | .jdChget a d => some (32#12 ++ a ++ 2#3 ++ d ++ 43#7)
  | .jdChen a d => some (64#12 ++ a ++ 2#3 ++ d ++ 43#7)
  | .jdChdis a d => some (96#12 ++ a ++ 2#3 ++ d ++ 43#7)
  | .jdTwmma b a d => some (0#7 ++ b ++ a ++ 0#3 ++ d ++ 91#7)
  | .jdTwrot b a d => some (1#7 ++ b ++ a ++ 0#3 ++ d ++ 91#7)
  | .jdTwring b a d => some (2#7 ++ b ++ a ++ 0#3 ++ d ++ 91#7)
  | .jdTwbmm b a d => some (3#7 ++ b ++ a ++ 0#3 ++ d ++ 91#7)
  | .jdTwepi b a d => some (4#7 ++ b ++ a ++ 0#3 ++ d ++ 91#7)
  | .jdTwclr a d => some (0#12 ++ a ++ 1#3 ++ d ++ 91#7)
  | .jdTwswp d => some (8193#20 ++ d ++ 91#7)
  | .jdTwdom a d => some (64#12 ++ a ++ 1#3 ++ d ++ 91#7)
  | .jdTwsave b a d => some (3#7 ++ b ++ a ++ 1#3 ++ d ++ 91#7)
  | .jdTwrest a d => some (128#12 ++ a ++ 1#3 ++ d ++ 91#7)
  | .jdTwclaim a d => some (160#12 ++ a ++ 1#3 ++ d ++ 91#7)
  | .jdTwq a d => some (192#12 ++ a ++ 1#3 ++ d ++ 91#7)
  | .jdCdr b a d => some (0#7 ++ b ++ a ++ 2#3 ++ d ++ 91#7)
  | .jdSkm b a d => some (0#7 ++ b ++ a ++ 7#3 ++ d ++ 91#7)
  | .jdUiret => some (123#32)
  | .jdTrap a => some (32#12 ++ a ++ 123#15)
  | .jdName a d => some (0#12 ++ a ++ 1#3 ++ d ++ 123#7)
  | .jdFence a => some (0#12 ++ a ++ 8315#15)
  | .jdCnt a d => some (0#12 ++ a ++ 3#3 ++ d ++ 123#7)
  | _ => none

/-- The words of an instruction as 16-bit parcels in increasing address order. Events, host commands and the
RISC-V groups of R146 (whose encodings are not the spec's) have none. -/
def encode (i : Instr) : List (BitVec 16) :=
  match encodeParcel i with
  | some p => [p]
  | none =>
    match encodeFibreWord i with
    | some w => [w.extractLsb' 0 16, w.extractLsb' 16 16]
    | none =>
      match encodeJdWord i with
      | some w => [w.extractLsb' 0 16, w.extractLsb' 16 16]
      | none => []

/-- The jd.* instruction of a 32-bit word, if it is one. -/
def decodeJdWord (w : BitVec 32) : Option Instr :=
  match (match (w.extractLsb' 0 7).toNat with
    | 0x0B => rawCustom0B w
    | 0x2B => rawCustom2B w
    | 0x5B => rawCustom5B w
    | 0x7B => rawCustom7B w
    | _ => .error .unassignedMajor) with
  | .ok i => some i
  | .error _ => none

/-- What the decoders read from the bits w of an opcode-table row. A 32-bit word whose low bits are those of
custom-0 or custom-1 can be both a jd.* word and a Fibre word; the word alone does not say which kind of
context fetches it, and the jd.* reading is taken where there is one (notes/assumptions/4.md). -/
def decodeTableWord (nbits w : Nat) : Option Instr :=
  if nbits ≤ 16 then
    match decodeParcel (BitVec.ofNat 16 w) with
    | .ok i => some i
    | .error _ => none
  else
    match decodeJdWord (BitVec.ofNat 32 w) with
    | some i => some i
    | none =>
      match decodeFibreWord (BitVec.ofNat 32 w) with
      | .ok i => some i
      | .error _ => none

end Sys2Proof
end

