-- ==== Sys2Proof/Config.lean ====
section
/-! DEFINITION. What an implementation fixes and the free values of the model. Each free value is an opaque
constant: nothing evaluates it. notes/assumptions/1.md, 2.md, 5.md, 7.md, 10.md and 14.md name them. -/

namespace Sys2Proof

/-- Which party of the machine, or which outside input, moves next (notes/assumptions/1.md). -/
inductive Turn where
  /-- One cycle of a core passes (R25). -/
  | tick (core : Nat)
  /-- One issue opportunity of a core's Fibres (R133). -/
  | issue (core : Nat)
  /-- One issue opportunity of a core's harts (R147). -/
  | hart (core : Nat)
  /-- One cycle of the launch agent passes (R3). -/
  | agentTick
  /-- An event of the opcode table, with its operands. -/
  | event (i : Instr) (a : EvArgs)
  /-- The host writes its own memory (R383). -/
  | hostWrite (addr : Nat) (data : List Byte)
  /-- What a sensor of the module measures from now on (R390, R391). -/
  | sensor (n value : Nat)
  /-- Management reads a sensor over PLDM (R390). -/
  | monitor (n : Nat)
  /-- The launch agent releases a kernel that has ended or failed (R251). -/
  | release (kid : Nat)
  deriving DecidableEq, Repr, Inhabited

/-- The party that moves when no turn is queued (notes/assumptions/1.md). -/
opaque Config.schedule : Nat → Turn

/-- The n-th free value (notes/assumptions/2.md). -/
opaque Config.free : Nat → Nat

/-- R126: which of the values within the bound a special function of .f32 returns, by operation and operand
(notes/assumptions/7.md). -/
opaque Config.specialF32 : Nat → Nat → Nat

/-- R380: what the fuses hold for the SM2 private key of the device (notes/assumptions/10.md). -/
opaque Config.deviceFuses : Nat
/-- R380: the number that a signature of a string is made with (notes/assumptions/10.md). -/
opaque Config.signNonce : List Byte → Nat
/-- R378: the firmware key in slot 0, with its algorithm, SM4 where the mark holds (notes/assumptions/14.md). -/
opaque Config.firmwareKey : Bool × List Byte
/-- R390: the fused 64-byte root public key (notes/assumptions/10.md). -/
opaque Config.rootKey : List Byte
/-- R390: the signed part of an update image and its signature; the spec does not lay the image out
(notes/assumptions/10.md). -/
opaque Config.updateParts : List Byte → List Byte × List Byte
/-- R380: the firmware image that runs at power-on (notes/assumptions/10.md). -/
opaque Config.firmwareImage : List Byte

end Sys2Proof
end

