-- ==== Sys2Proof/Machine/State.lean ====
section
/-! DEFINITION. The state of the package as plain data, the stops of the model, and the state after reset
(R7). Where the spec gives no reset value, notes/assumptions/8.md names the value. -/

namespace Sys2Proof.Machine

/-- Why a step stops with a fault. -/
inductive Fault where
  /-- Raised by a meaning of a Fibre or hart instruction when no Fibre or hart of that kind is the party that
  moves. `step` never runs an instruction so. Safe: no run of the machine reaches it. -/
  | notThisParty
  deriving DecidableEq, Repr

/-- Why a step is refused. -/
inductive Refusal where
  /-- Raised by `exec` for an instruction that has no meaning yet. Safe: nothing follows from it. -/
  | notModelled (mnemonic : String)
  deriving DecidableEq, Repr

/-- A table from numbers to values: keys strictly rising. -/
abbrev Tab (α : Type) := List (Nat × α)

/-! ### Memories (R257, R271) -/

/-- The bytes, tags, poison bits and full/empty bits of one memory. Unlisted bytes read zero
(notes/assumptions/3.md); tags, poison and full name the granules whose bit is 1, in rising order. -/
structure Mem where
  /-- Bytes by address, in rising order, none of them zero. -/
  bytes : List Host.Cell := []
  /-- R273: 16-byte granules whose tag is 1. -/
  tags : List Nat := []
  /-- R271: poison granules whose bit is 1; their size is the memory's. -/
  poison : List Nat := []
  /-- R257: 8-byte words in state FULL. -/
  full : List Nat := []
  deriving DecidableEq, Repr

/-- Where the bytes of an access live (R268, R271). -/
inductive Loc where
  /-- An offset in the scratchpad of a core. -/
  | spad (core off : Nat)
  /-- A physical memory address of this package (R331). -/
  | pma (a : Nat)
  /-- A host physical address. -/
  | host (a : Nat)
  /-- An address in the shared space of another package. -/
  | peer (pkg a : Nat)
  /-- An address in the shared space of a scale-out peer (R362). -/
  | scaleOut (peer a : Nat)
  /-- An offset in the shape table of a core (R98). -/
  | shape (core off : Nat)
  /-- An offset in the handler table window of a core (R185). -/
  | handler (core off : Nat)
  deriving DecidableEq, Repr

/-! ### Fibre contexts -/

/-- R55: the presence state of a register. -/
inductive Pres where
  | present | pending | held
  deriving DecidableEq, Repr

/-- R51, R54, R55: a vector register; `bad` is an uncorrectable error of R369. -/
structure VCell where
  val : V128 := 0#128
  tag : Bool := false
  pres : Pres := .present
  bad : Bool := false
  deriving DecidableEq, Repr

/-- R51: what instructions of a Fibre read and write. -/
structure FibreRegs where
  regs : Vector VCell 64 := Vector.replicate 64 {}
  k1 : BitVec 16 := 0xFFFF#16
  k2 : BitVec 16 := 0xFFFF#16
  k3 : BitVec 16 := 0xFFFF#16
  ext : Vector Word 8 := Vector.replicate 8 0#64
  flags : BitVec 5 := 0#5
  srseq : BitVec 32 := 0#32
  deriving DecidableEq, Repr

/-- R131, R142: the states of a Fibre context, in the order of their codes. -/
inductive CtxSt where
  | free | dispatching | ready | running | waiting | translating | faulted | halted | saved | stopped
  deriving DecidableEq, Repr

/-- R142: wait kinds, in the order of their codes. -/
inductive WKind where
  | none | presence | fullEmpty | join | reply | peer
  deriving DecidableEq, Repr

/-- A wait in progress (R254): its kind, the address a WAITLIM reports, the registers or context awaited, the
request at a home, the counter value at issue and the limit. -/
structure Wait where
  kind : WKind := .none
  addr : Nat := 0
  regs : List Nat := []
  peerInc : Nat := 0
  req : Nat := 0
  start : Nat := 0
  limit : Nat := 0
  cancelSent : Bool := false
  deriving DecidableEq, Repr

/-- R139: a block slot. -/
structure Slot where
  valid : Bool := false
  blk : Nat := 0
  off : Nat := 0
  deriving DecidableEq, Repr

/-- R169: a load record. The last four fields are the model's own (notes/assumptions/34.md): whether it is of a load or atomic
that gives its registers whole, the further lanes of a broadcast load, and whether an acquire or a release that retired before
the halt awaits it (R280). -/
structure LoadRec where
  addr : Nat := 0
  dst : Nat := 0
  sz : Nat := 0
  first : Nat := 0
  ord : Nat := 0
  scope : Nat := 0
  whole : Bool := false
  lanes : List Nat := []
  holdAcq : Bool := false
  holdRel : Bool := false
  deriving DecidableEq, Repr

/-- R278, R169: a read that returned no data: the registers it leaves PENDING, the cause and address that the
first later use of them faults with, and its load records. Of a HALTED context, cause 0 is a read that had not landed. -/
structure Flaw where
  regs : List Nat
  cause : Nat
  addr : Nat
  loads : List LoadRec
  /-- R373: whether a load of the run of a signed block left it. -/
  run : Bool := false
  deriving DecidableEq, Repr

/-- A store that a signed block holds (R371). -/
structure HeldStore where
  va : Nat
  /-- Its pieces: offset, length and where the bytes go. -/
  ps : List (Nat × Nat × Loc)
  data : List Byte
  tags : List Bool
  /-- R280: how many of the block's earlier stores a `fence.rel` puts before it. -/
  fenced : Nat := 0
  deriving DecidableEq, Repr

/-- R202: the hank operations. -/
inductive HkOp where
  | prod | comm | cons | free
  deriving DecidableEq, Repr

/-- R371: an effect of a signed block on its core that is held until the check: an entry enabled or not, a hank operation on n
slots of hank h, a join of a Skein with a rank, a request for a name whose answer goes to register d, or a leave. -/
inductive SigEffect where
  | chan (ch : Nat) (on : Bool)
  | hank (op : HkOp) (h n : Nat)
  | join (name rank : Nat)
  | named (d : Nat)
  | leave
  deriving DecidableEq, Repr

/-- R371 to R374: the run of a signed block: the registers and the slots of `bfetch` at entry, the held stores, the path's bytes, which run
it is, whether the branch was met and taken, the number of stores, the requests of loads issued, and how many held stores
the last `fence.rel` of the block covers (R280). -/
structure Signed where
  /-- What the block holds back of its effects on the core, oldest first. -/
  effects : List SigEffect := []
  blk : Nat
  entry : FibreRegs
  slot0 : Slot := {}
  slot1 : Slot := {}
  stores : List HeldStore := []
  path : List Byte := []
  second : Bool := false
  branched : Bool := false
  taken : Bool := false
  loads : List Nat := []
  fenced : Nat := 0
  deriving DecidableEq, Repr

/-- R51, R131, R142: a Fibre context. -/
structure Ctx where
  st : CtxSt := .free
  /-- R129. -/
  inc : BitVec 8 := 0#8
  /-- R142: 1 urgent. -/
  lvl : Bool := false
  /-- Spindle-allocated member. -/
  mbr : Bool := false
  /-- Broadcast mode. -/
  bmode : Bool := false
  byDispatch : Bool := false
  /-- R51: the allocation n. -/
  nreg : Nat := 0
  r : FibreRegs := {}
  /-- R61: block address and parcel offset. -/
  pcBlk : Nat := 0
  pcOff : Nat := 0
  cause : Nat := 0
  faultAddr : Nat := 0
  faultPc : Nat := 0
  /-- R144, R145: the sequence of the fault message outstanding. -/
  faultSeq : Option Nat := none
  wait : Wait := {}
  /-- The address of the access or fetch that missed, while TRANSLATING. -/
  missVa : Nat := 0
  slot0 : Slot := {}
  slot1 : Slot := {}
  /-- R139: the block whose copy a jump waits for. -/
  awaits : Option Nat := none
  /-- R145: the length in parcels of the faulting instruction. -/
  faultLen : Nat := 1
  /-- R138: stream position. -/
  streamPos : Nat := 0
  /-- The Skein handle of a member. -/
  handle : Option Nat := none
  /-- R214, R220: name of the Skein, rank, and whether the Fibre joined. -/
  skein : Nat := 0
  rank : Nat := 0
  joined : Bool := false
  /-- R278, R169. -/
  flaws : List Flaw := []
  /-- R280: requests that hold back later loads, waits and write-class operations. -/
  acqHold : List Nat := []
  /-- R280: requests that hold back later write-class operations. -/
  relHold : List Nat := []
  /-- R132, R168: the cycle in which a wait of it last ended, and the bit of the pending set that this is. -/
  woke : Option (Nat × Nat) := none
  /-- R168: the pending set of the halt cycle. -/
  pendingSet : Nat := 0
  signed : Option Signed := none
  /-- R229: the cycle of the last `hold` or `holdm`, and the registers that it held. -/
  heldAt : Option (Nat × List Nat) := none
  /-- R131: the state recorded at a halt. -/
  before : CtxSt := .free
  /-- R168: the wait kind of an aborted wait. -/
  abortedWait : Nat := 0
  deriving DecidableEq, Repr

/-- R135: an entry of the block buffer. -/
structure BlkEntry where
  addr : Nat
  loc : Loc := .pma 0
  /-- none while the fetch is in progress. -/
  data : Option (List Byte) := none
  /-- The cause of a failed fetch. -/
  failed : Option Nat := none
  deriving DecidableEq, Repr

/-! ### Requests to homes -/

/-- Who issued a request. -/
inductive Owner where
  | fibre (ctx inc : Nat)
  | hart (urgent : Bool)
  deriving DecidableEq, Repr

/-- R260: full/empty operations. -/
inductive FeOp where
  | ldfe | ldff | stef | stff | feclr
  deriving DecidableEq, Repr

/-- R264: join-counter operations. -/
inductive JcOp where
  | init | add | dec | wait
  deriving DecidableEq, Repr

/-- R282: the operations of atomics, and R286's sc. -/
inductive AtOp where
  | add | min | max | minz | maxz | and | or | xor | swp | cas | addf
  deriving DecidableEq, Repr

/-- What a request asks of its home. -/
inductive ReqOp where
  /-- n bytes into the register pair from a byte position; `lanes` are further positions that take the same
  bytes (a broadcast load). -/
  | read (n : Nat) (dst : Nat) (first : Nat) (lanes : List Nat)
  | write (data : List Byte) (tags : Option (List Bool))
  | atomic (op : AtOp) (n x c : Nat)
  | fe (op : FeOp) (x : Nat)
  | jc (op : JcOp) (x cont : Nat)
  | hartRead (n : Nat) (signed : Bool)
  | lr (n : Nat)
  | sc (n x : Nat)
  deriving DecidableEq, Repr

/-- How far a request has come. -/
inductive Stage where
  /-- Held back by R280 until earlier accesses have been performed. -/
  | held
  /-- On its way to its home. -/
  | posted
  /-- Queued as a waiter at its home (R259). -/
  | waiter
  /-- The home has answered with data; `clear` marks tags. -/
  | answered (data : List Byte) (tags : List Bool)
  /-- The home answered poisoned (R278). -/
  | poisoned
  /-- The home refused it, FENCED (R368). -/
  | fenced
  /-- The home performed it; the core does not know yet. -/
  | performed
  /-- R169: a restored load record whose translation is awaited. -/
  | untranslated
  /-- The home answered `crossed` with the count (R266). -/
  | crossed (cont count : Nat)
  /-- BUSY or WAITFULL refusal: sent again 256 cycles after this count of the core (R341, R259). -/
  | busy (since : Nat)
  | waitFull (since : Nat)
  deriving DecidableEq, Repr

/-- A load, store, atomic, full/empty or join-counter request (R275, R287). -/
structure Req where
  id : Nat
  core : Nat
  who : Owner
  /-- R249: the level of the context that issued it. -/
  lvl : Bool := false
  op : ReqOp
  va : Nat
  loc : Loc
  stage : Stage := .posted
  /-- Requests that must be done before this one is posted. -/
  after : List Nat := []
  /-- The instruction it belongs to: the id of its first request. -/
  insn : Nat
  /-- Registers that become PRESENT when the instruction's last request lands. -/
  regs : List Nat := []
  rd : Nat := 0
  /-- R277: the bytes of the plain load that it belongs to; 0 of a lane of R281. -/
  size : Nat := 0
  isWrite : Bool
  /-- Whether it holds a request-table entry; requests with one `ent` share it. -/
  entry : Bool := true
  ent : Nat := 0
  /-- ord2 and scope2 of R64. -/
  ord : Nat := 0
  scope : Nat := 0
  /-- R337, R341: it is to be sent again, and awaits the miss that its fresh translation met. -/
  asked : Bool := false
  /-- R255: a cancel is on its way to the home. -/
  cancel : Bool := false
  /-- The home's answer to the cancel: SERVED is true. -/
  cancelAns : Option Bool := none
  /-- Its answer is discarded when it lands. -/
  discard : Bool := false
  /-- R371: bytes and tags of held stores that the load reads, by position. -/
  overlay : List Host.Cell := []
  overTags : List (Nat × Bool) := []
  deriving DecidableEq, Repr

/-! ### Messages -/

/-- R171: a message; bits [127:115] are `rsvd`. -/
structure Msg where
  rsvd : Nat := 0
  seq : Nat := 0
  flags : Nat := 0
  tenant : Nat := 0
  rchan : Nat := 0
  rcore : Nat := 0
  plen : Nat := 0
  prio : Bool := false
  answer : Bool := false
  chan : Nat := 0
  dest : Nat := 0
  dkind : Nat := 0
  payload : List Byte := []
  deriving DecidableEq, Repr

/-- R177: what the answer to a request does when it comes back. -/
inductive AnsKind where
  /-- An acceptance notice or a refusal on a channel. -/
  | channel (chan : Nat)
  /-- The answer pair of a `sendr`. -/
  | regs (ctx inc rd dchan : Nat)
  /-- The name for a `join` with operand zero. -/
  | join (ctx inc rd : Nat)
  /-- A drop notice of the Skimmer. -/
  | notice
  /-- A completion reserved for an engine command (R296). -/
  | engine
  deriving DecidableEq, Repr

/-- R177: an entry of the request table that a message holds. -/
structure Entry where
  x : Nat
  id : Nat
  seq : Nat
  lvl : Bool
  /-- Whether a slot of the reply queue of its level is reserved. -/
  slot : Bool
  ans : AnsKind
  /-- The context that sent it, for R280 and R131. -/
  ctx : Option Nat := none
  isDeposit : Bool := false
  /-- Its answer waits in a reply queue. -/
  got : Bool := false
  deriving DecidableEq, Repr

/-- A message that R231 holds back until earlier writes are performed. -/
structure HeldMsg where
  id : Nat
  after : List Nat
  msg : Msg
  deriving DecidableEq, Repr

/-- R349: a flit in a plane: where it is, where it goes, and what it carries. -/
structure Flit where
  x : Nat
  y : Nat
  dx : Nat
  dy : Nat
  /-- R350: 0 local, 1 service, 2 memory, 3 edge. -/
  port : Nat
  age : Nat := 0
  fidx : Nat := 0
  nflits : Nat := 1
  /-- R351: the endpoint port that injects it, coded as `port`. -/
  src : Nat := 0
  msg : Msg
  deriving DecidableEq, Repr

/-- R351: the injection queue of a router on one plane. -/
structure InjQ where
  x : Nat
  y : Nat
  waited : Nat := 0
  throttle : Bool := false
  /-- R351: the endpoint port that was served last. -/
  last : Nat := 3
  flits : List Flit := []
  deriving DecidableEq, Repr

/-- R173: a reassembly entry. -/
structure Reasm where
  msg : Msg
  nflits : Nat
  got : List Nat
  deriving DecidableEq, Repr

/-- R173: a reassembly entry of an endpoint that is no core. -/
structure EndReasm where
  x : Nat
  y : Nat
  port : Nat
  msg : Msg
  got : List Nat
  deriving DecidableEq, Repr

/-! ### Harts -/

/-- R147: the states of a hart. -/
inductive HartSt where
  | free | startable | running | waiting | faulted | halted | saved
  deriving DecidableEq, Repr

/-- R147: the instruction that a waiting hart waits in, and the stalls of R162. -/
inductive HWait where
  | none | recv | skwait | bcastw
  deriving DecidableEq, Repr

/-- R146 to R152: a Spindle hart. -/
structure Hart where
  st : HartSt := .free
  pc : Word := 0#64
  /-- x0 is slot 0 and never read. -/
  x : Vector Word 32 := Vector.replicate 32 0#64
  shadow : Vector Word 8 := Vector.replicate 8 0#64
  jdivec : Word := 0#64
  jdieE : Bool := false
  jdieA : Bool := false
  jdepc : Word := 0#64
  jdimsg : Word := 0#64
  instret : Word := 0#64
  /-- R23, R146: instruction cache lines of 64 bytes. -/
  icache : Tab (List Byte) := []
  wait : HWait := .none
  /-- The load, lr, atomic or sc that holds the hart, and its rd. -/
  pend : Option Nat := none
  pendRd : XReg := 0#5
  /-- The bytes of the instruction that holds the hart. -/
  pendLen : Nat := 4
  /-- A stall for an answer of the launch agent (`jd.name`). -/
  naming : Bool := false
  /-- The address whose translation the hart awaits. -/
  missVa : Option Nat := none
  /-- The kind of the access that missed, as in `Miss`. -/
  missKind : Nat := 0
  excCause : Nat := 0
  excVal : Word := 0#64
  faultSeq : Option Nat := none
  before : HartSt := .free
  abandoned : Nat := 0
  deriving DecidableEq, Repr

/-! ### Core-wide units -/

/-- R59, R240: the identity set of a level. -/
structure Identity where
  x : Nat := 0
  y : Nat := 0
  w : Nat := 0
  h : Nat := 0
  kern : Nat := 0
  o : Vector Nat 5 := Vector.replicate 5 0
  m : Vector Nat 5 := Vector.replicate 5 0
  jdcwb : Nat := 0
  jdcwl : Nat := 0
  amb0 : V128 := 0#128
  amb1 : V128 := 0#128
  /-- Whether a kernel holds the level. -/
  kernel : Option Nat := none
  deriving DecidableEq, Repr

/-- R154, R138: a Skein handle. -/
structure Skein where
  /-- The hart that owns it: true for hart U. -/
  urgent : Bool
  members : List Nat
  code : Nat
  started : Bool := false
  opened : Bool := false
  /-- Blocks of the stream, oldest first, and the position of the first. -/
  stream : List Nat := []
  basePos : Nat := 0
  name : Nat := 0
  deriving DecidableEq, Repr

/-- R217: a named Skein resident on a core. -/
structure Resident where
  name : Nat
  lvl : Bool
  handle : Option Nat
  deriving DecidableEq, Repr

/-- What the core keeps of a SAVED context beside its record in the image (notes/assumptions/34.md): its index, Skein
name, rank, whether it joined, its handle, and the fault message outstanding. -/
structure SavedCtx where
  idx : Nat
  name : Nat
  rank : Nat
  joined : Bool
  handle : Option Nat
  faultSeq : Option Nat
  /-- R369: registers with an uncorrectable error. -/
  bads : List Nat := []
  inc : BitVec 8 := 0#8
  faultLen : Nat := 1
  /-- Its load records in order, for the fields that are the model's own. -/
  loads : List LoadRec := []
  /-- R278: reads that had returned no data. -/
  flaws : List Flaw := []
  deriving DecidableEq, Repr

/-- R161: the state of a core's normal level. -/
inductive LevelSt where
  | live | halting | saving | saved | restoring
  deriving DecidableEq, Repr

/-- R209: an entry of a Skimmer box with the put's rcore, rchan and level. -/
structure SkEntry where
  key : Nat
  tb : Nat
  value : Nat
  rcore : Nat
  rchan : Nat
  lvl : Bool
  deriving DecidableEq, Repr

/-- R208: a Skimmer box. -/
structure SkBox where
  depth : Nat := 0
  mode : Bool := false
  dn : Bool := false
  on : Bool := false
  first : Nat := 0
  ndrop : Nat := 0
  entries : List SkEntry := []
  deriving DecidableEq, Repr

/-- R307: the other buffer of a latch. -/
inductive LatchO where
  | free | filling | full
  deriving DecidableEq, Repr

/-- R307: an operand in a latch buffer: element bytes, scale bytes and poisoned 16-byte granules of each. -/
structure LatchBuf where
  elems : List Byte := []
  scales : List Byte := []
  bad : List Nat := []
  badScales : List Nat := []
  deriving DecidableEq, Repr

/-- R307: a latch. -/
structure Latch where
  cur : LatchBuf := {}
  other : LatchBuf := {}
  v : Bool := false
  e : Bool := false
  o : LatchO := .free
  deriving DecidableEq, Repr

/-- R305, R310: an accumulator bank: listed elements, checksums and poisoned rows; unlisted are zero. `ints` names the
16-column blocks of a row whose last product was INT8 (notes/assumptions/37.md). -/
structure Bank where
  acc : Tab (BitVec 32) := []
  cs : Tab (BitVec 32) := []
  poison : List Nat := []
  ints : List Nat := []
  deriving DecidableEq, Repr

/-- The running Twister command (R304), with what it has read of the operands of its current product. -/
structure TwCmd where
  f7 : Nat
  rs1 : Nat
  rs2 : Nat
  seq : Nat
  chan : Nat
  /-- R295: requests that come before the command. -/
  after : List Nat := []
  /-- R304: tiles done, and the K position in units of 16 within the next one. -/
  tiles : Nat := 0
  kpos : Nat := 0
  steps : Nat := 0
  flags : Nat := 0
  poison : Bool := false
  /-- R309: credits of the neighbours that take A and B; the sends have started. -/
  credA : Bool := false
  credB : Bool := false
  credited : Bool := false
  /-- The operands of the current product, once read. -/
  opA : Option LatchBuf := none
  opB : Option LatchBuf := none
  /-- Bytes read so far from a hank source, its poisoned granules, and the element size code of the hank. -/
  partA : List Byte := []
  partB : List Byte := []
  badA : List Nat := []
  badB : List Nat := []
  lelA : Nat := 0
  lelB : Nat := 0
  deriving DecidableEq, Repr

/-- R299 to R314: the Twister. `saving` holds while a `jd.twsave` awaits its last bytes. -/
structure Twister where
  openB : Bool := false
  ownerU : Bool := false
  lastKernel : Option Nat := none
  front : Bool := false
  bank0 : Bank := {}
  bank1 : Bank := {}
  a : Latch := {}
  b : Latch := {}
  dom : Nat := 0
  cmd : Option TwCmd := none
  seq : Nat := 0
  saving : Option Bool := none
  deriving DecidableEq, Repr

/-- R315 to R329: a Carder command: the layout record as 768 bits, the command word, the flag, the pattern word, who
issued it, and how far its stream has come in bytes. -/
structure CdCmd where
  id : Nat
  op : Nat
  record : Nat
  word : Nat
  flagAddr : Nat := 0
  flagVal : Nat := 0
  pattern : Nat := 0
  lvl : Bool
  byHart : Bool := false
  byMsg : Bool := false
  rcore : Nat := 0
  rchan : Nat := 0
  seq : Nat := 0
  pos : Nat := 0
  flags : Nat := 0
  /-- Requests and messages that must be done before the command is posted (R295). -/
  after : List Nat := []
  /-- Deal blocks sent and not yet acknowledged. -/
  deals : Nat := 0
  /-- Scale codes of the blocks packed so far, plus 256 where an element was poisoned (R323). -/
  scales : Tab Nat := []
  /-- The address whose translation it awaits. -/
  missVa : Option Nat := none
  /-- R326, R337: an address whose translation was refused. -/
  refused : Option Nat := none
  /-- R326: the status and failing address of an error. -/
  ended : Option (Nat × Nat) := none
  deriving DecidableEq, Repr

/-- R321, R324: what a Carder writes to one 16-byte word: the bytes it writes, the tag, and whether it takes poison. -/
structure CdWord where
  bytes : List (Option Byte)
  tag : Bool := false
  bad : Bool := false
  deriving DecidableEq, Repr

/-- R336: a translation buffer entry is a page descriptor; R337: an outstanding miss. -/
structure Miss where
  va : Nat
  /-- 0 read, 1 write or atomic, 2 Fibre fetch, 3 hart fetch, 4 Carder read, 5 Carder write. -/
  kind : Nat
  epoch : Nat
  walked : Bool := false
  /-- The answer of the service core: a fill, or a refusal when none. -/
  fill : Option (Option Nat) := none
  deriving DecidableEq, Repr

/-- R345: the side-link ports of a core: credits held towards each neighbour in the order of `Dir`, deposits that
have arrived, and deposits on their way out. -/
structure Ports where
  credits : Vector Nat 4 := Vector.replicate 4 4
  inbound : List (Dir × Msg) := []
  outbound : List (Dir × Msg) := []
  /-- R346: beats already sent of the first deposit on its way out in each direction. -/
  sent : Vector Nat 4 := Vector.replicate 4 0
  /-- R345: whether the last beat in each direction was of a rotation. -/
  turned : Vector Bool 4 := Vector.replicate 4 false
  deriving DecidableEq, Repr

/-- R215: an answer of the launch agent on its way to a core. -/
structure NameReq where
  core : Nat
  ctx : Option Nat
  handle : Option Nat
  inc : Nat := 0
  urgent : Bool := false
  answer : Option (Option Nat) := none
  deriving DecidableEq, Repr

/-- R173, R178, R181: the inbox of a core, queue heads first. -/
structure Inbox where
  uReply : List Msg := []
  uReq : List Msg := []
  nReply : List Msg := []
  nReq : List Msg := []
  /-- The overflow rings; a queue is SPILLING while its ring holds a message (R179). -/
  ringU : List Msg := []
  ringN : List Msg := []
  /-- R181: records that have left each ring: the place of its first one, modulo its size. -/
  headU : Nat := 0
  headN : Nat := 0
  uFault : List Msg := []
  nFault : List Msg := []
  /-- Whole messages that the inbox has not checked yet, and messages in reassembly. -/
  arrived : List Msg := []
  reasm : List Reasm := []
  /-- R414: deposits waiting to be applied. -/
  deposits : List Msg := []
  /-- R229: deposits that the inbox takes in this cycle, with the level of their Skein; they take effect at its end. -/
  landing : List (Msg × Bool) := []
  /-- R230: deposits held for the save image or the restored registers. -/
  late : List Msg := []
  deriving DecidableEq, Repr

/-- R336 to R339: the translation buffer of a core: descriptors by slot, the next slot that firmware replaces,
outstanding misses, and the recorded epoch. -/
structure Tlb where
  entries : Tab Nat := []
  next : Nat := 0
  misses : List Miss := []
  epoch : Nat := 0
  deriving DecidableEq, Repr

/-- R23: a compute core. -/
structure Core where
  counter : Nat := 0
  tenant : Nat := 1023
  drained : Bool := false
  stopped : Bool := false
  transients : Nat := 0
  sigLog : List Nat := []
  telemetry : Vector Nat 3 := Vector.replicate 3 0
  reserve : Nat := 8
  ptrU : Nat := 31
  ptrN : Nat := 31
  /-- Contexts that issued or stalled in this cycle, and the slots used. -/
  doneCtx : List Nat := []
  slotsUsed : Nat := 0
  idU : Identity := {}
  idN : Identity := {}
  ctxs : Vector Ctx 32 := Vector.replicate 32 {}
  blocks : List BlkEntry := []
  checker : Option Nat := none
  hartU : Hart := {}
  hartN : Hart := {}
  skeins : Vector (Option Skein) 16 := Vector.replicate 16 none
  residents : List Resident := []
  /-- R218: Skeins whose deposits this core forwards: name, new core, cache acknowledgements outstanding. -/
  forwarding : List (Nat × Nat × Nat) := []
  level : LevelSt := .live
  /-- R131, R141: the SAVED normal contexts. -/
  saved : List SavedCtx := []
  haltCycle : Nat := 0
  /-- R132: the cycle in which a fault reply last took effect. -/
  settledAt : Option Nat := none
  haltDuration : Nat := 0
  saveArea : Option Nat := none
  overflow : Option Nat := none
  suSize : Nat := 0
  snSize : Nat := 0
  footprint : Nat := 0
  seq : Nat := 0
  table : List Entry := []
  heldMsgs : List HeldMsg := []
  inbox : Inbox := {}
  handlers : Tab (BitVec 256) := []
  shape : Tab Byte := []
  hanks : Vector V128 16 := Vector.replicate 16 0#128
  boxes : Vector SkBox 16 := Vector.replicate 16 {}
  puts : List (Msg × Nat) := []
  notices : Nat := 0
  tw : Twister := {}
  carderU : List CdCmd := []
  carderN : List CdCmd := []
  /-- Sequence numbers of the saved Carder commands that no message brought, and the status with which each saved command is
already to end, in order (notes/assumptions/34.md). -/
  cdSeqs : List Nat := []
  cdEnds : List (Option (Nat × Nat)) := []
  tlb : Tlb := {}
  nameCache : List (Nat × Nat) := []
  sentU : Nat := 0
  recvU : Nat := 0
  sentN : Nat := 0
  recvN : Nat := 0
  spad : Mem := {}
  side : Ports := {}
  deriving DecidableEq, Repr


/-! ### Firmware -/

/-- R365: the states of a fence entry, in the order of their codes. -/
inductive FenceSt where
  | free | active | sealed | resetting
  deriving DecidableEq, Repr

/-- R364: a fence table entry; `removal` marks it for removal. -/
structure Fence where
  st : FenceSt := .free
  tenant : Nat := 0
  x0 : Nat := 0
  y0 : Nat := 0
  wm : Nat := 0
  hm : Nat := 0
  removal : Bool := false
  deriving DecidableEq, Repr

/-- R378: a memory key slot with its key. -/
structure KeySlot where
  ld : Bool := false
  alg : Bool := false
  tenant : Nat := 0
  key : List Byte := []
  deriving DecidableEq, Repr

/-- R363, R388: a link key: peer package, direction (receive is true), algorithm, key and epoch; those of earlier epochs stay. -/
structure LinkKey where
  pkg : Nat
  recv : Bool
  alg : Bool
  key : List Byte
  epoch : Nat
  deriving DecidableEq, Repr

/-- R338: the state of a mapped leaf as firmware tracks it: descriptor PMA, tenant, va. -/
structure Leaf where
  desc : Nat
  tenant : Nat
  va : Nat
  deriving DecidableEq, Repr

/-- R340: a page move: leaf, source and destination frame, size in bytes, whether it retires, whether its shootdown is
complete, and whether the host asked for it. -/
structure PageMove where
  leaf : Leaf
  src : Nat
  dst : Nat
  size : Nat
  retiring : Bool
  shot : Bool := false
  byHost : Bool
  deriving DecidableEq, Repr

/-- R343: a hotness record. -/
structure Hot where
  count : Nat := 0
  sx : Nat := 0
  sy : Nat := 0
  deriving DecidableEq, Repr

/-- R338, R368: what firmware records of a local frame. -/
structure Frame where
  size : Nat := 0
  owner : Nat := 0
  /-- R379: the memory key slot that encrypts it. -/
  slot : Nat := 0
  corrected : Nat := 0
  /-- It has been reported to have reached the corrected-error count with the pool empty. -/
  reported : Bool := false
  /-- R338: the granules of 32 bytes that uncorrectable errors have struck, by PMA / 32. -/
  poisoned : List Nat := []
  leaf : Option Leaf := none
  deriving DecidableEq, Repr

/-- R215, R217: the state of a name entry. -/
inductive NameSt where
  | free | live | preempted | migrating | exited
  deriving DecidableEq, Repr

/-- R215: an entry of the name table. -/
structure NameEntry where
  st : NameSt := .free
  gen : Nat := 0
  core : Nat := 0
  lvl : Bool := false
  tenant : Nat := 0
  /-- The caches that hold the entry: of this package by core index, of others by 2^20 + core address. -/
  caches : List Nat := []
  /-- R220: the core, context and incarnation that the name was allocated for by `join`. -/
  owner : Option (Nat × Nat × Nat) := none
  deriving DecidableEq, Repr

/-- R215: a tenant's index range and its free indices, longest free first. -/
structure NameRange where
  tenant : Nat
  first : Nat
  count : Nat
  free : List Nat
  deriving DecidableEq, Repr

/-- R235: the states of a kernel. -/
inductive KernelSt where
  | checking | blocked | placing | loading | running | preempted | ended | failed
  deriving DecidableEq, Repr

/-- R233, R243: a placement; `state` is none before the package reports, else its status. -/
structure Place where
  pkg : Nat
  x0 : Nat
  y0 : Nat
  w : Nat
  h : Nat
  report : Option Nat := none
  deriving DecidableEq, Repr

/-- R242: a start message that has not been answered. -/
structure Start where
  core : Nat
  place : Nat
  seq : Nat
  /-- The agent's cycle at which a BOUNCED refusal arrived. -/
  bounced : Option Nat := none
  deriving DecidableEq, Repr

/-- R250: the figures of a sweep. -/
structure SweepRes where
  sent : Nat
  recv : Nat
  idle : Bool
  deriving DecidableEq, Repr

/-- R232 to R253: a kernel. -/
structure Kernel where
  kid : Nat
  /-- R243: a placement of a kernel of another home agent. -/
  guest : Bool := false
  st : KernelSt := .checking
  record : List Byte := []
  recordAddr : Nat := 0
  /-- R370: whether the user arguments of the record were poisoned in host memory. -/
  argsBad : Bool := false
  image : List Byte := []
  hash : List Byte := []
  places : List Place := []
  /-- Cores taken, as core index, and cores halted for it (R238). -/
  cores : List Nat := []
  halted : List Nat := []
  areas : List (Nat × Nat) := []
  starts : List Start := []
  sent : Nat := 0
  recv : Nat := 0
  prev : Option SweepRes := none
  last : Option SweepRes := none
  sweeps : Nat := 0
  lastSweep : Nat := 0
  /-- The sweep in progress: cores read so far, and their figures. -/
  part : Option (Nat × SweepRes) := none
  /-- Whether it has reached LOADING. -/
  loaded : Bool := false
  arrivedAt : Nat := 0
  status : Nat := 0
  badPlace : Nat := 0xFF
  deriving DecidableEq, Repr

/-- R384, R385: a command that firmware is carrying out: slot, header, payload, and what it waits for. -/
structure Cmd where
  slot : Nat
  header : Nat
  payload : List Byte
  /-- 0 nothing, 1 a shootdown, 2 a page move, 3 a group reset, 4 a routing update. -/
  wait : Nat := 0
  arg : Nat := 0
  deriving DecidableEq, Repr

/-- R339: a shootdown: leaf, page size in bytes, epoch, and the cores whose answer is awaited; it is of a move where
`move` holds, else of a removal. -/
structure Shoot where
  leaf : Leaf
  size : Nat
  epoch : Nat
  await : List Nat
  move : Bool
  deriving DecidableEq, Repr

/-- R218: a Skein in migration: name, old core, new core, level, and deposits that the new core holds. Its members are
HALTED at the old core until they are installed. -/
structure Migration where
  name : Nat
  src : Nat
  dst : Nat
  level : Bool
  installed : Bool := false
  held : List Msg := []
  deriving DecidableEq, Repr

/-- R384 to R391: the launch agent and the firmware of the package. -/
structure Agent where
  counter : Nat := 0
  launches : Nat := 0
  kernels : List Kernel := []
  /-- R236: identifier and whether it failed, latest first. -/
  outcomes : List (Nat × Bool) := []
  seq : Nat := 0
  inbox : List Msg := []
  cmdSlots : Vector (List Byte) 32 := Vector.replicate 32 (List.replicate 64 0#8)
  replySlots : Vector (List Byte) 32 := Vector.replicate 32 (List.replicate 64 0#8)
  nextSlot : Nat := 0
  cmd : Option Cmd := none
  shoots : List Shoot := []
  moves : List PageMove := []
  migrations : List Migration := []
  fences : Vector Fence 32 := Vector.replicate 32 {}
  keys : Tab KeySlot := []
  linkKeys : List LinkKey := []
  /-- R333: translation roots by tenant. -/
  roots : Tab Nat := []
  frames : Tab Frame := []
  /-- R338: RETIRED frames: base and size in bytes. -/
  retired : List (Nat × Nat) := []
  pool : List (Nat × Nat) := []
  hot : Tab Hot := []
  names : Tab NameEntry := []
  ranges : List NameRange := []
  nameReqs : List NameReq := []
  /-- R220: the incarnation of a core's context (32 · core + context) that was last given a name. -/
  named : Tab Nat := []
  /-- Deposits at the name servers (R216). -/
  nsDeposits : List Msg := []
  /-- Resolutions on their way to name caches: core, name, holder, and whether a migration awaits their
  acknowledgement. -/
  cacheUpdates : List (Nat × Nat × Nat × Bool) := []
  forwardAcks : List (Nat × Nat) := []
  region : Option (Nat × Nat) := none
  /-- R17, R376: position p and whether the spare is used, by cluster-row; unlisted is (6, false). -/
  rows : Tab (Nat × Bool) := []
  drained : List Nat := []
  atRisk : List Nat := []
  /-- R377: rail steps above the test point by physical cluster, and last margin codes. -/
  rails : Tab Nat := []
  margins : Tab (List Nat) := []
  /-- R390, R391: what each sensor reads: the dies' temperatures in degrees Celsius at 0 to 7, the power in watts at 8, the
  coolant's temperature at the inlet at 9 and its flow at 10; an unlisted one reads 0. -/
  sensors : Tab Nat := []
  hold : Bool := false
  staged : Option (List Byte) := none
  firmware : Option (List Byte) := none
  counters : Vector Nat 16 := Vector.replicate 16 0
  deriving DecidableEq, Repr

/-! ### The pod -/

/-- R361: the states of a port, in the order of their codes. -/
inductive PortSt where
  | down | training | up | retrain | failed
  deriving DecidableEq, Repr

/-- R355: a pod frame. -/
structure LinkFrame where
  dpkg : Nat := 0
  spkg : Nat := 0
  tseq : Nat := 0
  lseq : Nat := 0
  lack : Nat := 0
  fkind : Nat := 0
  gen : Bool := false
  pclass : Nat := 0
  enc : Bool := false
  ord : Bool := false
  kep : Nat := 0
  msg : Option Msg := none
  deriving DecidableEq, Repr

/-- R356, R357, R361: a pod port. -/
structure Port where
  st : PortSt := .down
  fails : Nat := 0
  lseq : Nat := 0
  /-- Data frames sent and not acknowledged by the link, oldest first, and how often each has been sent again, by lseq. -/
  unacked : List LinkFrame := []
  resends : Tab Nat := []
  expect : Nat := 0
  /-- R357: the classes that the switch has paused, those that the gateway has paused, and whether a resend waits for a
  paused class. -/
  paused : Nat := 0
  pausing : Nat := 0
  held : Bool := false
  since : Nat := 0
  deriving DecidableEq, Repr

/-- R359: the sending side of a stream. -/
structure TxStream where
  dpkg : Nat
  pclass : Nat
  tseq : Nat := 0
  epoch : Nat := 0
  /-- Frames not transport-acknowledged, with the port and the agent cycle from which each may be resent. -/
  unacked : List (LinkFrame × Nat × Nat) := []
  deriving DecidableEq, Repr

/-- R359, R363: the receiving side of a stream. -/
structure RxStream where
  spkg : Nat
  pclass : Nat
  epoch : Nat := 0
  /-- Every tseq below this has arrived. -/
  low : Nat := 0
  /-- Later tseq values that have arrived. -/
  got : List Nat := []
  sinceAck : Nat := 0
  ackAt : Nat := 0
  fails : Nat := 0
  stopped : Bool := false
  /-- Ordered messages in tseq order whose turn has not come, with whether they came in at IO1. -/
  ordered : List (Nat × Bool × Msg) := []
  deriving DecidableEq, Repr

/-- R336: the translation buffer of the pod-port gateway of an I/O die: tenant and descriptor by slot, and the next slot that
firmware replaces. -/
structure Gate where
  entries : Tab (Nat × Nat) := []
  next : Nat := 0
  deriving DecidableEq, Repr

/-- R358 to R363: the gateways of both I/O dies. -/
structure Pod where
  tlb0 : Gate := {}
  tlb1 : Gate := {}
  /-- Answers to the accesses of other packages, latest first: requester, how it ended (as the codes of `outsideStage`; 6 a
  crossing, 7 REMOVED, 8 SERVED) and data. -/
  memOut : List (Nat × Nat × List Byte × List Bool) := []
  /-- R362: 0 absent, 1 in the pod, 2 + i scale-out peer i; unlisted is absent. -/
  map : Tab Nat := []
  /-- R358: plane sets by destination package, for generations 0 and 1. -/
  sets0 : Tab Nat := []
  sets1 : Tab Nat := []
  gen : Bool := false
  updating : Bool := false
  ports : Vector Port 38 := Vector.replicate 38 {}
  tx : List TxStream := []
  rx : List RxStream := []
  /-- Messages taken off the Reel by the gateways of IO0 and IO1. -/
  gate0 : List Msg := []
  gate1 : List Msg := []
  /-- R359: ordered messages injected and not yet taken: rcore, dest, chan, and delivery notices under way. -/
  inOrder : List (Nat × Nat × Nat) := []
  notices : List (Nat × Nat × Nat) := []
  /-- R358: the plane that each gateway's round robin took last, and R362: the Ultra Ethernet port. -/
  rr0 : Nat := 35
  rr1 : Nat := 35
  ueRr : Nat := 37
  /-- R362: messages of ordered packets whose turn has not come. -/
  ueIn : List (Nat × Bool × Msg) := []
  /-- Frames that have left the part, latest first, and packets: peer, mode (0 reliable ordered, 1 reliable unordered), port
  and message. -/
  out : List (Nat × List Byte) := []
  ueOut : List (Nat × Nat × Nat × Msg) := []
  deriving DecidableEq, Repr

/-! ### The machine -/

/-- Which party's instruction `exec` runs. -/
inductive Party where
  | env
  | fibre (core ctx : Nat)
  | hart (core : Nat) (urgent : Bool)
  deriving DecidableEq, Repr

/-- R286: a reservation of a hart at the home of a word of n bytes. -/
structure Resv where
  core : Nat
  urgent : Bool
  loc : Loc
  n : Nat
  deriving DecidableEq, Repr

/-- R324: a deal block on its way: issuing core, level and command, target core, offset and words. -/
structure Deal where
  src : Nat
  lvl : Bool
  cmd : Nat
  dst : Nat
  off : Nat
  words : List CdWord
  deriving DecidableEq, Repr

/-- R309: a rotated operand on its way: sending and receiving core, whether it is for the B-latch, and how far its beats have
come. -/
structure Rotated where
  src : Nat
  dst : Nat
  isB : Bool
  buf : LatchBuf
  /-- R347: the direction of its hops, and the beats that have crossed each link of its path. -/
  dir : Dir
  crossed : List Nat
  /-- The beats that the latch has taken. -/
  taken : Nat := 0
  deriving DecidableEq, Repr

/-- The state of the package. -/
structure State where
  /-- The model's own: the party that moves, the queued turns, counters of turns, free values and requests, whether
  the last instruction stalled, and the operands and word of the event or hart instruction (notes/assumptions/1.md). -/
  cur : Party
  turns : List Turn
  draws : Nat
  frees : Nat
  nextReq : Nat
  stalled : Bool
  ev : EvArgs
  hop : HartOp
  hraw : BitVec 32
  /-- R20: the package number. -/
  pkg : Nat
  /-- R15: the cores, by logical core index; an unlisted core is as after reset. -/
  cores : Tab Core
  /-- R22, R331: HBM and the second tier, by PMA. -/
  mem : Mem
  /-- R271: host memory. -/
  host : Mem
  reqs : List Req
  /-- R286: the reservations at the homes. -/
  resvs : List Resv
  /-- R348 to R353: the request plane and the reply plane. -/
  reel0 : List Flit
  reel1 : List Flit
  inj0 : List InjQ
  inj1 : List InjQ
  /-- R173: messages in reassembly at service cores and edge endpoints. -/
  ends : List EndReasm
  /-- R324: deal blocks on their way. -/
  deals : List Deal
  /-- R309: rotated operands on the side links. -/
  rotated : List Rotated
  agent : Agent
  pod : Pod
  /-- MSI-X vectors raised and PLDM events, latest first. -/
  msix : List Nat
  pldm : List Nat
  /-- R390: the sensors that management has read over PLDM, with their values, newest first. -/
  readings : List (Nat × Nat)
  /-- R383: the bytes that the last read of the HDM range returned to the host. -/
  hdmData : List Byte
  deriving DecidableEq, Repr

/-- A core after reset (R7, R25, R128, R364, R367). -/
def Core.reset : Core := {}

/-- R7: the package after power-on reset. -/
def State.reset : State where
  cur := .env
  turns := []
  draws := 0
  frees := 0
  nextReq := 0
  stalled := false
  ev := {}
  hop := .none
  hraw := 0#32
  pkg := 0
  cores := []
  mem := {}
  host := {}
  reqs := []
  resvs := []
  reel0 := []
  reel1 := []
  inj0 := []
  inj1 := []
  ends := []
  hdmData := []
  deals := []
  rotated := []
  agent := {}
  pod := {}
  msix := []
  pldm := []
  readings := []

end Sys2Proof.Machine
end

