-- ==== Sys2Proof/Machine/Mem.lean ====
section
/-! DEFINITION. Tables, sorted sets and memories in canonical form: bytes, tags, poison and full/empty bits
(R5, R257, R271, R273, R274). -/

namespace Sys2Proof.Machine

/-! ### Tables -/

/-- The value of a key. -/
def tabGet (t : Tab α) (k : Nat) : Option α :=
  match t with
  | [] => none
  | (k', v) :: r => if k' = k then some v else tabGet r k

/-- Sets the value of a key, keeping keys strictly rising. -/
def tabSet (t : Tab α) (k : Nat) (v : α) : Tab α :=
  match t with
  | [] => [(k, v)]
  | (k', v') :: r =>
    if k < k' then (k, v) :: (k', v') :: r
    else if k = k' then (k, v) :: r
    else (k', v') :: tabSet r k v

/-- Removes a key. -/
def tabErase (t : Tab α) (k : Nat) : Tab α :=
  match t with
  | [] => []
  | (k', v') :: r => if k' = k then r else (k', v') :: tabErase r k

/-- Whether keys rise strictly. -/
def tabSorted (t : Tab α) : Bool :=
  match t with
  | [] => true
  | [_] => true
  | (a, _) :: (b, v) :: r => a < b && tabSorted ((b, v) :: r)

/-! ### Sorted sets of numbers -/

/-- Membership. -/
def setHas (l : List Nat) (a : Nat) : Bool :=
  match l with
  | [] => false
  | b :: r => if b = a then true else setHas r a

/-- Inserts a number, keeping numbers strictly rising. -/
def setAdd (l : List Nat) (a : Nat) : List Nat :=
  match l with
  | [] => [a]
  | b :: r => if a < b then a :: b :: r else if a = b then b :: r else b :: setAdd r a

/-- Removes a number. -/
def setDel (l : List Nat) (a : Nat) : List Nat :=
  match l with
  | [] => []
  | b :: r => if b = a then r else b :: setDel r a

/-- Adds or removes a number. -/
def setPut (l : List Nat) (a : Nat) (on : Bool) : List Nat := if on then setAdd l a else setDel l a

/-- Whether numbers rise strictly. -/
def setSorted (l : List Nat) : Bool :=
  match l with
  | [] => true
  | [_] => true
  | a :: b :: r => a < b && setSorted (b :: r)

/-! ### Memories -/

/-- One byte; an unlisted address reads zero (notes/assumptions/3.md). -/
def cellGet (m : List Host.Cell) (a : Nat) : Byte := (tabGet m a).getD 0#8

/-- Writes one byte, keeping the canonical form. -/
def cellSet (m : List Host.Cell) (a : Nat) (b : Byte) : List Host.Cell :=
  if b = 0#8 then tabErase m a else tabSet m a b

/-- The canonical form: addresses strictly rising, no byte zero. -/
def cellsWf (m : List Host.Cell) : Bool := tabSorted m && m.all fun c => c.2 != 0#8

/-- The canonical form of a memory. -/
def Mem.wf (m : Mem) : Bool :=
  cellsWf m.bytes && setSorted m.tags && setSorted m.poison && setSorted m.full

/-- Reads n bytes. -/
def Mem.read (m : Mem) (a n : Nat) : List Byte :=
  match n with
  | 0 => []
  | n + 1 => cellGet m.bytes a :: Mem.read m (a + 1) n

/-- Writes bytes, leaving tags, poison and state bits. -/
def Mem.put (m : Mem) (a : Nat) (d : List Byte) : Mem :=
  match d with
  | [] => m
  | b :: r => Mem.put { m with bytes := cellSet m.bytes a b } (a + 1) r

/-- The little-endian number in n bytes (R5). -/
def Mem.num (m : Mem) (a n : Nat) : Nat := ofBytes (m.read a n)

/-- The granules of g bytes that n bytes at a touch. -/
def granules (a n g : Nat) : List Nat :=
  if n = 0 then [] else (List.range ((a + n - 1) / g - a / g + 1)).map (a / g + ·)

/-- Whether a read of n bytes meets poison; g is the poison granule. -/
def Mem.poisoned (m : Mem) (g a n : Nat) : Bool := (granules a n g).any fun k => setHas m.poison k

/-- R273: clears the tag of each granule that n bytes at a touch. -/
def Mem.clearTags (m : Mem) (a n : Nat) : Mem :=
  { m with tags := (granules a n 16).foldl setDel m.tags }

/-- R273: writes the tags of the 16-byte granules from a. -/
def Mem.putTags (m : Mem) (a : Nat) (ts : List Bool) : Mem :=
  match ts with
  | [] => m
  | t :: r => Mem.putTags { m with tags := setPut m.tags (a / 16) t } (a + 16) r

/-- R273: the tags of n granules from a. -/
def Mem.getTags (m : Mem) (a n : Nat) : List Bool := (granules a (16 * n) 16).map fun k => setHas m.tags k

/-- R274: a store to one poison granule k of g bytes: bytes that lie in it. A partial store to a poisoned granule
writes nothing; a whole one clears the poison. -/
def Mem.storeGranule (m : Mem) (g a : Nat) (d : List Byte) (k : Nat) : Mem :=
  let lo := max a (k * g)
  let hi := min (a + d.length) (k * g + g)
  let part := (d.drop (lo - a)).take (hi - lo)
  if setHas m.poison k then
    if hi - lo = g then (Mem.put { m with poison := setDel m.poison k } lo part) else m
  else m.put lo part

/-- R273, R274: a store of bytes at a, with the tags of the granules it fills, or none to clear them; g is the
poison granule and `tagged` whether the memory keeps tags. -/
def Mem.store (m : Mem) (g : Nat) (tagged : Bool) (a : Nat) (d : List Byte) (ts : Option (List Bool)) : Mem :=
  let dropped := (granules a d.length g).filter fun k =>
    setHas m.poison k && !(a ≤ k * g && k * g + g ≤ a + d.length)
  let m1 := (granules a d.length g).foldl (fun m k => m.storeGranule g a d k) m
  if !tagged then m1
  else match ts with
    | none =>
      let touched := (granules a d.length 16).filter fun t => !dropped.contains (t * 16 / g)
      { m1 with tags := touched.foldl setDel m1.tags }
    | some l =>
      let pairs := (granules a d.length 16).zip l
      let put (s : List Nat) (p : Nat × Bool) := if dropped.contains (p.1 * 16 / g) then s else setPut s p.1 p.2
      { m1 with tags := pairs.foldl put m1.tags }

/-- R274: how many partial stores to poisoned granules a store makes (counted in TELEMETRY). -/
def Mem.partials (m : Mem) (g a n : Nat) : Nat :=
  ((granules a n g).filter fun k => setHas m.poison k && !(a ≤ k * g && k * g + g ≤ a + n)).length

/-- R239, R251, R367: zeroes offsets below f with their tag and poison bits, and marks their words EMPTY. -/
def Mem.zeroBelow (m : Mem) (f : Nat) : Mem :=
  { bytes := m.bytes.filter fun c => f ≤ c.1
    tags := m.tags.filter fun k => f ≤ 16 * k
    poison := m.poison.filter fun k => f ≤ 16 * k
    full := m.full.filter fun k => f ≤ 8 * k }

/-- The tags, poison and full bits of a set moved from granules at `src` to granules at `dst`. -/
def setMove (l : List Nat) (src dst n : Nat) : List Nat :=
  let kept := l.filter fun k => !(dst ≤ k && k < dst + n)
  ((l.filter fun k => src ≤ k && k < src + n).map fun k => k - src + dst).foldl setAdd kept

/-- R340 step 4: copies a frame of n bytes with its tags, poison and full/empty bits. -/
def Mem.copyFrame (m : Mem) (src dst n : Nat) : Mem :=
  let kept := m.bytes.filter fun c => !(dst ≤ c.1 && c.1 < dst + n)
  let moved := (m.bytes.filter fun c => src ≤ c.1 && c.1 < src + n).map fun c => (c.1 - src + dst, c.2)
  { bytes := moved.foldl (fun t c => tabSet t c.1 c.2) kept
    tags := setMove m.tags (src / 16) (dst / 16) (n / 16)
    poison := setMove m.poison (src / 32) (dst / 32) (n / 32)
    full := setMove m.full (src / 8) (dst / 8) (n / 8) }

/-- R379: the units of 64 bytes wholly in n bytes at a. -/
def unitsIn (a n : Nat) : List Nat := ((List.range (n / 64)).map ((a + 63) / 64 + ·)).filter fun u => 64 * u + 64 ≤ a + n
/-- The first 64 bytes of a string, filled with zeros. -/
def fit64 (d : List Byte) : List Byte := (List.range 64).map fun k => d.getD k 0#8
/-- R92, R379: changes the bytes of a unit; poison and full/empty bits stay. A granule whose unit reads otherwise loses its tag, so
that no tagged value arises (notes/assumptions/14.md). -/
def Mem.mapUnit (m : Mem) (u : Nat) (f : List Byte → List Byte) : Mem :=
  let d := m.read (64 * u) 64
  let e := fit64 (f d)
  if e = d then m else (m.put (64 * u) e).clearTags (64 * u) 64
/-- R379: changes the bytes of the units of a range. -/
def Mem.mapUnits (m : Mem) (a n : Nat) (f : Nat → List Byte → List Byte) : Mem :=
  (unitsIn a n).foldl (fun m u => m.mapUnit u (f u)) m

/-! ### Where a location lives -/

/-- The memory of a location, its poison granule, whether it keeps tags, and the offset in it (R271). The shape
table and the handler window are served by their own operations, and other packages are outside. -/
def State.memOf (s : State) (l : Loc) : Option (Mem × Nat × Bool × Nat) :=
  match l with
  | .spad c o => some ((((tabGet s.cores c).getD Core.reset)).spad, 16, true, o)
  | .pma a => some (s.mem, 32, true, a)
  | .host a => some (s.host, 64, false, a)
  | _ => none

/-- R271: the single-copy atomic size of a location's memory. -/
def Loc.atomicSize : Loc → Nat
  | .host _ => 8
  | .scaleOut .. => 8
  | _ => 64

/-- R271: whether the memory has atomics and full/empty state bits. -/
def Loc.hasState : Loc → Bool
  | .spad .. => true
  | .pma _ => true
  | .peer .. => true
  | _ => false

/-- A location k bytes on. -/
def Loc.plus (l : Loc) (k : Nat) : Loc :=
  match l with
  | .spad c o => .spad c (o + k)
  | .pma a => .pma (a + k)
  | .host a => .host (a + k)
  | .peer p a => .peer p (a + k)
  | .scaleOut p a => .scaleOut p (a + k)
  | .shape c o => .shape c (o + k)
  | .handler c o => .handler c (o + k)

/-- Whether n1 bytes at l1 and n2 bytes at l2 overlap. -/
def Loc.overlaps (l1 : Loc) (n1 : Nat) (l2 : Loc) (n2 : Nat) : Bool :=
  match l1, l2 with
  | .spad c a, .spad d b => c == d && a < b + n2 && b < a + n1
  | .pma a, .pma b => a < b + n2 && b < a + n1
  | .host a, .host b => a < b + n2 && b < a + n1
  | .peer p a, .peer q b => p == q && a < b + n2 && b < a + n1
  | .scaleOut p a, .scaleOut q b => p == q && a < b + n2 && b < a + n1
  | .shape c a, .shape d b => c == d && a < b + n2 && b < a + n1
  | .handler c a, .handler d b => c == d && a < b + n2 && b < a + n1
  | _, _ => false

end Sys2Proof.Machine
end

