-- ==== Sys2Proof/Machine/Cap.lean ====
section
/-! DEFINITION. Capabilities: layout, bounds and their encoding (R92 to R96). A capability is a 128-bit number. -/

namespace Sys2Proof.Machine

/-- R92: permission bits in [71:64]. -/
def permR : Nat := 0x01
def permW : Nat := 0x02
def permX : Nat := 0x04
def permA : Nat := 0x08
def permD : Nat := 0x10
def permC : Nat := 0x20
def permG : Nat := 0x40
def permL : Nat := 0x80

/-- R93: corr(am, x, rb). -/
def capCorr (am x rb : Nat) : Int :=
  if am ≥ rb && x < rb then 1 else if am < rb && x ≥ rb then -1 else 0

/-- R93: base, top and permissions of a capability. -/
def capDecode (c : Nat) : Nat × Nat × Nat :=
  let e := min (bits c 77 72) 38
  let a := bits c 59 0
  let am := (a >>> e) % 2 ^ 24
  let hi : Int := ((a >>> (e + 24) : Nat) : Int)
  let bm := bits c 101 78
  let tm := bits c 125 102
  let rb := (bm + 2 ^ 24 - 2 ^ 22) % 2 ^ 24
  let base := trunc (((hi + capCorr am bm rb) * 2 ^ 24 + bm) * 2 ^ e) 60
  let top := trunc (((hi + capCorr am tm rb) * 2 ^ 24 + tm) * 2 ^ e) 61
  (base, top, bits c 71 64)

/-- R93: c with its address replaced. -/
def capWithAddr (c a : Nat) : Nat := setBits c 0 64 a

/-- R93: whether address a is representable for c. -/
def capRepresentable (c a : Nat) : Bool :=
  let (b, t, _) := capDecode c
  let (b', t', _) := capDecode (setBits c 0 60 a)
  b == b' && t == t'

/-- R94: whether bounds are exactly representable at exponent e. -/
def capFits (b t e : Nat) : Bool := b % 2 ^ e == 0 && t % 2 ^ e == 0 && t - b < 3 * 2 ^ (e + 22)

/-- The smallest e from the list that satisfies p. -/
def firstExp (p : Nat → Bool) : Option Nat := (List.range 39).find? p

/-- R94: the smallest exponent at which bounds are exactly representable. -/
def capExp (b t : Nat) : Option Nat := firstExp (capFits b t)

/-- R94: c with exp, bm and tm encoding bounds b and t at exponent e. -/
def capWithBounds (c e b t : Nat) : Nat :=
  setBits (setBits (setBits c 72 6 e) 78 24 (b >>> e)) 102 24 (t >>> e)

/-- A capability of type 0b00 over b to t with address b and the given permissions; none where the bounds are not
exactly representable. -/
def capMake (b t perms : Nat) : Option Nat :=
  (capExp b t).map fun e => capWithBounds (b + perms * 2 ^ 64) e b t

/-- R96: the exponent of `cbnd.r`. -/
def capRoundExp (b t : Nat) : Option Nat :=
  firstExp fun e => roundUp t (2 ^ e) - 2 ^ e * (b / 2 ^ e) < 3 * 2 ^ (e + 22)

/-- R13: canonical(a). -/
def canonical (a : Nat) : Bool := bits a 63 60 == 0

/-- R268: the first address of the scratchpad aperture, the shape table and the handler window. -/
def spadBase : Nat := 0x800000000000000
def shapeBase : Nat := 0x800000000100000
def handlerBase : Nat := 0x800000000200000
def spadSize : Nat := 0x80000

/-- R156: the capability over the scratchpad with R, W, A, C and L that `jd.skstart` writes into v4. -/
def spadCap : Nat :=
  (capMake spadBase (spadBase + spadSize) (permR + permW + permA + permC + permL)).getD 0

/-- R149: ambient capability 1. -/
def ambientCap1 : Nat :=
  (capMake spadBase (handlerBase + 0x8000) (permR + permW + permA + permL)).getD 0

end Sys2Proof.Machine
end

