-- ==== Sys2Proof/Machine/Ops.lean ====
section
/-! DEFINITION. The named operations over cores, contexts, registers, masks, harts, handler entries and messages;
taking a Fibre fault (R10, R144) and a hart exception (R152); settling them (R145); waking and stopping contexts
(R131). -/

namespace Sys2Proof.Machine

/-! ### Access to parts of the state -/

/-- The core with a logical index. -/
def State.core (s : State) (c : Nat) : Core := (tabGet s.cores c).getD Core.reset
/-- Replaces a core. -/
def State.setCore (s : State) (c : Nat) (k : Core) : State := { s with cores := tabSet s.cores c k }
/-- Changes a core. -/
def State.updCore (s : State) (c : Nat) (f : Core → Core) : State := s.setCore c (f (s.core c))
/-- A context of a core. -/
def Core.ctx (k : Core) (i : Nat) : Ctx := if h : i < 32 then k.ctxs[i] else {}
/-- Replaces a context. -/
def Core.setCtx (k : Core) (i : Nat) (x : Ctx) : Core :=
  if h : i < 32 then { k with ctxs := k.ctxs.set i x } else k
/-- Changes a context. -/
def Core.updCtx (k : Core) (i : Nat) (f : Ctx → Ctx) : Core := k.setCtx i (f (k.ctx i))
/-- A context. -/
def State.ctx (s : State) (c i : Nat) : Ctx := (s.core c).ctx i
/-- Replaces a context. -/
def State.setCtx (s : State) (c i : Nat) (x : Ctx) : State := s.updCore c fun k => k.setCtx i x
/-- Changes a context. -/
def State.updCtx (s : State) (c i : Nat) (f : Ctx → Ctx) : State := s.updCore c fun k => k.updCtx i f
/-- A hart of a core: U when urgent. -/
def Core.hart (k : Core) (u : Bool) : Hart := if u then k.hartU else k.hartN
/-- Replaces a hart. -/
def Core.setHart (k : Core) (u : Bool) (h : Hart) : Core :=
  if u then { k with hartU := h } else { k with hartN := h }
/-- A hart. -/
def State.hart (s : State) (c : Nat) (u : Bool) : Hart := (s.core c).hart u
/-- Replaces a hart. -/
def State.setHart (s : State) (c : Nat) (u : Bool) (h : Hart) : State := s.updCore c fun k => k.setHart u h
/-- Changes a hart. -/
def State.updHart (s : State) (c : Nat) (u : Bool) (f : Hart → Hart) : State :=
  s.updCore c fun k => k.setHart u (f (k.hart u))
/-- R240: the identity set of a level. -/
def Core.ident (k : Core) (u : Bool) : Identity := if u then k.idU else k.idN
/-- R20: the 20-bit address of a core of this package. -/
def State.addrOf (s : State) (c : Nat) : Nat := s.pkg * 4096 + c
/-- R15: the column and row of a logical core index. -/
def coreX (c : Nat) : Nat := c % 48
def coreY (c : Nat) : Nat := c / 48
/-- R15: the die of a core. -/
def coreDie (c : Nat) : Nat := (coreY c / 12) * 2 + coreX c / 24
/-- R16: the cluster index of a core. -/
def coreCluster (c : Nat) : Nat := (coreY c / 4) * 12 + coreX c / 4
/-- R15: the number of cores. -/
def numCores : Nat := 2304

/-- The next free value (notes/assumptions/2.md). -/
def State.takeFree (s : State) : Nat × State := (Config.free s.frees, { s with frees := s.frees + 1 })

/-! ### Registers of a Fibre -/

/-- Register i. -/
def FibreRegs.cell (r : FibreRegs) (i : Nat) : VCell := if h : i < 64 then r.regs[i] else {}
/-- Replaces register i. -/
def FibreRegs.setCell (r : FibreRegs) (i : Nat) (v : VCell) : FibreRegs :=
  if h : i < 64 then { r with regs := r.regs.set i v } else r
/-- The bits of register i. -/
def Ctx.v (c : Ctx) (i : Nat) : Nat := (c.r.cell i).val.toNat
/-- The low half of register i. -/
def Ctx.vlo (c : Ctx) (i : Nat) : Nat := c.v i % 2 ^ 64
/-- The tag of register i. -/
def Ctx.vtag (c : Ctx) (i : Nat) : Bool := (c.r.cell i).tag
/-- R55: an instruction that retires writes register i and leaves it PRESENT. -/
def Ctx.setV (c : Ctx) (i : Nat) (x : Nat) (tag : Bool := false) : Ctx :=
  { c with r := c.r.setCell i { val := BitVec.ofNat 128 x, tag := tag } }
/-- Sets the presence state of register i. -/
def Ctx.setPres (c : Ctx) (i : Nat) (p : Pres) : Ctx :=
  { c with r := c.r.setCell i { c.r.cell i with pres := p } }
/-- R51, R57: mask register k; k0 reads 0xFFFF. -/
def Ctx.mask (c : Ctx) (k : MReg) : Nat :=
  if k = 0#2 then 0xFFFF else if k = 1#2 then c.r.k1.toNat else if k = 2#2 then c.r.k2.toNat else c.r.k3.toNat
/-- R56: writes mask register k; a write to k0 is discarded. -/
def Ctx.setMask (c : Ctx) (k : MReg) (x : Nat) : Ctx :=
  if k = 0#2 then c
  else if k = 1#2 then { c with r := { c.r with k1 := BitVec.ofNat 16 x } }
  else if k = 2#2 then { c with r := { c.r with k2 := BitVec.ofNat 16 x } }
  else { c with r := { c.r with k3 := BitVec.ofNat 16 x } }
/-- R13: mask_bit(k, i). -/
def Ctx.maskBit (c : Ctx) (k : MReg) (i : Nat) : Bool := k == 0#2 || (c.mask k).testBit i
/-- Extension register e. -/
def Ctx.ext (c : Ctx) (e : Nat) : Nat := if h : e < 8 then c.r.ext[e].toNat else 0
/-- Writes extension register e. -/
def Ctx.setExt (c : Ctx) (e x : Nat) : Ctx :=
  if h : e < 8 then { c with r := { c.r with ext := c.r.ext.set e (BitVec.ofNat 64 x) } } else c
/-- R42: raises sticky flags. -/
def Ctx.raise (c : Ctx) (f : Nat) : Ctx := { c with r := { c.r with flags := c.r.flags ||| BitVec.ofNat 5 f } }

/-! ### Registers of a hart -/

/-- R150: register r of a hart; a0 to a7 are the shadow set while a handler is active. -/
def Hart.get (h : Hart) (r : XReg) : Word :=
  if r = 0#5 then 0#64
  else if h.jdieA && 10 ≤ r.toNat && r.toNat ≤ 17 then
    (if k : r.toNat - 10 < 8 then h.shadow[r.toNat - 10] else 0#64)
  else h.x[r.toNat]'r.isLt
/-- Writes register r; a write to x0 is discarded. -/
def Hart.set (h : Hart) (r : XReg) (v : Word) : Hart :=
  if r = 0#5 then h
  else if h.jdieA && 10 ≤ r.toNat && r.toNat ≤ 17 then
    (if k : r.toNat - 10 < 8 then { h with shadow := h.shadow.set (r.toNat - 10) v } else h)
  else { h with x := h.x.set r.toNat v r.isLt }
/-- A register as a number. -/
def Hart.getN (h : Hart) (r : XReg) : Nat := (h.get r).toNat
/-- Writes a number. -/
def Hart.setN (h : Hart) (r : XReg) (v : Nat) : Hart := h.set r (BitVec.ofNat 64 v)
/-- Writes payload bytes 0 to 63 into the main a0 to a7. -/
def Hart.setMain (h : Hart) (p : List Byte) : Hart :=
  { h with x := (List.range 8).foldl (fun x i =>
      if k : i + 10 < 32 then x.set (i + 10) (BitVec.ofNat 64 (ofBytes ((p.drop (8 * i)).take 8))) else x) h.x }
/-- Writes payload bytes 0 to 63 into the shadow a0 to a7. -/
def Hart.setShadow (h : Hart) (p : List Byte) : Hart :=
  { h with shadow := (List.range 8).foldl (fun x i =>
      if k : i < 8 then x.set i (BitVec.ofNat 64 (ofBytes ((p.drop (8 * i)).take 8))) else x) h.shadow }

/-! ### Handler entries (R185) -/

/-- The entry of a channel; an entry never written is zero. -/
def Core.entry (k : Core) (ch : Nat) : Nat := ((tabGet k.handlers ch).getD 0#256).toNat
/-- Writes an entry. -/
def Core.setEntry (k : Core) (ch x : Nat) : Core :=
  { k with handlers := tabSet k.handlers ch (BitVec.ofNat 256 x) }
/-- R185: fields of an entry. -/
def entBlk (e : Nat) : Nat := bits e 59 6 * 64
def entTarget (e : Nat) : Nat := bits e 65 63
def entLvl (e : Nat) : Bool := bit e 66
def entReply (e : Nat) : Bool := bit e 67
def entRegs (e : Nat) : Nat := 16 * (bits e 69 68 + 1)
def entE (e : Nat) : Bool := bit e 70
def entO (e : Nat) : Bool := bit e 71
def entW (e : Nat) : Bool := bit e 72
def entHv (e : Nat) : Bool := bit e 73
def entHank (e : Nat) : Nat := bits e 77 74
def entRT (e : Nat) : Bool := bit e 79
def entRoot (e : Nat) : Nat := bits e 255 128

/-! ### Contexts: waking, stopping, freeing, creating -/

/-- R142: the status word of context i. -/
def Ctx.status (c : Ctx) (i : Nat) : Nat :=
  c.cause * 2 ^ 24 + c.inc.toNat * 2 ^ 16 + i * 2 ^ 11 + b01 c.lvl * 2 ^ 10 + b01 c.mbr * 2 ^ 9 +
  b01 c.bmode * 2 ^ 8 + c.wait.kind.ctorIdx * 2 ^ 4 + c.st.ctorIdx

/-- R139: a transfer to block b marks a valid slot that holds it invalid. -/
def Ctx.dropSlot (c : Ctx) (b : Nat) : Ctx :=
  if c.slot0.valid && c.slot0.blk == b then { c with slot0 := {} }
  else if c.slot1.valid && c.slot1.blk == b then { c with slot1 := {} }
  else c

/-- R61, R137, R138: the program counter after n parcels. -/
def Ctx.advance (c : Ctx) (n : Nat) : Ctx :=
  if c.pcOff + n < 32 then { c with pcOff := c.pcOff + n }
  else if c.bmode then { c with pcOff := 0, streamPos := c.streamPos + 1 }
  else { c.dropSlot (c.pcBlk + 64) with pcOff := 0, pcBlk := c.pcBlk + 64 }

/-- R168: what the end of a wait in a cycle is to the pending set: a deposit, a full/empty word, a join counter, a reply. -/
def Wait.woken (w : Wait) (cycle : Nat) : Option (Nat × Nat) :=
  match w.kind with
  | .presence => some (cycle, 1)
  | .fullEmpty => some (cycle, 2)
  | .join => some (cycle, 4)
  | .reply => some (cycle, 8)
  | _ => none

/-- Whether the condition of a local wait holds (R141, R199, R224). -/
def Core.waitDone (k : Core) (c : Ctx) : Bool :=
  match c.wait.kind with
  | .presence => c.wait.regs.all fun r => (c.r.cell r).pres != .held
  | .reply => c.wait.regs.all fun r => (c.r.cell r).pres == .present
  | .peer =>
    let p := k.ctx c.wait.req
    p.inc.toNat != c.wait.peerInc || p.st == .stopped || p.st == .free
  | _ => false

/-- R131: a context whose local wait has become true is READY; `wrep` and `peerw` complete, and an instruction
that waited on presence issues again. -/
def Core.wakeOne (k : Core) (i : Nat) : Core :=
  let c := k.ctx i
  if c.st == .waiting && k.waitDone c then
    let c' := { c with st := .ready, wait := {}, woke := c.wait.woken k.counter }
    k.setCtx i (if c.wait.kind == .presence then c' else c'.advance 2)
  else k

/-- R131: every context whose local wait has become true. -/
def Core.wake (k : Core) : Core := (List.range 32).foldl Core.wakeOne k

/-- R217: the joined members of a Skein by name. -/
def Core.members (k : Core) (name : Nat) : List Nat :=
  (List.range 32).filter fun i => (k.ctx i).skein == name && (k.ctx i).st != .free

/-- R217, R221: context i leaves its Skein; the last joined member of a Skein without a handle ends it. -/
def Core.leaveSkein (k : Core) (i : Nat) : Core :=
  let c := k.ctx i
  let regs := c.r.regs.map fun v => if v.pres == .held then { v with pres := .present } else v
  let k1 := k.setCtx i { c with skein := 0, rank := 0, joined := false, r := { c.r with regs := regs } }
  if (k1.members c.skein).isEmpty then { k1 with residents := k1.residents.filter fun r => r.name != c.skein } else k1

/-- R220: the lowest vacant rank of a Skein. -/
def Core.vacantRank (k : Core) (n : Nat) : Nat :=
  let used := (k.members n).map fun i => (k.ctx i).rank
  ((List.range 32).find? fun r => !used.contains r).getD 0
/-- R59, R371: id.skein as a Fibre sees it: a signed block holds its joins and leaves. -/
def Ctx.skeinSeen (x : Ctx) : Nat :=
  match x.signed with
  | some g => g.effects.foldl (fun n e => match e with | .join m _ => m | .leave => 0 | _ => n) x.skein
  | none => x.skein

/-- R135: blocks that a context or a stream refers to. -/
def Core.blockInUse (k : Core) (b : Nat) : Bool :=
  ((List.range 32).any fun i =>
    let c := k.ctx i
    c.st != .free && ((c.st != .stopped && c.pcBlk == b) || c.awaits == some b || (c.slot0.valid && c.slot0.blk == b) ||
      (c.slot1.valid && c.slot1.blk == b))) ||
  (k.skeins.toList.any fun h => match h with | some sk => sk.stream.contains b | none => false)

/-- R135: the buffer drops the copies that nothing refers to. -/
def Core.dropBlocks (k : Core) : Core := { k with blocks := k.blocks.filter fun b => k.blockInUse b.addr }

/-- R138: a block leaves a stream when every member has passed it; a member that is STOPPED or FAULTED has passed
every block. -/
def Core.trimStream (k : Core) (sk : Skein) : Skein :=
  let tail := sk.basePos + sk.stream.length
  let pos := sk.members.map fun i => let c := k.ctx i; if c.st == .stopped || c.st == .faulted then tail else c.streamPos
  let low := pos.foldl min tail
  { sk with stream := sk.stream.drop (low - sk.basePos), basePos := max low sk.basePos }

/-- R138: trims every stream; those of a level that is not LIVE stay. -/
def Core.trimStreams (k : Core) : Core :=
  { k with skeins := k.skeins.map fun h => h.map fun sk => if sk.urgent || k.level == .live then k.trimStream sk else sk }

/-- R139, R140: context i enters STOPPED, as by `stop`; both slots are emptied. -/
def Core.stopCtx (k : Core) (i : Nat) : Core :=
  let c := k.ctx i
  ((k.setCtx i { c with st := .stopped, slot0 := {}, slot1 := {}, awaits := none, wait := {}, acqHold := [], relHold := [] }).trimStreams.dropBlocks).wake

/-- R138: a member in broadcast mode at the tail of a closed stream enters STOPPED. -/
def Core.stopAtTail (k : Core) (i : Nat) : Core :=
  let c := k.ctx i
  match c.handle with
  | some h =>
    match k.skeins.toList.getD h none with
    | some sk =>
      if c.bmode && (c.st == .ready || c.st == .running) && c.pcOff == 0 && !sk.opened && c.streamPos == sk.basePos + sk.stream.length
      then k.stopCtx i else k
    | none => k
  | none => k

/-- R42, R127: a context that has become FREE: its incarnation, and the flags it raised, stay until it is created again. -/
def Ctx.freed (c : Ctx) : Ctx := { ({} : Ctx) with inc := c.inc, r := { ({} : FibreRegs) with flags := c.r.flags } }
/-- R127, R131: context i enters FREE; a joined member leaves its Skein (R221). -/
def Core.freeCtx (k : Core) (i : Nat) : Core :=
  let k1 := if (k.ctx i).joined then k.leaveSkein i else k
  ((k1.setCtx i (k1.ctx i).freed).dropBlocks).wake

/-- R128: contexts held by a level. -/
def Core.held (k : Core) (u : Bool) : Nat :=
  ((List.range 32).filter fun i => (k.ctx i).st != .free && (k.ctx i).lvl == u).length

/-- R127: pool registers in use. -/
def Core.poolUsed (k : Core) : Nat :=
  ((List.range 32).map fun i => let c := k.ctx i; if c.st == .free then 0 else c.nreg).foldl (· + ·) 0

/-- R128: whether a level may create contexts of the allocations given, one after another. -/
def Core.canCreate (k : Core) (u : Bool) (ns : List Nat) : Bool :=
  let freeCtxs := ((List.range 32).filter fun i => (k.ctx i).st == .free).length
  let used := k.poolUsed + ns.foldl (· + ·) 0
  ns.length ≤ freeCtxs && used ≤ 2048 &&
  (u || k.level == .saved ||
    (k.held false + ns.length ≤ 32 - k.reserve &&
     64 * (k.reserve - k.held true) ≤ 2048 - used))

/-- The lowest FREE context. -/
def Core.freeIdx (k : Core) : Option Nat := (List.range 32).find? fun i => (k.ctx i).st == .free

/-- R51, R129, R131: creates context i: incarnation + 1, registers as R51. -/
def Core.createCtx (k : Core) (i : Nat) (u : Bool) (n : Nat) (st : CtxSt) : Core :=
  k.setCtx i { ({} : Ctx) with st := st, inc := (k.ctx i).inc + 1#8, lvl := u, nreg := n }

/-! ### Messages -/

/-- R172: the next sequence number of a core. -/
def Core.nextSeq (k : Core) : Nat × Core := (k.seq, { k with seq := (k.seq + 1) % 65536 })

/-- R247: counts a message of a level as sent. -/
def Core.countSent (k : Core) (u : Bool) : Core :=
  if u then { k with sentU := (k.sentU + 1) % 2 ^ 64 } else { k with sentN := (k.sentN + 1) % 2 ^ 64 }
/-- R247: counts a message of a level as received. -/
def Core.countRecv (k : Core) (u : Bool) : Core :=
  if u then { k with recvU := (k.recvU + 1) % 2 ^ 64 } else { k with recvN := (k.recvN + 1) % 2 ^ 64 }

/-- R171: flag bits. -/
def flagPoison : Nat := 0
def flagFlagged : Nat := 1
def flagSpawn : Nat := 2
def flagDeposit : Nat := 3
def flagNack : Nat := 4
def flagBounce : Nat := 5
def flagLast : Nat := 6
def flagOrdered : Nat := 7

/-- Whether a header flag is set. -/
def Msg.flag (m : Msg) (b : Nat) : Bool := m.flags.testBit b

/-- R176: an acceptance notice: an answer without payload that is no refusal and goes to channel 0. -/
def Msg.isNotice (m : Msg) : Bool := m.answer && m.plen == 0 && !m.flag flagNack && m.chan == 0

/-- R20: the package of a destination. -/
def Msg.dpkg (m : Msg) : Nat := if m.dkind == 1 then bits m.dest 31 24 else bits m.dest 19 12

/-- R171: the 128-bit header. -/
def Msg.header (m : Msg) : Nat :=
  m.dkind + m.dest * 2 ^ 2 + m.chan * 2 ^ 34 + b01 m.answer * 2 ^ 44 + b01 m.prio * 2 ^ 45 + m.plen * 2 ^ 46 +
  m.rcore * 2 ^ 51 + m.rchan * 2 ^ 71 + m.tenant * 2 ^ 81 + m.flags * 2 ^ 91 + m.seq * 2 ^ 99 + m.rsvd * 2 ^ 115

/-- R171: a message from its header and payload. -/
def msgOf (h : Nat) (p : List Byte) : Msg :=
  { rsvd := bits h 127 115, seq := bits h 114 99, flags := bits h 98 91, tenant := bits h 90 81
    rchan := bits h 80 71, rcore := bits h 70 51, plen := bits h 50 46, prio := bit h 45, answer := bit h 44
    chan := bits h 43 34, dest := bits h 33 2, dkind := bits h 1 0, payload := p }

/-- R350: the router of an endpoint's flits: column, row and port, for a sender at column xs. -/
structure Endpoint where
  x : Nat
  y : Nat
  port : Nat
  deriving DecidableEq, Repr

/-- R359: an ordered message that a gateway brought in has been taken: its delivery notice goes back. -/
def State.tookOrdered (s : State) (m : Msg) : State :=
  let key := (m.rcore, m.dest, m.chan)
  if m.flag flagOrdered && s.pod.inOrder.contains key then { s with pod := { s.pod with notices := s.pod.notices ++ [key] } } else s

/-- R350: the local port of a core. -/
def coreEndpoint (c : Nat) : Endpoint := ⟨coreX c, coreY c, 0⟩
/-- R350: the service core of cluster n. -/
def serviceEndpoint (n : Nat) : Endpoint := ⟨4 * (n % 12), 4 * (n / 12), 1⟩
/-- R350: the edge endpoint of an I/O die. -/
def edgeEndpoint (io xs : Nat) : Endpoint := ⟨xs, if io = 0 then 0 else 47, 3⟩

/-- R173: the number of flits of a message. -/
def Msg.nflits (m : Msg) : Nat := max 1 (ceilDiv m.plen 4)

/-- R351: flits enter the injection queue of a router. -/
def injectAt (q : List InjQ) (x y : Nat) (fs : List Flit) : List InjQ :=
  match q with
  | [] => [{ x := x, y := y, flits := fs }]
  | i :: r => if i.x = x && i.y = y then { i with flits := i.flits ++ fs } :: r else i :: injectAt r x y fs

/-- R172, R173: what the receiving end does with a whole message that needs no hop: the inbox of a core, the
firmware, or a gateway takes it. -/
def State.deliver (s : State) (e : Endpoint) (m : Msg) : State :=
  -- the header is that of the final flit (notes/assumptions/93.md)
  let m0 := { m with rsvd := 0, flags := m.flags ||| 2 ^ flagLast }
  if e.port = 0 then
    s.updCore (e.y * 48 + e.x) fun k =>
      if m.flag flagDeposit && !m.answer then { k with inbox := { k.inbox with deposits := k.inbox.deposits ++ [m0] } }
      else { k with inbox := { k.inbox with arrived := k.inbox.arrived ++ [m0] } }
  else if e.port = 1 then { s with agent := { s.agent with nsDeposits := s.agent.nsDeposits ++ [m0] } }
  else if m.dpkg = s.pkg then { s with agent := { s.agent with inbox := s.agent.inbox ++ [m0] } }
  else if e.y = 0 then { s with pod := { s.pod with gate0 := s.pod.gate0 ++ [m0] } }
  else { s with pod := { s.pod with gate1 := s.pod.gate1 ++ [m0] } }

/-- R349, R351: puts the flits of a message into the injection queue of the sender's router, on the request plane
for class 0 and the reply plane for class 1 (R348). A message to an endpoint of the sender's own router takes no
hop (notes/assumptions/22.md). `src` is the endpoint port that injects. R173: the last flag is that of the final flit alone, which `deliver` gives. -/
def State.inject (s : State) (x y : Nat) (e : Endpoint) (msg : Msg) (src : Nat := 0) : State :=
  let m := { msg with flags := setBits msg.flags flagLast 1 0 }
  if x = e.x && y = e.y then s.deliver e m
  else
    let n := m.nflits
    let fs := (List.range n).map fun i =>
      ({ x := x, y := y, dx := e.x, dy := e.y, port := e.port, fidx := i, nflits := n, src := src, msg := m } : Flit)
    if m.answer then { s with inj1 := injectAt s.inj1 x y fs } else { s with inj0 := injectAt s.inj0 x y fs }

/-- R358: the I/O die that takes a message for another package: by the core's row when unordered, by plane k when
ordered. -/
def gateFor (y : Nat) (plane : Option Nat) : Nat :=
  match plane with
  | some k => if k < 18 then 0 else 1
  | none => if y ≤ 23 then 0 else 1

/-- R43: rotl32. -/
def rotl32 (x n : Nat) : Nat := ((x <<< n) ||| (x >>> (32 - n))) % 2 ^ 32

/-- R43: one round of mix32. -/
def mixRound (p : Nat × Nat) (c a b : Nat) : Nat × Nat :=
  let x := (p.1 + p.2 + c) % 2 ^ 32
  let y := rotl32 p.2 a ^^^ x
  (rotl32 x b, y)

/-- R43: mix32(key, idx, seq). -/
def mix32 (key idx seq : Nat) : Nat :=
  let x := (idx ^^^ key) % 2 ^ 32
  let y := (seq ^^^ (key >>> 32)) % 2 ^ 32
  let p := mixRound (mixRound (mixRound (x, y) 0x9E3779B9 7 16) 0x7F4A7C15 9 11) 0x85EBCA6B 13 5
  p.1 ^^^ p.2

/-- R358: the planes of a set in increasing order. -/
def planesOf (set : Nat) : List Nat := (List.range 36).filter set.testBit

/-- R358: plane k of an ordered message. -/
def State.planeFor (s : State) (m : Msg) : Option Nat :=
  if m.flag flagOrdered then
    let set := (tabGet (if s.pod.gen then s.pod.sets1 else s.pod.sets0) m.dpkg).getD 0
    let ps := planesOf set
    if ps.isEmpty then none else ps[mix32 m.dest m.rcore m.chan % ps.length]?
  else none

/-- R20, R350: the endpoint of a message from a router in column x and row y. A deposit whose name's holder is not
known goes to its name server's service core (R216). -/
def State.route (s : State) (x y : Nat) (m : Msg) : Endpoint :=
  if m.dpkg ≠ s.pkg then edgeEndpoint (gateFor y (s.planeFor m)) x
  else if m.dkind = 1 then serviceEndpoint (bits m.dest 23 8 % 144)
  else
    let c := bits m.dest 11 0
    if c < numCores then coreEndpoint c else edgeEndpoint 0 x

/-- R364: whether a fence entry's rectangle holds a core. -/
def Fence.holds (f : Fence) (c : Nat) : Bool :=
  f.st != .free && f.x0 ≤ coreX c && coreX c ≤ f.x0 + f.wm && f.y0 ≤ coreY c && coreY c ≤ f.y0 + f.hm
/-- R364: the fence entry whose rectangle holds a core. -/
def State.fenceOf (s : State) (c : Nat) : Option Fence := s.agent.fences.toList.find? fun f => f.holds c
/-- R365: whether the rectangle of a core does not let messages in. -/
def State.rectClosed (s : State) (c : Nat) : Bool :=
  match s.fenceOf c with
  | some f => f.st != .active
  | none => true
/-- R365: whether a core is fenced. -/
def State.coreFenced (s : State) (c : Nat) : Bool := (s.core c).drained || s.rectClosed c
/-- R366: whether a message of core c goes outside the rectangle that holds it. -/
def State.leavesFence (s : State) (c : Nat) (m : Msg) : Bool :=
  m.dpkg != s.pkg || m.dkind != 0 ||
  (match s.fenceOf c with
   | some f => !f.holds (bits m.dest 11 0)
   | none => bits m.dest 11 0 != c)

/-- Puts a message of a core into the Reel. -/
def State.emit (s : State) (c : Nat) (m : Msg) : State :=
  s.inject (coreX c) (coreY c) (s.route (coreX c) (coreY c) m) m

/-- Adds one to a telemetry counter of a core (R413). -/
def Core.countTele (k : Core) (i : Nat) : Core :=
  if h : i < 3 then { k with telemetry := k.telemetry.set i (min (k.telemetry[i] + 1) (2 ^ 64 - 1)) } else k

/-- R366: the router of core c refuses a message that core c sends, with FENCED; an answer is discarded and counted
(R176). -/
def State.fenceRefuse (s : State) (c : Nat) (m : Msg) : State :=
  if m.answer then s.updCore c fun k => k.countTele 0
  else s.deliver (coreEndpoint c) { m with
    rsvd := 0, rchan := 1, answer := true, dkind := 0, dest := m.rcore, rcore := s.addrOf c
    chan := if m.rchan ≠ 0 then m.rchan else m.chan, flags := m.flags ||| 2 ^ flagNack }

/-- Posts a message of a core, counting it (R247). The router of a fenced core refuses what leaves the rectangle, and
discards answers there; refusals pass (R366, notes/assumptions/33.md). -/
def State.post (s : State) (c : Nat) (m : Msg) : State :=
  let s1 := if m.isNotice then s else s.updCore c (Core.countSent · m.prio)
  if s.coreFenced c && s.leavesFence c m && !(m.answer && m.flag flagNack) then s1.fenceRefuse c m
  else s1.emit c m

/-- Sends a message of the firmware: of a service core (endpoint port 1), or of the launch agent or a gateway at column x
(port 3). -/
def State.postFrom (s : State) (x y : Nat) (m : Msg) (src : Nat := 3) : State := s.inject x y (s.route x y m) m src

/-- R176: the acceptance notice for a request: an answer without payload. -/
def Msg.acceptance (s : State) (c : Nat) (m : Msg) : Msg :=
  { seq := m.seq, tenant := (s.core c).tenant, rcore := s.addrOf c, prio := m.prio, answer := true
    dest := m.rcore, chan := 0 }

/-- R176: the refusal of a request with a reason, posted by the party whose rcore is given. -/
def Msg.refusal (rcore reason : Nat) (m : Msg) : Msg :=
  { m with rsvd := 0, rcore := rcore, rchan := reason, answer := true, dkind := 0, dest := m.rcore
           chan := if m.rchan ≠ 0 then m.rchan else m.chan
           flags := (m.flags ||| 2 ^ flagNack) ||| (if reason = 5 then 2 ^ flagBounce else 0) }

/-- R175: refusal reasons. -/
def rFenced : Nat := 1
def rBusy : Nat := 2
def rNoSuchGroup : Nat := 3
def rNotHeld : Nat := 4
def rBounced : Nat := 5
def rNoCore : Nat := 6
def rNoChan : Nat := 7
def rSize : Nat := 8
def rReserved : Nat := 9
def rWaitFull : Nat := 10

/-- R176: refuses a request that reached core c. -/
def State.refuse (s : State) (c : Nat) (reason : Nat) (m : Msg) : State :=
  s.post c (Msg.refusal (s.addrOf c) reason m)

/-- R20, R176: the rcore of a refusal by firmware. -/
def State.firmwareAddr (s : State) : Nat := s.pkg * 4096 + 0xFFE

/-! ### Request table (R177, R275) -/

/-- R27: whether all that a flaw's records read lies in the scratchpad. -/
def Flaw.isLocal (f : Flaw) : Bool := f.loads.all fun l => l.addr.testBit 59
/-- R169, R275: the load records that the flaws of a context stand for: each is a read that returned no data and keeps its
request-table entry, but those of the scratchpad. -/
def Ctx.flawEntries (x : Ctx) : Nat := ((x.flaws.filter fun f => !f.isLocal).map fun f => f.loads.length).foldl (· + ·) 0
/-- R275, R278: entries that the requests of a core hold, and the reads that returned no data. -/
def State.reqEntries (s : State) (c : Nat) : Nat :=
  ((s.reqs.filter fun r => r.core == c && r.entry).foldl (fun l r => setAdd l r.ent) []).length +
    (((s.core c).ctxs.toList.map Ctx.flawEntries).foldl (· + ·) 0)
/-- R177: entries in use: a message holds its entry until its answer arrives. -/
def State.entriesUsed (s : State) (c : Nat) : Nat := s.reqEntries c + ((s.core c).table.filter fun e => !e.got).length
/-- Whether n entries are free. -/
def State.entriesFree (s : State) (c n : Nat) : Bool := s.entriesUsed c + n ≤ 512
/-- R177: reply-queue slots of a level that requests reserve; an answer in the queue still holds its request's. -/
def Core.slotsInUse (k : Core) (u : Bool) : Nat := (k.table.filter fun e => e.slot && e.lvl == u).length
/-- Whether a reply-queue slot of a level is free. -/
def Core.slotFree (k : Core) (u : Bool) : Bool := k.slotsInUse u < 32
/-- The lowest request-table index that no message holds (notes/assumptions/21.md). -/
def Core.freeEntry (k : Core) : Nat := ((List.range 512).find? fun x => k.table.all fun e => e.got || e.x != x).getD 0

/-- The requests of a context that are outstanding. -/
def State.ctxReqs (s : State) (c i : Nat) : List Req :=
  s.reqs.filter fun r => r.core == c && r.who == .fibre i (s.ctx c i).inc.toNat
/-- The requests of a hart that are outstanding. -/
def State.hartReqs (s : State) (c : Nat) (u : Bool) : List Req :=
  s.reqs.filter fun r => r.core == c && r.who == .hart u
/-- The messages of a context that have not been answered. -/
def Core.ctxEntries (k : Core) (i : Nat) : List Entry := k.table.filter fun e => e.ctx == some i && !e.got
/-- Whether a request or a message with the id is still outstanding. -/
def State.pendingId (s : State) (c id : Nat) : Bool :=
  (s.reqs.any fun r => r.id == id) || ((s.core c).table.any fun e => e.id == id && !e.got)
/-- Whether any of the ids is outstanding. -/
def State.anyPending (s : State) (c : Nat) (ids : List Nat) : Bool := ids.any (s.pendingId c)

/-- R131: whether anything of a context is outstanding: requests, and answers owed to its registers. -/
def State.outstanding (s : State) (c i : Nat) : Bool :=
  !(s.ctxReqs c i).isEmpty ||
  ((s.core c).table.any fun e => match e.ans with
    | .regs j n _ _ => j == i && n == (s.ctx c i).inc.toNat
    | .join j n _ => j == i && n == (s.ctx c i).inc.toNat
    | _ => false)

/-! ### Taking a fault and an exception -/

/-- Appends a message to the fault queue of a level (R178). -/
def Core.queueFault (k : Core) (u : Bool) (m : Msg) : Core :=
  if u then { k with inbox := { k.inbox with uFault := k.inbox.uFault ++ [m] } }
  else { k with inbox := { k.inbox with nFault := k.inbox.nFault ++ [m] } }

/-- R373, R374: the context with a signed block's held effects discarded, and the slots that it set; presence stays as it is, but
for the register that would take a name not yet asked for, and those of loads of the run that returned no data. -/
def Ctx.discardSigned (c : Ctx) : Ctx :=
  match c.signed with
  | none => c
  | some g =>
    let gone := (c.flaws.filter (·.run)).flatMap Flaw.regs
    let regs := (List.range 64).foldl (fun r i =>
      FibreRegs.setCell r i { (g.entry.cell i) with
        pres := if g.effects.contains (.named i) || gone.contains i then .present else (c.r.cell i).pres }) g.entry
    { c with r := regs, signed := none, pcOff := 0, slot0 := g.slot0, slot1 := g.slot1, flaws := c.flaws.filter (!·.run) }

/-- R373: the answers of these requests are discarded when they land. -/
def State.discardLoads (s : State) (ids : List Nat) : State :=
  { s with reqs := s.reqs.map fun r => if ids.contains r.id then { r with discard := true } else r }

/-- R375: the core is drained: it stops dispatching and issuing, its cluster is marked, and it counts as fenced. -/
def State.drainCore (s : State) (c : Nat) : State :=
  let s1 := s.updCore c fun k => { k with stopped := true, drained := true }
  { s1 with agent := { s1.agent with drained := setAdd s1.agent.drained (coreCluster c) } }

/-- R144: the payload of a Fibre fault message. -/
def Ctx.faultPayload (c : Ctx) (i : Nat) : List Byte :=
  bytesOf c.faultAddr 8 ++ bytesOf c.faultPc 8 ++ bytesOf c.skein 4 ++ bytesOf i 1 ++ bytesOf c.cause 1 ++
  bytesOf c.inc.toNat 1 ++ bytesOf (b01 c.lvl) 1 ++ bytesOf (c.status i) 8 ++ List.replicate 32 0#8

/-- The entry of a block. -/
def Core.findBlock (k : Core) (b : Nat) : Option BlkEntry := k.blocks.find? fun e => e.addr == b
/-- R61: parcel o of a block copy. -/
def parcelAt (d : List Byte) (o : Nat) : Nat := (d.getD (2 * o) 0#8).toNat + 256 * (d.getD (2 * o + 1) 0#8).toNat
/-- R145: the parcels of the instruction at a Fibre's program counter; one where there is no copy of it. -/
def Core.instrParcels (k : Core) (x : Ctx) : Nat :=
  match k.findBlock x.pcBlk with
  | some { data := some d, .. } => if parcelAt d x.pcOff % 2 = 1 then 2 else 1
  | _ => 1

/-- R10, R144, R374: context i of core c enters FAULTED with its program counter at the faulting instruction, and
the core queues a request on channel 1. A HALTED context is recorded as FAULTED (R162). -/
def State.takeFault (s : State) (c i cause addr : Nat) : State :=
  let k := s.core c
  let x := (k.ctx i).discardSigned
  let (seq, k1) := k.nextSeq
  let halted := x.st == .halted
  let x1 := { x with st := if halted then .halted else .faulted, before := if halted then .faulted else x.before, cause := cause, faultAddr := addr % 2 ^ 64, faultPc := x.pcBlk + 2 * x.pcOff
                     faultSeq := some seq, wait := {}, missVa := 0, awaits := none, faultLen := k.instrParcels x }
  let u := entLvl (k.entry 1)
  let m : Msg := { seq := seq, tenant := k.tenant, rchan := 1, rcore := s.addrOf c, plen := 4, prio := u, chan := 1
                   dest := s.addrOf c, payload := x1.faultPayload i }
  let k2 := { k1 with
    checker := if k1.checker == some i then none else k1.checker
    blocks := if cause == 0x10 || cause == 0x0F then k1.blocks.filter (·.failed.isNone) else k1.blocks }
  let s1 := s.setCore c (((k2.setCtx i x1).queueFault u m).trimStreams)
  match (k.ctx i).signed with
  | some g => s1.discardLoads g.loads
  | none => s1

/-- R152: the payload of a hart's exception message. -/
def excPayload (cause pc mtval : Nat) (u : Bool) : List Byte :=
  bytesOf cause 8 ++ bytesOf pc 8 ++ bytesOf mtval 8 ++ bytesOf (b01 u) 1 ++ List.replicate 39 0#8

/-- R152: whether the channel 2 entry is usable for an exception of a hart. -/
def Core.excUsable (k : Core) (u : Bool) : Bool :=
  let e := k.entry 2
  entE e && ((entTarget e == 0 && entBlk e != 0) ||
    (entTarget e == 1 && !u && k.hartU.st != .faulted) || (entTarget e == 2 && u && k.hartN.st != .faulted))

/-- Adds one to a module counter, saturating (R413). -/
def State.count (s : State) (i : Nat) : State :=
  if h : i < 16 then
    { s with agent := { s.agent with counters := s.agent.counters.set i (min (s.agent.counters[i] + 1) (2 ^ 64 - 1)) } }
  else s

/-- R152: the hart enters FAULTED at its program counter with a cause and mtval, and the service core queues a
request on channel 2, or settles the fault with RELEASE where the entry is not usable. -/
def State.takeException (s : State) (c : Nat) (u : Bool) (cause mtval : Nat) : State :=
  let k := s.core c
  let h := k.hart u
  let h1 := { h with excCause := cause, excVal := BitVec.ofNat 64 mtval, wait := .none }
  if k.excUsable u then
    let (seq, k1) := k.nextSeq
    let l := entLvl (k.entry 2)
    let m : Msg := { seq := seq, tenant := k.tenant, rchan := 2, rcore := s.addrOf c, plen := 4, prio := l, chan := 2
                     dest := s.addrOf c, payload := excPayload cause h.pc.toNat (mtval % 2 ^ 64) u }
    s.setCore c ((k1.setHart u { h1 with st := .faulted, faultSeq := some seq }).queueFault l m)
  else (s.setCore c (k.setHart u { h1 with st := .free })).count 6

/-- R152, R162: an exception of a hart whose access was answered; of a halted hart the record takes it. -/
def State.lateException (s : State) (c : Nat) (u : Bool) (cause mtval : Nat) : State :=
  let halted := (s.hart c u).st == .halted
  let s1 := s.takeException c u cause mtval
  if halted then s1.updHart c u fun h => { h with before := h.st, st := .halted } else s1

/-! ### Settling faults (R145) -/

/-- R138: the position of the first block that the stream of a context's handle still holds. -/
def Core.streamBase (k : Core) (c : Ctx) : Nat :=
  match c.handle.bind fun h => k.skeins.toList.getD h none with
  | some sk => sk.basePos
  | none => 0

/-- R138: a FAULTED context that runs again after its block has left the stream: it goes on in the block that it
executes, and its next block is the first that the stream still holds (notes/assumptions/48.md). -/
def Core.rejoin (k : Core) (c : Ctx) : Ctx := { c with streamPos := max c.streamPos (k.streamBase c - 1) }

/-- R145: applies an action to a FAULTED context. A jump to an odd address goes to the parcel that holds it
(notes/assumptions/94.md). -/
def Core.settleFibre (k : Core) (i action addr : Nat) : Core :=
  let c := k.rejoin { k.ctx i with faultSeq := none }
  match action with
  | 0 => (k.setCtx i c).stopCtx i
  | 1 => k.setCtx i { c with st := .ready }
  | 2 => k.setCtx i ({ c with st := .ready }.advance c.faultLen)
  | 3 => k.setCtx i { c.dropSlot (addr - addr % 64) with st := .ready, bmode := false, pcBlk := addr - addr % 64, pcOff := addr % 64 / 2 }
  | _ => k

/-- R145: applies an action to a FAULTED hart; `len` is the length in bytes of the instruction at its pc. -/
def Core.settleHart (k : Core) (u : Bool) (action addr len : Nat) : Core :=
  let h := { k.hart u with faultSeq := none }
  match action with
  | 0 => k.setHart u { h with st := .free }
  | 1 => k.setHart u { h with st := .running }
  | 2 => k.setHart u { h with st := .running, pc := h.pc + BitVec.ofNat 64 len }
  | 3 => k.setHart u { h with st := .running, pc := BitVec.ofNat 64 addr }
  | _ => k

end Sys2Proof.Machine
end

