-- ==== Sys2Proof/Machine/Access.lean ====
section
/-! DEFINITION. Addresses, translation and requests: the regions of the address space (R268 to R270), page
descriptors and the translation buffer (R330 to R337), access checks (R272), and posting the requests of an
instruction (R275, R277, R280, R287). -/

namespace Sys2Proof.Machine

/-! ### Fault causes (R143, R195, R261, R317) -/

def cILLINST : Nat := 0x01
def cILLOPND : Nat := 0x02
def cTRAP : Nat := 0x03
def cEBRK : Nat := 0x04
def cCAPTAG : Nat := 0x05
def cCAPBND : Nat := 0x06
def cCAPREP : Nat := 0x07
def cCAPPERM : Nat := 0x08
def cNONCANON : Nat := 0x09
def cSPACEEND : Nat := 0x0A
def cALIGN : Nat := 0x0B
def cLOCAL : Nat := 0x0C
def cPOISON : Nat := 0x0D
def cWAITLIM : Nat := 0x0E
def cNOMAP : Nat := 0x0F
def cFETCH : Nat := 0x10
def cSIGFAIL : Nat := 0x11
def cMSGDESC : Nat := 0x12
def cSYNCSPACE : Nat := 0x13
def cLAYOUT : Nat := 0x14

/-! ### Page descriptors (R330 to R332) -/

/-- R330: shift(z). -/
def pageShift (z : Nat) : Nat := if z = 0 then 16 else if z = 1 then 21 else 30

def descKind (d : Nat) : Nat := bits d 127 124
def descNode (d : Nat) : Nat := bits d 123 116
def descTarget (d : Nat) : Nat := bits d 115 64
def descVtag (d : Nat) : Nat := bits d 58 16
def descSt (d : Nat) : Nat := bits d 10 8
def descSize (d : Nat) : Nat := bits d 5 4
def descW (d : Nat) : Bool := bit d 3
def descR (d : Nat) : Bool := bit d 2
def descType (d : Nat) : Nat := bits d 1 0

/-- R332: the target of a leaf. -/
def leafTarget (d : Nat) : Nat := descTarget d * 2 ^ 16

/-- R332: the bits that a layout does not use are zero; `hashed` is the hashed layout or the translation buffer. -/
def descOk (hashed : Bool) (d : Nat) : Bool :=
  let t := descType d
  let z := descSize d
  bits d 63 59 == 0 && bits d 15 11 == 0 && bits d 7 6 == 0 && descKind d ≤ 3 && z ≤ 2 &&
  (descKind d ≥ 2 || descNode d == 0) &&
  (if hashed then (descVtag d * 2 ^ 16) % 2 ^ pageShift z == 0 else descVtag d == 0) &&
  (if t = 2 then
     (1 ≤ descSt d && descSt d ≤ 4) &&
     leafTarget d % 2 ^ pageShift z == 0 &&
     (descKind d != 0 || leafTarget d < 2 ^ 60)
   else if t = 1 then
     !hashed && descKind d == 0 && descSt d ≤ 4
   else t == 0 && descSt d == 0)

/-- R331: the capacity in bytes of a unit, zero for a reserved one (R22). -/
def unitCapacity (u : Nat) : Nat := if u < 16 then 48 * 2 ^ 30 else if u < 18 then 512 * 2 ^ 30 else 0

/-- Whether n bytes at a physical memory address exist. -/
def pmaOk (a n : Nat) : Bool := a % 2 ^ 55 + n ≤ unitCapacity (a / 2 ^ 55)

/-- R336: whether a descriptor matches a virtual address. -/
def descMatches (d va : Nat) : Bool :=
  descVtag d == (va / 2 ^ pageShift (descSize d) * 2 ^ pageShift (descSize d)) / 2 ^ 16 % 2 ^ 43

/-- R337: kinds of access. -/
inductive AccKind where
  | read | write | fetch | hfetch | cread | cwrite
  deriving DecidableEq, Repr

/-- The code of an access kind in a miss. -/
def AccKind.code : AccKind → Nat
  | .read => 0 | .write => 1 | .fetch => 2 | .hfetch => 3 | .cread => 4 | .cwrite => 5
/-- The access kind of a code. -/
def AccKind.ofCode (n : Nat) : AccKind :=
  match n with
  | 0 => .read | 1 => .write | 2 => .fetch | 3 => .hfetch | 4 => .cread | _ => .cwrite

/-- R335: whether a leaf admits an access. -/
def leafAllows (d : Nat) (k : AccKind) : Bool :=
  (match k with
   | .write | .cwrite => descW d
   | _ => descR d) &&
  (descKind d != 3 || k == .cread || k == .cwrite) &&
  (k != .fetch || descKind d == 0 || descKind d == 3)

/-- R332: where a leaf puts a virtual address. -/
def leafLoc (d va : Nat) : Loc :=
  let a := leafTarget d + va % 2 ^ pageShift (descSize d)
  match descKind d with
  | 0 => .pma a
  | 1 => .host a
  | 2 => .peer (descNode d) a
  | _ => .scaleOut (descNode d) a

/-- R336: the matching entry of the translation buffer; of two, the one with the smaller page. -/
def Tlb.find (t : Tlb) (va : Nat) : Option Nat :=
  t.entries.foldl (fun best e =>
    if descMatches e.2 va then
      match best with
      | some b => if descSize e.2 < descSize b then some e.2 else some b
      | none => some e.2
    else best) none

/-- The outcome of a translation. -/
inductive Trans where
  | hit (l : Loc)
  | miss
  | refused
  deriving DecidableEq, Repr

/-- R336: looks a shared-space address up. -/
def Core.translate (k : Core) (va : Nat) (a : AccKind) : Trans :=
  match k.tlb.find va with
  | some d => if leafAllows d a then .hit (leafLoc d va) else .refused
  | none => .miss

/-- R337: records a miss, or joins the outstanding miss of the same granule. -/
def Core.addMiss (k : Core) (va : Nat) (a : AccKind) : Core :=
  if k.tlb.misses.any fun m => m.va / 2 ^ 16 == va / 2 ^ 16 then k
  else { k with tlb := { k.tlb with misses := k.tlb.misses ++ [{ va := va, kind := a.code, epoch := k.tlb.epoch }] } }

/-- R368: the owner tenant that firmware records for the local frame of a physical address. -/
def State.frameOwner (s : State) (a : Nat) : Option Nat :=
  (s.agent.frames.find? fun f => f.1 ≤ a && a < f.1 + 2 ^ pageShift f.2.size).map fun f => f.2.owner

/-- R368: whether the home of a location admits a tenant. -/
def State.ownerOk (s : State) (tenant : Nat) (l : Loc) : Bool :=
  match l with
  | .pma a => match s.frameOwner a with
    | some t => t == tenant
    | none => true
  | _ => true

/-! ### Checks on an access (R269, R272) -/

/-- The outcome of the checks on an access. -/
inductive Check where
  | ok (l : Loc)
  | fault (cause addr : Nat)
  | miss (va : Nat)
  deriving DecidableEq, Repr

/-- R272: access_check(c, a, n, al, pm) of a Fibre of core k, without the translate step where `tr` is false. -/
def accessCheck (k : Core) (core : Nat) (c : Nat) (tag : Bool) (a n al pm : Nat) (kind : AccKind)
    (tr : Bool := true) : Check :=
  if !tag then .fault cCAPTAG a
  else if !canonical a then .fault cNONCANON a
  else if a + n > 2 ^ 60 then .fault cSPACEEND a
  else if (bits c 71 64) &&& pm ≠ pm then .fault cCAPPERM a
  else if a % al ≠ 0 then .fault cALIGN a
  else
    let (b, t, _) := capDecode c
    if a < b || a + n > t then .fault cCAPBND a
    else if a.testBit 59 then
      if !c.testBit 71 then .fault cCAPPERM a
      else if a + n > spadBase + spadSize then .fault cLOCAL a
      else .ok (.spad core (a - spadBase))
    else if !tr then .ok (.pma 0)
    else match k.translate a kind with
      | .hit (.peer p x) => if !c.testBit 70 then .fault cCAPPERM a else .ok (.peer p x)
      | .hit l => .ok l
      | .miss => .miss a
      | .refused => .fault cNOMAP a

/-! ### The outcome of an instruction at issue -/

/-- What an instruction of a Fibre does when it issues. -/
inductive Issue where
  /-- It retires; the program counter moves past it. -/
  | retire (s : State)
  /-- It retires and has set the program counter itself. -/
  | moved (s : State)
  /-- It stalls at issue (R131); the state is as it was but for fetches started. -/
  | stall (s : State)
  /-- It waits (R254). -/
  | wait (s : State) (kind : WKind) (addr : Nat) (regs : List Nat) (peerInc req : Nat)
  /-- It misses the translation buffer (R131). -/
  | miss (va : Nat) (kind : AccKind)
  /-- It faults (R10). -/
  | fault (cause addr : Nat)

/-- R280, R372: the classes of instructions. -/
inductive Cls where
  | plain | load | store | writeOp | atomic | wait | waitWrite | hold | leaves | branch
  deriving DecidableEq, Repr

/-- R280: loads, write-class operations and waits are held back by an acquire. -/
def Cls.heldByAcq : Cls → Bool
  | .load | .store | .writeOp | .atomic | .wait | .waitWrite => true
  | _ => false
/-- R280: write-class operations. -/
def Cls.isWrite : Cls → Bool
  | .store | .writeOp | .atomic | .waitWrite => true
  | _ => false
/-- R71, R372: what a signed block may not hold. -/
def Cls.barredSigned : Cls → Bool
  | .writeOp | .atomic | .wait | .waitWrite | .hold | .leaves => true
  | _ => false

/-! ### Requests of an instruction -/

/-- R287: the pieces of n bytes at a location that are each single-copy atomic: offset and length. -/
def Loc.pieces (l : Loc) (n : Nat) : List (Nat × Nat) :=
  let s := l.atomicSize
  let a := match l with
    | .spad _ o => o | .pma a => a | .host a => a | .peer _ a => a | .scaleOut _ a => a | .shape _ o => o
    | .handler _ o => o
  if n = 0 then []
  else (List.range ((a + n - 1) / s - a / s + 1)).map fun i =>
    let lo := max a ((a / s + i) * s)
    let hi := min (a + n) ((a / s + i + 1) * s)
    (lo - a, hi - lo)

/-- The number of bytes a request touches. -/
def ReqOp.size : ReqOp → Nat
  | .read n .. => n
  | .write d _ => d.length
  | .atomic _ n .. => n
  | .fe .. => 8
  | .jc .. => 16
  | .hartRead n _ => n
  | .lr n => n
  | .sc n _ => n

/-- The locations that do not hold a request-table entry (R275): the scratchpad. -/
def Loc.isSpad : Loc → Bool
  | .spad .. => true
  | _ => false

/-- The kind of access of a request. -/
def ReqOp.kind : ReqOp → AccKind
  | .read .. => .read
  | .hartRead .. => .read
  | .lr _ => .read
  | .fe .ldff _ => .read
  | .jc .wait _ _ => .read
  | _ => .write
/-- R341, R259: whether a request was refused and is to be sent again, translated afresh. -/
def Req.retries (r : Req) : Bool :=
  match r.stage with
  | .busy _ => true
  | .waitFull _ => true
  | _ => false
/-- R275, R342: whether a request touches some of n bytes at l: where it was sent, or, where it is to be sent again, where its
address is now. One whose translation is awaited may touch any. -/
def State.touches (s : State) (r : Req) (l : Loc) (n : Nat) : Bool :=
  r.stage == .untranslated || r.loc.overlaps r.op.size l n ||
  (r.retries && !r.loc.isSpad && match (s.core r.core).translate r.va r.op.kind with
    | .hit m => m.overlaps r.op.size l n
    | _ => false)
/-- R275: whether an access of a context overlaps an earlier outstanding one and either writes. -/
def State.overlapsOutstanding (s : State) (c i : Nat) (l : Loc) (n : Nat) (isWrite : Bool) : Bool :=
  (s.ctxReqs c i).any fun r => (isWrite || r.isWrite) && s.touches r l n

/-- Adds a request; its id is the next one. -/
def State.addReq (s : State) (r : Req) : State :=
  { s with reqs := s.reqs ++ [{ r with id := s.nextReq }], nextReq := s.nextReq + 1 }

/-- The ids outstanding for a context: its requests, the messages it awaits answers for, and its held messages
(R231, R280). -/
def State.ctxIds (s : State) (c i : Nat) : List Nat :=
  (s.ctxReqs c i).map (·.id) ++ ((s.core c).ctxEntries i).map (·.id)

/-- Posts the requests of one instruction of a context, in order. -/
def State.addReqs (s : State) (rs : List Req) : State := rs.foldl State.addReq s

/-- A request of a context for one piece. -/
def mkReq (s : State) (c i insn : Nat) (op : ReqOp) (va : Nat) (l : Loc) (isWrite : Bool) (regs : List Nat)
    (ord scope : Nat) (after : List Nat) : Req :=
  { id := 0, core := c, who := .fibre i (s.ctx c i).inc.toNat, lvl := (s.ctx c i).lvl, op := op, va := va, loc := l
    stage := if after.isEmpty then .posted else .held, after := after, insn := insn, regs := regs
    isWrite := isWrite, entry := !l.isSpad, ent := insn, ord := ord, scope := scope }

/-- R287: an access in pieces, each an offset, a length and where its bytes live. -/
abbrev Span := List (Nat × Nat × Loc)

/-- R287: the pieces of n bytes at a location, from offset o of an access. -/
def Loc.span (l : Loc) (n o : Nat) : Span := (l.pieces n).map fun p => (o + p.1, p.2, l.plus p.1)

/-- R277: whether an access of 32 bytes at a has its second half in another page. -/
def crossesPage (a n : Nat) : Bool := n == 32 && a % 2 ^ 16 == 2 ^ 16 - 16 && !a.testBit 59

/-- R272, R277: the check of the second half of an access that crosses pages: translation, and G, at its own address
(notes/assumptions/90.md). That of an access at the end of the shared space lies in the local aperture, and needs L. -/
def secondHalf (k : Core) (core c a : Nat) (kind : AccKind) : Check :=
  if (a + 16).testBit 59 then (if c.testBit 71 then .ok (.spad core (a + 16 - spadBase)) else .fault cCAPPERM (a + 16))
  else match k.translate (a + 16) kind with
  | .hit (.peer p x) => if !c.testBit 70 then .fault cCAPPERM (a + 16) else .ok (.peer p x)
  | .hit l => .ok l
  | .miss => .miss (a + 16)
  | .refused => .fault cNOMAP (a + 16)

/-- R277: the requests of a load in pieces into register d, from the effective address. -/
def loadReqs (s : State) (c i : Nat) (va : Nat) (ps : Span) (n d : Nat) (ord scope : Nat) : List Req :=
  ps.map fun p =>
    { mkReq s c i s.nextReq (.read p.2.1 d p.1 []) (va + p.1) p.2.2 false
      (if n = 32 then [d, d + 1] else [d]) ord scope [] with size := n }

/-- R277, R273: the requests of a store of bytes in pieces, with tags for .128 and .256. -/
def storeReqs (s : State) (c i : Nat) (va : Nat) (ps : Span) (data : List Byte) (tags : Option (List Bool))
    (ord scope : Nat) (after : List Nat) : List Req :=
  ps.map fun p =>
    mkReq s c i s.nextReq
      (.write ((data.drop p.1).take p.2.1) (tags.map fun t => (t.drop (p.1 / 16)).take (p.2.1 / 16)))
      (va + p.1) p.2.2 true [] ord scope after

/-- The ids that the next n requests take. -/
def nextIds (s : State) (n : Nat) : List Nat := (List.range n).map (s.nextReq + ·)

/-- R275, R281, R373: posts a write of a context behind the outstanding accesses of the context that it overlaps. -/
def State.addBehind (s : State) (c i : Nat) (r : Req) : State :=
  let ids := ((s.ctxReqs c i).filter fun q => s.touches q r.loc r.op.size).map (·.id)
  let after := r.after ++ ids
  s.addReq { r with after := after, stage := if after.isEmpty then .posted else .held }

/-- The ids of the requests of a context that are outstanding. -/
def State.reqIds (s : State) (c i : Nat) : List Nat := (s.ctxReqs c i).map (·.id)

/-- R280: the requests that hold back later accesses, without those that are done. -/
def State.stillPending (s : State) (c : Nat) (ids : List Nat) : List Nat := ids.filter (s.pendingId c)

end Sys2Proof.Machine
end

