-- ==== Sys2Proof/Machine/Issue.lean ====
section
/-! DEFINITION. How a Fibre instruction issues: block fetches (R135 to R139), signed blocks (R70 to R72, R371 to
R374), the checks that every instruction shares (R52, R53, R55, R69, R224, R278, R280), waits (R254) and
retirement (R137, R138). -/

namespace Sys2Proof.Machine

/-! ### Blocks -/

/-- The outcome of asking for the copy of a block. -/
inductive Fetch where
  | ready (data : List Byte)
  | wait (s : State)
  | miss (va : Nat)
  | fault (cause : Nat)

/-- R136: in_code_window(b) for a level. -/
def Core.inWindow (k : Core) (u : Bool) (b : Nat) : Bool :=
  (k.ident u).jdcwb ≤ b && b + 64 ≤ (k.ident u).jdcwb + (k.ident u).jdcwl

/-- R135, R136, R139: the copy of block b for a context of level u; starts its fetch where there is none. -/
def State.fetchBlock (s : State) (c : Nat) (u : Bool) (b : Nat) : Fetch :=
  let k := s.core c
  if !k.inWindow u b then .fault cFETCH
  else match k.findBlock b with
    | some e =>
      match e.data, e.failed with
      | some d, _ => .ready d
      | none, some cause => .fault cause
      | none, none => .wait s
    | none =>
      match k.translate b .fetch with
      | .hit l =>
        if k.blocks.length < 64 then .wait (s.setCore c { k with blocks := k.blocks ++ [{ addr := b, loc := l }] })
        else .wait s
      | .miss => .miss b
      | .refused => .fault cNOMAP

/-- R61: the 32 bits at parcel offset o; at offset 31 only the parcel. -/
def wordAt (d : List Byte) (o : Nat) : BitVec 32 :=
  BitVec.ofNat 32 (if o < 31 then parcelAt d o + 65536 * parcelAt d (o + 1) else parcelAt d o)

/-- R70: the offset of the signature marker, searching `fuel` instructions from offset o. DESIGN CHOICE (notes/assumptions/106.md):
the block is stepped through by instruction length from offset 0, so a parcel 0xFFFE that is the second half of a word is no
marker; the rule says only 'contains'. -/
def markerFrom (d : List Byte) (o fuel : Nat) : Option Nat :=
  match fuel with
  | 0 => none
  | fuel + 1 =>
    if o ≥ 32 then none
    else if parcelAt d o = 0xFFFE then some o
    else if parcelAt d o % 2 = 0 then markerFrom d (o + 1) fuel else markerFrom d (o + 2) fuel

/-- R70: the offset of the signature marker of a block. -/
def markerOf (d : List Byte) : Option Nat := markerFrom d 0 32

/-- R72: one bit of the CRC-32C. -/
def crcStep (x : Nat) : Nat := if x % 2 = 1 then (x / 2) ^^^ 0x82F63B78 else x / 2

/-- R72: one byte of the CRC-32C. -/
def crcByte (x : Nat) (b : Byte) : Nat :=
  crcStep (crcStep (crcStep (crcStep (crcStep (crcStep (crcStep (crcStep (x ^^^ b.toNat))))))))

/-- R72: the CRC-32C of a byte string. -/
def crc32c (d : List Byte) : Nat := (d.foldl crcByte 0xFFFFFFFF) ^^^ 0xFFFFFFFF

/-- R72: the signature bytes of the instruction at offset o of a block. -/
def pathBytes (d : List Byte) (o : Nat) : List Byte :=
  let p := parcelAt d o
  if p % 2 = 0 then
    [BitVec.ofNat 8 (0x40 ||| bits p 5 1), BitVec.ofNat 8 (bits p 10 6), BitVec.ofNat 8 (bits p 15 11), 0#8]
  else
    let w := (wordAt d o).toNat
    [BitVec.ofNat 8 (bits w 6 1), BitVec.ofNat 8 (bits w 12 7), BitVec.ofNat 8 (bits w 18 13), BitVec.ofNat 8 (bits w 24 19)]

/-- R70: whether offset o of a block lies behind its signature marker where no instruction may: at one of the two data
parcels, or at anything but an end parcel behind them (notes/assumptions/24.md). -/
def behindMarker (d : List Byte) (o : Nat) : Bool :=
  (markerOf d).any fun m => m < o && (o ≤ m + 2 || parcelAt d o != 0x003E)

/-- R61, R69, R70, R139: the instruction at offset o of a block; a 32-bit word that would run past offset 31 is none, nor is
what lies behind a signature marker. -/
def instrAt (d : List Byte) (o : Nat) : Instr :=
  if (o == 31 && parcelAt d o % 2 == 1) || behindMarker d o then .unassignedEncoding else decodeFibre (wordAt d o)

/-! ### Where a context is -/

/-- R138: the block that a context executes: its own, or its stream's at its position; none at the tail. A context that
resumes a block which has left the stream is before the stream's first. -/
def Core.currentBlock (k : Core) (c : Ctx) : Option Nat :=
  if c.bmode && c.pcOff == 0 then
    match c.handle with
    | some h => match k.skeins.toList.getD h none with
      | some sk => if c.streamPos < sk.basePos then some c.pcBlk else sk.stream[c.streamPos - sk.basePos]?
      | none => none
    | none => none
  else some c.pcBlk

/-! ### Retirement and the other outcomes -/

/-- R138: a context of core c after an instruction: streams advance, and a member at the tail of a closed stream
stops. -/
def State.settle (s : State) (c i : Nat) : State :=
  s.updCore c fun k => ((k.trimStreams.dropBlocks).stopAtTail i)

/-- R72, R371: the context with the bytes of the instruction at its program counter added to the path of its
signed block. -/
def Core.addPath (k : Core) (c : Ctx) : Ctx :=
  match c.signed, k.findBlock c.pcBlk with
  | some g, some { data := some d, .. } => { c with signed := some { g with path := g.path ++ pathBytes d c.pcOff } }
  | _, _ => c

/-- The instruction at the program counter of context i retires: the program counter moves on by its length in
parcels. -/
def State.retire (s : State) (c i len : Nat) : State :=
  let k := s.core c
  let x := k.ctx i
  (s.setCtx c i ((k.addPath x).advance len)).settle c i

/-- R131, R254: context i waits. -/
def State.startWait (s : State) (c i : Nat) (kind : WKind) (addr : Nat) (regs : List Nat) (inc req : Nat) : State :=
  let k := s.core c
  s.setCtx c i { k.ctx i with
    st := .waiting
    wait := { kind := kind, addr := addr, regs := regs, peerInc := inc, req := req, start := k.counter, limit := (k.ctx i).ext 7 } }

/-- R131, R337: context i misses the translation buffer. -/
def State.startMiss (s : State) (c i va : Nat) (a : AccKind) : State :=
  s.updCore c fun k => (k.updCtx i fun x => { x with st := .translating, missVa := va }).addMiss va a

/-- The state after an instruction of context i of core c that issued with an outcome. -/
def Issue.finish (r : Issue) (s : State) (c i len : Nat) : State :=
  match r with
  | .retire s' => s'.retire c i len
  | .moved s' => s'.settle c i
  | .stall s' => { s' with stalled := true }
  | .wait s' kind addr regs inc req => s'.startWait c i kind addr regs inc req
  | .miss va a => s.startMiss c i va a
  | .fault cause addr => s.takeFault c i cause addr

/-! ### The checks that every instruction shares -/

/-- R278, R169: the flaw recorded against a register that an instruction reads or writes. -/
def Ctx.flawOf (c : Ctx) (rs : List Nat) : Option Flaw :=
  c.flaws.find? fun f => f.regs.any fun r => rs.contains r

/-- R69 step 3 and the rules on presence: what stops an instruction that reads `rd` and writes `wr`, with `al` the
registers to align, before its own checks; none where nothing does. It also waits on presence for the HELD registers of
`on`, which it does not read (R277). DESIGN CHOICE (notes/assumptions/106.md): the bars of R71 and R372 hold in the run of a
signed block alone, not for a Fibre that entered the block behind offset 0, and a barred class comes before the checks of
the operands, which R69 does not rank against it. -/
def operandStop (s : State) (c : Nat) (x : Ctx) (cls : Cls) (rd wr on : List Nat) (al : List (Nat × Nat))
    (waitsPending : Bool) : Option Issue :=
  let all := rd ++ wr
  if x.signed.isSome && cls.barredSigned then some (.fault cILLINST 0)
  else if all.any (· ≥ x.nreg) then some (.fault cILLOPND 0)
  else if al.any fun p => p.1 % p.2 != 0 then some (.fault cILLOPND 0)
  else match x.flawOf all with
  | some f => some (.fault f.cause f.addr)
  | none =>
    if rd.any fun r => (x.r.cell r).bad then some (.fault cPOISON 0)
    else if waitsPending && all.any fun r => (x.r.cell r).pres == .pending then some (.stall s)
    else
      let held := (rd ++ on).filter fun r => (x.r.cell r).pres == .held
      match held with
      | r :: t => some (.wait s .presence (t.foldl min r) held 0 0)
      | [] =>
        if cls.heldByAcq && s.anyPending c x.acqHold then some (.stall s)
        else if cls.isWrite && s.anyPending c x.relHold then some (.stall s)
        else none

/-- An instruction of a Fibre: `len` parcels, class, registers read and written, those that it only waits on while HELD,
alignments, and its own effect. -/
def fibreOpOn (len : Nat) (cls : Cls) (rd wr on : List Nat) (al : List (Nat × Nat))
    (body : State → Nat → Nat → Ctx → Issue) (s : State) : Host.Outcome State Fault Refusal :=
  match s.cur with
  | .fibre c i =>
    let x := s.ctx c i
    match operandStop s c x cls rd wr on al true with
    | some r => .next (r.finish s c i len)
    | none => .next ((body s c i x).finish s c i len)
  | _ => .fault .notThisParty

/-- An instruction of a Fibre that waits on no register but those it reads. -/
def fibreOp (len : Nat) (cls : Cls) (rd wr : List Nat) (al : List (Nat × Nat))
    (body : State → Nat → Nat → Ctx → Issue) (s : State) : Host.Outcome State Fault Refusal :=
  fibreOpOn len cls rd wr [] al body s

/-- As `fibreOp`, for the instructions that do not wait for PENDING registers (`wrep`). -/
def fibreOpNoWait (len : Nat) (cls : Cls) (rd wr : List Nat)
    (body : State → Nat → Nat → Ctx → Issue) (s : State) : Host.Outcome State Fault Refusal :=
  match s.cur with
  | .fibre c i =>
    let x := s.ctx c i
    match operandStop s c x cls rd wr [] [] false with
    | some r => .next (r.finish s c i len)
    | none => .next ((body s c i x).finish s c i len)
  | _ => .fault .notThisParty

/-- An instruction that only computes on the registers, masks and flags of its own context. -/
def pureOp (len : Nat) (rd wr : List Nat) (al : List (Nat × Nat)) (f : Ctx → Ctx) (s : State) :
    Host.Outcome State Fault Refusal :=
  fibreOp len .plain rd wr al (fun s c i x => .retire (s.setCtx c i (f x))) s

/-- An instruction that computes on its own context and may fault. -/
def faultOp (len : Nat) (rd wr : List Nat) (al : List (Nat × Nat)) (f : Ctx → Except (Nat × Nat) Ctx) (s : State) :
    Host.Outcome State Fault Refusal :=
  fibreOp len .plain rd wr al (fun s c i x => match f x with
    | .ok x' => .retire (s.setCtx c i x')
    | .error (cause, addr) => .fault cause addr) s

/-! ### Jumps (R139) -/

/-- R139: transfer(b, o): waits for the copy of the block, which the buffer keeps for it, and takes it. -/
def transfer (s : State) (c i b o : Nat) : Issue :=
  let x := s.ctx c i
  match s.fetchBlock c x.lvl b with
  | .ready _ =>
    .moved (s.setCtx c i { (s.ctx c i) with
      pcBlk := b, pcOff := o, bmode := false, awaits := none
      slot0 := if x.slot0.valid && x.slot0.blk == b then {} else x.slot0
      slot1 := if x.slot1.valid && x.slot1.blk == b && !(x.slot0.valid && x.slot0.blk == b) then {} else x.slot1 })
  | .wait s' => .stall (s'.updCtx c i fun y => { y with awaits := some b })
  | .miss va => .miss va .fetch
  | .fault cause => .fault cause (b + 2 * o)

/-- R139: fetch_check(c) of a capability and its tag: the block and offset, or a fault. -/
def fetchCheck (k : Core) (u : Bool) (c : Nat) (tag : Bool) : Except (Nat × Nat) (Nat × Nat) :=
  let a := bits c 59 0
  if !tag then .error (cCAPTAG, a)
  else if !c.testBit 66 then .error (cCAPPERM, a)
  else if a % 2 = 1 then .error (cALIGN, a)
  else
    let (b0, t0, _) := capDecode c
    let b := a - a % 64
    if b < b0 || b + 64 > t0 then .error (cCAPBND, a)
    else if !k.inWindow u b then .error (cFETCH, a)
    else .ok (b, a % 64 / 2)

end Sys2Proof.Machine
end

