-- ==== Sys2Proof/Machine/Operands.lean ====
section
/-! DEFINITION. The operand forms of Fibre instructions: lanes, governing masks, pairs and groups (R13, R53, R56,
R57, R83). -/

namespace Sys2Proof.Machine

/-- R13: get_lane(v, t, i) for lanes of w bits. -/
def lane (v w i : Nat) : Nat := v / 2 ^ (w * i) % 2 ^ w

/-- The number whose lanes of w bits are given, lane 0 first; each is truncated (R13, put_lane). -/
def packLanes (w : Nat) : List Nat → Nat
  | [] => 0
  | x :: r => x % 2 ^ w + 2 ^ w * packLanes w r

/-- The number whose lanes of w bits are f 0 to f (n - 1). -/
def mkLanes (w n : Nat) (f : Nat → Nat) : Nat := packLanes w ((List.range n).map f)

/-- A lane read as a signed value (R13). -/
def slane (v w i : Nat) : Int := sext (lane v w i) w

/-- R83: the registers that a masked instruction reads: its sources, and its destination where a mask governs it. -/
def maskedReads (m : MReg) (srcs : List VReg) (d : VReg) : List Nat :=
  srcs.map (·.toNat) ++ (if m = 0#2 then [] else [d.toNat])

/-- R83: writes f i to each lane i of register d that the mask selects; other lanes keep their values; the tag is
cleared. -/
def Ctx.writeLanes (c : Ctx) (m : MReg) (d : VReg) (w n : Nat) (f : Nat → Nat) : Ctx :=
  let old := c.v d.toNat
  c.setV d.toNat (mkLanes w n fun i => if c.maskBit m i then f i else lane old w i)

/-- R83: a lane-wise instruction of two sources. -/
def lanes2 (m : MReg) (w : Width) (b a d : VReg) (f : Nat → Nat → Nat) : State → Host.Outcome State Fault Refusal :=
  pureOp 2 (maskedReads m [a, b] d) [d.toNat] [] fun c =>
    c.writeLanes m d w.bitsN w.lanes fun i =>
      f (lane (c.v a.toNat) w.bitsN i) (lane (c.v b.toNat) w.bitsN i)

/-- R83: a lane-wise instruction of one source. -/
def lanes1 (m : MReg) (w : Width) (a d : VReg) (f : Nat → Nat) : State → Host.Outcome State Fault Refusal :=
  pureOp 2 (maskedReads m [a] d) [d.toNat] [] fun c =>
    c.writeLanes m d w.bitsN w.lanes fun i => f (lane (c.v a.toNat) w.bitsN i)

/-- A lane operation of one signed or unsigned source pair that a parcel names: register d is source and
destination (R66). -/
def parcelLanes (w : Width) (s d : Nat) (f : Nat → Nat → Nat) : State → Host.Outcome State Fault Refusal :=
  pureOp 1 [d, s] [d] [] fun c =>
    c.setV d (mkLanes w.bitsN w.lanes fun i => f (lane (c.v d) w.bitsN i) (lane (c.v s) w.bitsN i))

/-- Writes a register pair from a 256-bit value (R5). -/
def Ctx.setPair (c : Ctx) (d x : Nat) : Ctx := (c.setV d (x % 2 ^ 128)).setV (d + 1) (x / 2 ^ 128)

/-- The two lanes of 64 bits of a register value. -/
def lo64 (v : Nat) : Nat := v % 2 ^ 64
def hi64 (v : Nat) : Nat := v / 2 ^ 64

/-- R197: payload bytes of n registers from r. -/
def Ctx.payload (c : Ctx) (r n : Nat) : List Byte :=
  (List.range n).flatMap fun j => bytesOf (c.v (r + j)) 16

end Sys2Proof.Machine
end

