-- ==== Sys2Proof/Machine/Flags.lean ====
section
/-! DEFINITION. Floating-point values, rounding and the sticky flags (R30 to R49, R105). -/

namespace Sys2Proof.Machine

/-! ### Formats (R30, R31) -/

/-- What a format does with its all-ones exponent. -/
inductive TopExp where
  | ieee | e4m3 | e2m1
  deriving DecidableEq, Repr

/-- R30: the parameters of a floating-point format. -/
structure Fmt where
  w : Nat
  e : Nat
  f : Nat
  bias : Nat
  top : TopExp := .ieee
  deriving DecidableEq, Repr

def fmt64 : Fmt := { w := 64, e := 11, f := 52, bias := 1023 }
def fmt32 : Fmt := { w := 32, e := 8, f := 23, bias := 127 }
def fmt16 : Fmt := { w := 16, e := 5, f := 10, bias := 15 }
def fmtB16 : Fmt := { w := 16, e := 8, f := 7, bias := 127 }
def fmtE5m2 : Fmt := { w := 8, e := 5, f := 2, bias := 15 }
def fmtE4m3 : Fmt := { w := 8, e := 4, f := 3, bias := 7, top := .e4m3 }
def fmtE2m1 : Fmt := { w := 4, e := 2, f := 1, bias := 1, top := .e2m1 }

/-- The format of an instruction type (R110). -/
def fmtOf : FpT → Fmt
  | .f16 => fmt16 | .bf16 => fmtB16 | .f32 => fmt32 | .f64 => fmt64
/-- The format of a special-function type (R124). -/
def spFmt : SpT → Fmt
  | .f16 => fmt16 | .bf16 => fmtB16 | .f32 => fmt32
/-- R105: acc_type(t). -/
def accFmt : FpT → Fmt
  | .f64 => fmt64 | _ => fmt32
/-- The lanes of a register. -/
def Fmt.lanes (t : Fmt) : Nat := 128 / t.w
/-- The code of the positive largest finite value (R31). -/
def Fmt.maxCode (t : Fmt) : Nat :=
  match t.top with
  | .ieee => (2 ^ t.e - 1) * 2 ^ t.f - 1
  | .e4m3 => 0x7E
  | .e2m1 => 7
/-- R31: the canonical NaN. -/
def Fmt.nanCode (t : Fmt) : Nat :=
  match t.top with
  | .ieee => (2 ^ t.e - 1) * 2 ^ t.f + 2 ^ (t.f - 1)
  | .e4m3 => 0x7F
  | .e2m1 => 0
/-- R31: +Inf. -/
def Fmt.infCode (t : Fmt) : Nat := (2 ^ t.e - 1) * 2 ^ t.f
/-- The sign bit of a code. -/
def Fmt.neg (t : Fmt) (x : Nat) : Bool := x.testBit (t.w - 1)
/-- The code without its sign bit. -/
def Fmt.mag (t : Fmt) (x : Nat) : Nat := x % 2 ^ (t.w - 1)
/-- A code with a sign. -/
def Fmt.signed (t : Fmt) (neg : Bool) (m : Nat) : Nat := if neg then 2 ^ (t.w - 1) + m else m
/-- Whether a code is a NaN. -/
def Fmt.isNan (t : Fmt) (x : Nat) : Bool :=
  match t.top with
  | .ieee => t.mag x > t.infCode
  | .e4m3 => t.mag x == 0x7F
  | .e2m1 => false
/-- R33: whether a code is a signalling NaN. -/
def Fmt.isSnan (t : Fmt) (x : Nat) : Bool := t.top == .ieee && t.isNan x && !x.testBit (t.f - 1)

/-! ### Exact values (R105) -/

/-- R105: an exact value. `fin neg m e more` is ±m·2^e, or, where `more`, a value whose magnitude lies strictly
between m·2^e and (m + 1)·2^e; then m has at least 100 bits. Zero is `fin neg 0 _ false`. -/
inductive FVal where
  | nan
  | inf (neg : Bool)
  | fin (neg : Bool) (m : Nat) (e : Int) (more : Bool)
  deriving DecidableEq, Repr

/-- A zero with a sign. -/
def FVal.zero (neg : Bool) : FVal := .fin neg 0 0 false
/-- Whether a value is a zero. -/
def FVal.isZero : FVal → Bool
  | .fin _ 0 _ false => true
  | _ => false
/-- Whether a value is NaN. -/
def FVal.isNan : FVal → Bool
  | .nan => true
  | _ => false
/-- Whether a value is infinite. -/
def FVal.isInf : FVal → Bool
  | .inf _ => true
  | _ => false
/-- The sign of a value. -/
def FVal.neg : FVal → Bool
  | .nan => false
  | .inf n => n
  | .fin n .. => n
/-- The value with its sign inverted. -/
def FVal.negate : FVal → FVal
  | .nan => .nan
  | .inf n => .inf !n
  | .fin n m e s => .fin (!n) m e s
/-- An integer as a value. -/
def FVal.ofInt (x : Int) : FVal := .fin (decide (x < 0)) x.natAbs 0 false

/-- R105: fval(b, t). -/
def fval (t : Fmt) (x : Nat) : FVal :=
  let m := t.mag x
  let ef := m / 2 ^ t.f
  let fr := m % 2 ^ t.f
  if t.isNan x then .nan
  else if t.top == .ieee && m == t.infCode then .inf (t.neg x)
  else if ef = 0 then .fin (t.neg x) fr (1 - (t.bias : Int) - t.f) false
  else .fin (t.neg x) (2 ^ t.f + fr) ((ef : Int) - t.bias - t.f) false

/-! ### Flags (R42) -/

def fNV : Nat := 16
def fDZ : Nat := 8
def fOF : Nat := 4
def fUF : Nat := 2
def fNX : Nat := 1

/-- NV where the condition holds. -/
def nvIf (b : Bool) : Nat := if b then fNV else 0

/-! ### Rounding (R37 to R39, R45) -/

/-- The greatest shift count that matters: beyond it a fraction is below every rounding step. -/
def shiftCap : Nat := 20000

/-- The quotient and remainder of m·2^e by 2^u, with the shift in bits. -/
def splitAt (m : Nat) (e u : Int) : Nat × Nat × Nat :=
  if u ≤ e then (m <<< (e - u).toNat, 0, 1)
  else
    let sh := min (u - e).toNat shiftCap
    (m >>> sh, m % 2 ^ sh, sh)

/-- Whether a magnitude q + rem/2^sh (and more) rounds up to q + 1; `draw` is the 16-bit draw of R45. -/
def roundsUp (rm : Rm) (neg : Bool) (q rem sh : Nat) (more : Bool) (draw : Nat) : Bool :=
  let half := 2 ^ (sh - 1)
  match rm with
  | .rne => rem > half || (rem == half && (more || q % 2 == 1))
  | .rna => rem ≥ half && (rem != 0)
  | .rtz => false
  | .rup => !neg && (rem != 0 || more)
  | .rdn => neg && (rem != 0 || more)
  | .sr => (rem * 65536) >>> sh + draw ≥ 65536

/-- R39: the result of an overflow. -/
def overflowCode (t : Fmt) (rm : Rm) (neg : Bool) : Nat :=
  let big := match rm with
    | .rtz => false
    | .rup => !neg
    | .rdn => neg
    | _ => true
  if big then (if t.top == .ieee then t.signed neg t.infCode else t.nanCode) else t.signed neg t.maxCode

/-- R38, R45: round_fp or round_sr of a finite nonzero value: the code and the flags. -/
def roundFin (t : Fmt) (rm : Rm) (sat : Bool) (draw : Nat) (neg : Bool) (m : Nat) (e : Int) (more : Bool) : Nat × Nat :=
  let p : Int := (bitLength m : Int) - 1 + e
  let u : Int := max p (1 - (t.bias : Int)) - t.f
  let (q, rem, sh) := splitAt m e u
  let up := roundsUp rm neg q rem sh more draw
  let q1 := if up then q + 1 else q
  let inexact := rem != 0 || more
  let code := (u + t.f + t.bias - 1).toNat * 2 ^ t.f + q1
  if code > t.maxCode then
    (if sat then t.signed neg t.maxCode else overflowCode t rm neg, fOF + fNX)
  else (t.signed neg code, if inexact then (if q1 < 2 ^ t.f then fUF + fNX else fNX) else 0)

/-- R34, R38: the result of rounding an infinity; E5M2 keeps it with `.sat` as without. E2M1 has none: no rule rounds one to it. -/
def roundInf (t : Fmt) (sat neg : Bool) : Nat × Nat :=
  match t.top with
  | .e4m3 => (if sat then t.signed neg t.maxCode else t.nanCode, fNV)
  | .ieee => (t.signed neg t.infCode, 0)
  | .e2m1 => (t.signed neg t.maxCode, 0)

/-- R105: fround, with `sat` as R34 and the draw of the element's index. -/
def fround (t : Fmt) (rm : Rm) (sat : Bool) (draw : Nat) (x : FVal) : Nat × Nat :=
  match x with
  | .nan => (t.nanCode, 0)
  | .inf n => roundInf t sat n
  | .fin n m e more => if m = 0 && !more then (t.signed n 0, 0) else roundFin t rm sat draw n m e more

/-! ### Exact operations -/

/-- The greatest exponent scale; larger magnitudes overflow every format (R111, scl). -/
def sclCap : Int := 8192

/-- A product: NaN for 0 · Inf (R47). -/
def fmulX (a b : FVal) : FVal :=
  match a, b with
  | .nan, _ => .nan
  | _, .nan => .nan
  | .inf n, b => if b.isZero then .nan else .inf (n != b.neg)
  | a, .inf n => if a.isZero then .nan else .inf (a.neg != n)
  | .fin n m e _, .fin k p f _ => .fin (n != k) (m * p) (e + f) false

/-- Whether a product is 0 · Inf. -/
def isZeroInf (a b : FVal) : Bool := (a.isZero && b.isInf) || (a.isInf && b.isZero)

/-- R47: the sum of finite terms, exactly. -/
def finSum (ts : List FVal) (rm : Rm) : FVal :=
  let e0 := ts.foldl (fun (acc : Int) t => match t with
    | .fin _ m e _ => if m = 0 then acc else min acc e
    | _ => acc) 0
  let total := ts.foldl (fun (acc : Int) t => match t with
    | .fin n m e _ => let x : Int := if m = 0 then 0 else (m <<< (e - e0).toNat : Nat); if n then acc - x else acc + x
    | _ => acc) 0
  if total = 0 then
    let allNeg := ts.all fun t => t.isZero && t.neg
    let allPos := ts.all fun t => t.isZero && !t.neg
    .zero (allNeg || (rm == .rdn && !allPos))
  else .fin (decide (total < 0)) total.natAbs e0 false

/-- Whether terms hold both infinities. -/
def bothInf (ts : List FVal) : Bool := ts.contains (.inf true) && ts.contains (.inf false)

/-- R47: an exact sum. Which NaN terms raise NV is said where the sum is used (notes/assumptions/25.md). -/
def fsumX (ts : List FVal) (rm : Rm) : FVal :=
  if ts.any FVal.isNan || bothInf ts then .nan
  else if ts.contains (.inf true) then .inf true
  else if ts.contains (.inf false) then .inf false
  else finSum ts rm

/-- The bits that a quotient or root keeps before its remainder. -/
def keepBits : Nat := 160

/-- R111: a / b and whether it raises DZ or NV. -/
def fdivX (a b : FVal) : FVal × Nat :=
  match a, b with
  | .nan, _ => (.nan, 0)
  | _, .nan => (.nan, 0)
  | .inf n, b => if b.isInf then (.nan, fNV) else (.inf (n != b.neg), 0)
  | a, .inf n => (.zero (a.neg != n), 0)
  | .fin n m e _, .fin k p f _ =>
    if p = 0 then (if m = 0 then (.nan, fNV) else (.inf (n != k), fDZ))
    else if m = 0 then (.zero (n != k), 0)
    else
      let s := keepBits + bitLength p
      let q := (m <<< s) / p
      (.fin (n != k) q (e - f - s) ((m <<< s) % p != 0), 0)

/-- The integer square root by bits: the root of the bits of x above bit 2·n, refined down to bit 0. -/
def isqrtGo (x : Nat) (n r : Nat) : Nat :=
  match n with
  | 0 => r
  | n + 1 =>
    let r1 := 2 * r + 1
    isqrtGo x n (if r1 * r1 ≤ x >>> (2 * n) then r1 else 2 * r)

/-- The integer square root. -/
def isqrt (x : Nat) : Nat := isqrtGo x ((bitLength x + 1) / 2) 0

/-- R111: √a and its NV. -/
def fsqrtX (a : FVal) : FVal × Nat :=
  match a with
  | .nan => (.nan, 0)
  | .inf n => if n then (.nan, fNV) else (.inf false, 0)
  | .fin n m e _ =>
    if m = 0 then (.zero n, 0)
    else if n then (.nan, fNV)
    else
      let s := 2 * keepBits + (if e % 2 = 0 then 0 else 1)
      let x := m <<< s
      let r := isqrt x
      (.fin false r ((e - s) / 2) (r * r != x), 0)

/-- R111: a · 2^n. -/
def fsclX (a : FVal) (n : Int) : FVal :=
  match a with
  | .fin k m e s => if m = 0 then a else .fin k m (e + max (-sclCap) (min n sclCap)) s
  | a => a

/-- R41, R111: a finite value rounded to an integer: its magnitude, and whether it differs. -/
def roundInt (rm : Rm) (neg : Bool) (m : Nat) (e : Int) : Nat × Bool :=
  let (q, rem, sh) := splitAt m e 0
  (if roundsUp rm neg q rem sh false 0 then q + 1 else q, rem != 0)

/-- R111: rnd(a, rm). -/
def frndX (a : FVal) (rm : Rm) : FVal :=
  match a with
  | .fin n m e _ => .fin n (roundInt rm n m e).1 0 false
  | a => a

/-! ### Order (R111, R117) -/

/-- The order of `min` and `max`, with −0 below +0. -/
def Fmt.ordKey (t : Fmt) (x : Nat) : Int := if t.neg x then -(t.mag x : Int) - 1 else t.mag x
/-- The order of `cmp`, with −0 equal to +0. -/
def Fmt.cmpKey (t : Fmt) (x : Nat) : Int := if t.neg x then -(t.mag x : Int) else t.mag x

/-- R111: min or max of two codes. -/
def Fmt.pick (t : Fmt) (isMax : Bool) (a b : Nat) : Nat :=
  if t.isNan a then (if t.isNan b then t.nanCode else b)
  else if t.isNan b then a
  else if isMax then (if t.ordKey a < t.ordKey b then b else a)
  else (if t.ordKey b < t.ordKey a then b else a)

/-! ### Writing floating-point results -/

/-- R43, R45: the 16-bit draw of element i for an SR instruction of the Fibre. -/
def Ctx.draw (c : Ctx) (rm : Rm) (i : Nat) : Nat :=
  if rm = .sr then mix32 (c.ext 6) i c.r.srseq.toNat % 65536 else 0

/-- R44: an SR instruction advances srseq as it retires. -/
def Ctx.bumpSr (c : Ctx) (rm : Rm) : Ctx :=
  if rm = .sr then { c with r := { c.r with srseq := c.r.srseq + 1#32 } } else c

/-- R42: raises the flags of lanes. -/
def Ctx.raiseAll (c : Ctx) (fs : List Nat) : Ctx := c.raise (fs.foldl (· ||| ·) 0)

/-- R107: writes the selected lanes of register d from codes and flags, raises the flags of those lanes and advances
srseq for `.sr`. -/
def Ctx.writeFp (c : Ctx) (m : MReg) (d : VReg) (w n : Nat) (rm : Rm) (f : Nat → Nat × Nat) : Ctx :=
  let old := c.v d.toNat
  let rs := (List.range n).map fun i => if c.maskBit m i then f i else (lane old w i, 0)
  ((c.setV d.toNat (packLanes w (rs.map (·.1)))).raiseAll (rs.map (·.2))).bumpSr rm

end Sys2Proof.Machine
end

