-- ==== Sys2Proof/Machine/Special.lean ====
section
/-! DEFINITION. The special functions (R124 to R126): their exact values in fixed point with 700 fraction bits, the
correctly rounded results of .f16 and .bf16, and the results within the bound of .f32
(notes/assumptions/7.md). -/

namespace Sys2Proof.Machine

/-- The fraction bits of the fixed-point values of this file. -/
def fxP : Nat := 700
/-- 1 in fixed point. -/
def fxOne : Int := 2 ^ fxP
/-- The product of two fixed-point values. -/
def fxMul (a b : Int) : Int := a * b / fxOne

/-- atan(1/n) by its series. -/
def fxAtanInv (n : Nat) : Int :=
  ((List.range 160).foldl (fun (acc : Int × Int) (k : Nat) =>
    let t := acc.2 / (2 * k + 1)
    (if k % 2 = 0 then acc.1 + t else acc.1 - t, acc.2 / (n * n))) (0, fxOne / n)).1
/-- π. -/
def fxPi : Int := 16 * fxAtanInv 5 - 4 * fxAtanInv 239
/-- 2·atanh(z). -/
def fxAtanh2 (z : Int) : Int :=
  let z2 := fxMul z z
  2 * ((List.range 230).foldl (fun (acc : Int × Int) (k : Nat) => (acc.1 + acc.2 / (2 * k + 1), fxMul acc.2 z2)) (0, z)).1
/-- ln 2. -/
def fxLn2 : Int := fxAtanh2 (fxOne / 3)
/-- e^r for 0 ≤ r < 1. -/
def fxExp (r : Int) : Int :=
  ((List.range 160).foldl (fun (acc : Int × Int) (k : Nat) => (acc.1 + acc.2, fxMul acc.2 r / (k + 1))) (0, fxOne)).1
/-- sin r and cos r for |r| < 1. -/
def fxSinCos (r : Int) : Int × Int :=
  let t := (List.range 160).foldl (fun (acc : (Int × Int) × Int) (k : Nat) =>
    let term := acc.2
    let s := if k % 4 < 2 then term else -term
    (if k % 2 = 0 then (acc.1.1, acc.1.2 + s) else (acc.1.1 + s, acc.1.2), fxMul term r / (k + 1))) ((0, 0), fxOne)
  t.1

/-- A finite value in fixed point; magnitudes are below 2^200. -/
def fxOf (neg : Bool) (m : Nat) (e : Int) : Int :=
  let x : Int := if 0 ≤ e + fxP then ((m <<< (e + fxP).toNat : Nat) : Int) else ((m >>> (-(e + fxP)).toNat : Nat) : Int)
  if neg then -x else x

/-- A fixed-point approximation as a value that is not exact; the low 16 bits are dropped. -/
def fxVal (x : Int) (scale : Int) : FVal := .fin (decide (x < 0)) (x.natAbs >>> 16) (scale + 16 - fxP) true

/-- A magnitude below every format's smallest subnormal. -/
def tiny (neg : Bool) : FVal := .fin neg (2 ^ 200) (-4000) true
/-- A magnitude above every format's largest finite value. -/
def huge (neg : Bool) : FVal := .fin neg (2 ^ 200) 4000 true

/-- The operations, in the order of R124. -/
inductive SpOp where
  | rcp | rsq | exp2 | log2 | sin | cos | tanh
  deriving DecidableEq, Repr

/-- m as 2^k, or none. -/
def pow2? (m : Nat) : Option Nat := if m != 0 && m == 2 ^ (bitLength m - 1) then some (bitLength m - 1) else none

/-- R126: 1/a. -/
def spRcp (n : Bool) (m : Nat) (e : Int) : FVal := (fdivX (.fin false 1 0 false) (.fin n m e false)).1

/-- R126: 1/√a for a > 0. -/
def spRsq (m : Nat) (e : Int) : FVal :=
  let (m1, e1) := if e % 2 = 0 then (m, e) else (2 * m, e - 1)
  let s := 2 * keepBits + bitLength m1
  let r := isqrt (2 ^ (2 * s) / m1)
  .fin false r (-(s : Int) - e1 / 2) (r * r * m1 != 2 ^ (2 * s))

/-- R126: 2^a for a finite and nonzero. -/
def spExp2 (n : Bool) (m : Nat) (e : Int) : FVal :=
  if 0 ≤ e && 64 ≤ bitLength m + e.toNat || (13 : Int) ≤ bitLength m + e then (if n then tiny false else huge false)
  else
    let x := fxOf n m e
    let k := x / fxOne
    let f := x - k * fxOne
    if f = 0 && (0 ≤ e || (m % 2 ^ (-e).toNat = 0)) then .fin false 1 k false
    else fxVal (fxExp (fxMul f fxLn2)) k

/-- R126: log2 a for a > 0. -/
def spLog2 (m : Nat) (e : Int) : FVal :=
  let p : Int := (bitLength m : Int) - 1
  match pow2? m with
  | some k => .ofInt (e + k)
  | none =>
    let x := fxOf false m (-p)
    let z := (x - fxOne) * fxOne / (x + fxOne)
    fxVal ((e + p) * fxOne + fxAtanh2 z * fxOne / fxLn2) 0

/-- sin and cos of a finite value. -/
def spSinCos (n : Bool) (m : Nat) (e : Int) : Int × Int :=
  let x := fxOf n m e
  let half := fxPi / 2
  let k := (x + half / 2) / half
  let (s, c) := fxSinCos (x - k * half)
  match (k % 4).toNat with
  | 0 => (s, c)
  | 1 => (c, -s)
  | 2 => (-s, -c)
  | _ => (-c, s)

/-- R126: tanh a. -/
def spTanh (n : Bool) (m : Nat) (e : Int) : FVal :=
  if (7 : Int) ≤ bitLength m + e then .fin n (2 ^ 200 - 1) (-200) true
  else
    let x := 2 * fxOf false m e
    let k := x / fxLn2
    let y := fxExp (x - k * fxLn2) * 2 ^ k.toNat
    let r := (y - fxOne) * fxOne / (y + fxOne)
    fxVal (if n then -r else r) 0

/-- R126: the exact value for an input that R125 does not list; sin and cos use π to 700 bits. -/
def spValue (op : SpOp) (n : Bool) (m : Nat) (e : Int) : FVal :=
  match op with
  | .rcp => spRcp n m e
  | .rsq => spRsq m e
  | .exp2 => spExp2 n m e
  | .log2 => spLog2 m e
  | .sin => fxVal (spSinCos n m e).1 0
  | .cos => fxVal (spSinCos n m e).2 0
  | .tanh => spTanh n m e

/-- R125: the listed results. -/
def spSpecial (op : SpOp) (a : FVal) : Option (FVal × Nat) :=
  let one : FVal := .ofInt 1
  match a with
  | .nan => some (.nan, 0)
  | .inf n => some <| match op with
    | .rcp => (.zero n, 0)
    | .rsq => if n then (.nan, fNV) else (.zero false, 0)
    | .exp2 => (if n then .zero false else .inf false, 0)
    | .log2 => if n then (.nan, fNV) else (.inf false, 0)
    | .sin => (.nan, fNV)
    | .cos => (.nan, fNV)
    | .tanh => (.fin n 1 0 false, 0)
  | .fin n m e _ =>
    if m = 0 then some <| match op with
      | .rcp => (.inf n, fDZ)
      | .rsq => (.inf n, fDZ)
      | .exp2 => (one, 0)
      | .log2 => (.inf true, fDZ)
      | .sin => (.zero n, 0)
      | .cos => (one, 0)
      | .tanh => (.zero n, 0)
    else if n && (op == .rsq || op == .log2) then some (.nan, fNV)
    else if op == .log2 && m == 2 ^ (bitLength m - 1) && e + (bitLength m - 1) == 0 then some (.zero false, 0)
    else none

/-! ### .f32: results within the bound -/

/-- The largest code, in the order of `ordKey`, at or below a value (when `up` is false), or the smallest at or above
it; the range ends at the largest finite values. -/
def boundKey (up : Bool) (x : FVal) : Int :=
  let y := fround fmt32 (if up then .rup else .rdn) false 0 x
  let c := if fmt32.mag y.1 ≥ fmt32.infCode then fmt32.signed (fmt32.neg y.1) fmt32.maxCode else y.1
  let k := fmt32.ordKey c
  -- −0 lies below +0 in the order and equals it in value
  if up && k == 0 then -1 else if !up && k == -1 then 0 else k

/-- A code from its place in the order. -/
def ofKey (k : Int) : Nat := if k < 0 then fmt32.signed true (-k - 1).toNat else k.toNat

/-- R126: ulp(y) as an exponent. -/
def ulpExp (m : Nat) (e : Int) : Int :=
  let p : Int := (bitLength m : Int) - 1 + e
  if p ≥ -126 then p - 23 else -149

/-- A value moved by ±k·2^b: cut toward zero to a multiple of 2^(b - 200), and `more` where that is not exact. -/
def shiftVal (x : FVal) (k : Int) (b : Int) : FVal :=
  match x with
  | .fin n m e more =>
    let (q, rem, _) := splitAt m e (b - 200)
    let v : Int := (if n then -(q : Int) else q) + k * 2 ^ 200
    let inexact := more || rem != 0
    let neg := if v = 0 then n else decide (v < 0)
    -- what was cut off points away from zero where the sign stays, and toward it where the sign has changed
    if inexact && neg != n then .fin neg (v.natAbs - 1) (b - 200) true else .fin neg v.natAbs (b - 200) inexact
  | x => x

/-- R126: the bound, as k and b of k·2^b. -/
def spBound (op : SpOp) (big : Bool) (m : Nat) (e : Int) : Int × Int :=
  let u := ulpExp m e
  match op with
  | .rcp => (1, u)
  | .rsq => (1, u)
  | .exp2 => (2, u)
  | .log2 => (2, u)
  | .tanh => (2, u)
  | .sin => if big then (1, -12) else if u + 1 ≥ -22 then (2, u) else (1, -22)
  | .cos => if big then (1, -12) else if u + 1 ≥ -22 then (2, u) else (1, -22)

/-- R126: whether an exact .f32 result raises no flag: the value is representable and one of the exact cases. -/
def spExact32 (op : SpOp) (y : FVal) : Option Nat :=
  match op with
  | .sin => none
  | .cos => none
  | .tanh => none
  | _ =>
    let r := fround fmt32 .rne false 0 y
    if r.2 = 0 then some r.1 else none

/-- R126: an .f32 result: the exact one, an overflow, or the value within the bound that the part returns for this
operand. `big` is |a| > 2^16, where a sine or cosine lies in [−1, 1]. -/
def sp32 (op : SpOp) (code : Nat) (big : Bool) (y : FVal) : Nat × Nat :=
  match y with
  | .fin n m e more =>
    match (if more then none else spExact32 op y) with
    | some c => (c, 0)
    | none =>
      if (fround fmt32 .rtz false 0 y).2 ≥ fOF then (fmt32.signed n fmt32.infCode, fOF + fNX)
      else
        let (k, b) := spBound op big m e
        let lo := boundKey true (shiftVal y (-k) b)
        let hi := boundKey false (shiftVal y k b)
        let one : Int := 0x3F800000
        let wave := big && (op == .sin || op == .cos)
        let lo := if wave then max lo (-one - 1) else lo
        let hi := if wave then min hi one else hi
        let c := ofKey (lo + (Config.specialF32 op.ctorIdx code % (hi - lo + 1).toNat : Nat))
        (c, if fmt32.mag c < 2 ^ 23 then fNX + fUF else fNX)
  | y => fround fmt32 .rne false 0 y

/-- R125, R126: a special function of one lane. -/
def spLane (op : SpOp) (t : SpT) (code : Nat) : Nat × Nat :=
  let f := spFmt t
  let a := fval f code
  match spSpecial op a with
  | some (y, fl) => ((fround f .rne false 0 y).1, fl ||| nvIf (f.isSnan code))
  | none =>
    match a with
    | .fin n m e _ =>
      let y := spValue op n m e
      if t == .f32 then sp32 op code ((bitLength m : Int) + e > 17 || ((bitLength m : Int) + e == 17 && (pow2? m).isNone)) y
      else fround f .rne false 0 y
    | _ => (f.nanCode, 0)

/-- R124: a special function. -/
def specialOp (op : SpOp) (t : SpT) (a d : VReg) : State → Host.Outcome State Fault Refusal :=
  pureOp 2 [a.toNat] [d.toNat] [] fun c =>
    c.writeFp 0#2 d (spFmt t).w (spFmt t).lanes .rne fun i => spLane op t (lane (c.v a.toNat) (spFmt t).w i)

def execRcp (t : SpT) (a d : VReg) : State → Host.Outcome State Fault Refusal := specialOp .rcp t a d
def execRsq (t : SpT) (a d : VReg) : State → Host.Outcome State Fault Refusal := specialOp .rsq t a d
def execExp2 (t : SpT) (a d : VReg) : State → Host.Outcome State Fault Refusal := specialOp .exp2 t a d
def execLog2 (t : SpT) (a d : VReg) : State → Host.Outcome State Fault Refusal := specialOp .log2 t a d
def execSin (t : SpT) (a d : VReg) : State → Host.Outcome State Fault Refusal := specialOp .sin t a d
def execCos (t : SpT) (a d : VReg) : State → Host.Outcome State Fault Refusal := specialOp .cos t a d
def execTanh (t : SpT) (a d : VReg) : State → Host.Outcome State Fault Refusal := specialOp .tanh t a d

end Sys2Proof.Machine
end

