-- ==== Sys2Proof/Machine/Float.lean ====
section
/-! DEFINITION. Floating-point arithmetic (R110 to R112), reductions and dot products (R113 to R116), compares
(R117, R118), conversions (R119 to R121), MX packing (R36, R122, R123) and the floating-point parcels (R66). -/

namespace Sys2Proof.Machine

/-! ### Arithmetic (R111) -/

/-- R111: one lane of a rounded operation of two sources: signalling NaNs raise NV, then the exact result and its own
flags, then one rounding. -/
def fpLane2 (t : FpT) (rm : Rm) (op : FVal → FVal → FVal × Nat) (draw a b : Nat) : Nat × Nat :=
  let f := fmtOf t
  let x := op (fval f a) (fval f b)
  let y := fround f rm false draw x.1
  (y.1, nvIf (f.isSnan a || f.isSnan b) ||| x.2 ||| y.2)

/-- R111: a rounded operation of two sources. -/
def fpOp2 (len : Nat) (t : FpT) (rm : Rm) (op : FVal → FVal → FVal × Nat) (b a d : VReg) :
    State → Host.Outcome State Fault Refusal :=
  pureOp len [a.toNat, b.toNat] [d.toNat] [] fun c =>
    let f := fmtOf t
    c.writeFp 0#2 d f.w f.lanes rm fun i =>
      fpLane2 t rm op (c.draw rm i) (lane (c.v a.toNat) f.w i) (lane (c.v b.toNat) f.w i)

/-- An operation of one source on lanes. -/
def fpOp1 (t : FpT) (rm : Rm) (a d : VReg) (f : Ctx → Nat → Nat → Nat × Nat) :
    State → Host.Outcome State Fault Refusal :=
  pureOp 2 [a.toNat] [d.toNat] [] fun c =>
    let g := fmtOf t
    c.writeFp 0#2 d g.w g.lanes rm fun i => f c i (lane (c.v a.toNat) g.w i)

/-- R111: a + b and its NV. -/
def addX (rm : Rm) (a b : FVal) : FVal × Nat := (fsumX [a, b] rm, nvIf (bothInf [a, b]))
/-- R111: a + (−b) and its NV. -/
def subX (rm : Rm) (a b : FVal) : FVal × Nat := addX rm a b.negate
/-- R111: a · b and its NV. -/
def mulX (a b : FVal) : FVal × Nat := (fmulX a b, nvIf (isZeroInf a b))

def execAddFp (r : Rm) (b a d : VReg) (t : FpT) : State → Host.Outcome State Fault Refusal := fpOp2 2 t r (addX r) b a d
def execSubFp (r : Rm) (b a d : VReg) (t : FpT) : State → Host.Outcome State Fault Refusal := fpOp2 2 t r (subX r) b a d
def execMulFp (r : Rm) (b a d : VReg) (t : FpT) : State → Host.Outcome State Fault Refusal := fpOp2 2 t r mulX b a d
def execDivFp (r : Rm) (b a d : VReg) (t : FpT) : State → Host.Outcome State Fault Refusal := fpOp2 2 t r fdivX b a d

/-- R111: `min` and `max` return one operand. -/
def pickOp (len : Nat) (isMax : Bool) (b a d : VReg) (t : FpT) : State → Host.Outcome State Fault Refusal :=
  pureOp len [a.toNat, b.toNat] [d.toNat] [] fun c =>
    let f := fmtOf t
    c.writeFp 0#2 d f.w f.lanes .rne fun i =>
      let x := lane (c.v a.toNat) f.w i
      let y := lane (c.v b.toNat) f.w i
      (f.pick isMax x y, nvIf (f.isSnan x || f.isSnan y))
def execMinFp (b a d : VReg) (t : FpT) : State → Host.Outcome State Fault Refusal := pickOp 2 false b a d t
def execMaxFp (b a d : VReg) (t : FpT) : State → Host.Outcome State Fault Refusal := pickOp 2 true b a d t

def execSqrt (r : Rm) (a d : VReg) (t : FpT) : State → Host.Outcome State Fault Refusal :=
  fpOp1 t r a d fun c i x =>
    let f := fmtOf t
    let y := fsqrtX (fval f x)
    let z := fround f r false (c.draw r i) y.1
    (z.1, nvIf (f.isSnan x) ||| y.2 ||| z.2)
def execAbsFp (a d : VReg) (t : FpT) : State → Host.Outcome State Fault Refusal :=
  fpOp1 t .rne a d fun _ _ x => (if (fmtOf t).isNan x then (fmtOf t).nanCode else (fmtOf t).mag x, 0)
def execNegFp (a d : VReg) (t : FpT) : State → Host.Outcome State Fault Refusal :=
  fpOp1 t .rne a d fun _ _ x =>
    let f := fmtOf t
    (if f.isNan x then f.nanCode else f.signed (!f.neg x) (f.mag x), 0)
/-- R111: `scl`; vs2 holds integers. -/
def execScl (r : Rm) (b a d : VReg) (t : FpT) : State → Host.Outcome State Fault Refusal :=
  pureOp 2 [a.toNat, b.toNat] [d.toNat] [] fun c =>
    let f := fmtOf t
    c.writeFp 0#2 d f.w f.lanes r fun i =>
      let x := lane (c.v a.toNat) f.w i
      let y := fround f r false (c.draw r i) (fsclX (fval f x) (slane (c.v b.toNat) f.w i))
      (y.1, nvIf (f.isSnan x) ||| y.2)
def execRnd (r : Rm) (a d : VReg) (t : FpT) : State → Host.Outcome State Fault Refusal :=
  fpOp1 t r a d fun _ _ x =>
    let f := fmtOf t
    ((fround f .rne false 0 (frndX (fval f x) r)).1, nvIf (f.isSnan x))
/-- R111: one lane of `frc`; where the difference is not representable it is rounded in rm
(notes/assumptions/26.md). -/
def frcLane (t : FpT) (r : Rm) (x : Nat) : Nat × Nat :=
  let f := fmtOf t
  let a := fval f x
  if a.isInf then (f.nanCode, fNV)
  else ((fround f r false 0 (fsumX [a, (frndX a r).negate] r)).1, nvIf (f.isSnan x))
def execFrc (r : Rm) (a d : VReg) (t : FpT) : State → Host.Outcome State Fault Refusal :=
  fpOp1 t r a d fun _ _ x => frcLane t r x

/-! ### Fused multiply (R112) -/

/-- R112: one lane of sp·a·b + sc·c; `np` and `nc` are true where sp and sc are −1. A sum that is NaN raises NV, as R47 says: it
contains a NaN, a product of 0 and Inf, or both infinities. -/
def fusedLane (t : FpT) (r : Rm) (np nc : Bool) (draw a b c : Nat) : Nat × Nat :=
  let f := fmtOf t
  let x := fval f a
  let y := fval f b
  let z := fval f c
  let p := fmulX x y
  let ts := [if np then p.negate else p, if nc then z.negate else z]
  let s := fsumX ts r
  let v := fround f r false draw s
  (v.1, nvIf s.isNan ||| v.2)

/-- R112: a fused instruction. -/
def fusedOp (len : Nat) (t : FpT) (m : MReg) (r : Rm) (np nc : Bool) (b a d : VReg) :
    State → Host.Outcome State Fault Refusal :=
  pureOp len [a.toNat, b.toNat, d.toNat] [d.toNat] [] fun c =>
    let f := fmtOf t
    c.writeFp m d f.w f.lanes r fun i =>
      fusedLane t r np nc (c.draw r i) (lane (c.v a.toNat) f.w i) (lane (c.v b.toNat) f.w i) (lane (c.v d.toNat) f.w i)

def execFma (m : MReg) (r : Rm) (b a d : VReg) (t : FpT) : State → Host.Outcome State Fault Refusal := fusedOp 2 t m r false false b a d
def execFms (m : MReg) (r : Rm) (b a d : VReg) (t : FpT) : State → Host.Outcome State Fault Refusal := fusedOp 2 t m r false true b a d
def execFnma (m : MReg) (r : Rm) (b a d : VReg) (t : FpT) : State → Host.Outcome State Fault Refusal := fusedOp 2 t m r true false b a d
def execFnms (m : MReg) (r : Rm) (b a d : VReg) (t : FpT) : State → Host.Outcome State Fault Refusal := fusedOp 2 t m r true true b a d

/-! ### Reductions and dot products -/

/-- R48, R114: one level of the tree: pairs of codes are added and rounded; `n` is the number of the level's first
rounding. Returns the level and the flags raised. -/
def rsumLevel (t : FpT) (r : Rm) (draw : Nat → Nat) (n : Nat) : List Nat → List Nat × Nat
  | a :: b :: rest =>
    let f := fmtOf t
    let x := addX r (fval f a) (fval f b)
    let y := fround f r false (draw n) x.1
    let z := rsumLevel t r draw (n + 1) rest
    (y.1 :: z.1, x.2 ||| y.2 ||| z.2)
  | l => (l, 0)

/-- R48, R114: the tree, level by level. -/
def rsumTree (t : FpT) (r : Rm) (draw : Nat → Nat) (n : Nat) (l : List Nat) : Nat → Nat × Nat
  | 0 => (l.headD 0, 0)
  | fuel + 1 =>
    if l.length ≤ 1 then (l.headD 0, 0)
    else
      let x := rsumLevel t r draw n l
      let y := rsumTree t r draw (n + x.1.length) x.1 fuel
      (y.1, x.2 ||| y.2)

/-- R114: `rsum`. -/
def execRsum (m : MReg) (t : FpT) (r : Rm) (a d : VReg) : State → Host.Outcome State Fault Refusal :=
  pureOp 2 [a.toNat] [d.toNat] [] fun c =>
    let f := fmtOf t
    let l := (List.range f.lanes).map fun i => if c.maskBit m i then lane (c.v a.toNat) f.w i else 2 ^ (f.w - 1)
    let nv := nvIf (l.any f.isSnan)
    let y := rsumTree t r (c.draw r ·) 0 l 4
    (((c.setV d.toNat y.1).raise (nv ||| y.2))).bumpSr r

/-- R115: `rmax`. -/
def execRmax (m : MReg) (t : FpT) (a d : VReg) : State → Host.Outcome State Fault Refusal :=
  pureOp 2 [a.toNat] [d.toNat] [] fun c =>
    let f := fmtOf t
    let l := ((List.range f.lanes).filter fun i => c.maskBit m i).map fun i => lane (c.v a.toNat) f.w i
    let y := match l with
      | [] => f.signed true f.infCode
      | x :: r => r.foldl (f.pick true) (if f.isNan x then f.nanCode else x)
    (c.setV d.toNat y).raise (nvIf (l.any f.isSnan))

/-- R116: `dot` and `dot.sr`. A sum that is NaN raises NV (R47). -/
def dotOp (m : MReg) (t : FpT) (r : Rm) (b a d : VReg) : State → Host.Outcome State Fault Refusal :=
  pureOp 2 [a.toNat, b.toNat, d.toNat] [d.toNat] [] fun c =>
    let f := fmtOf t
    let u := accFmt t
    let c0 := lane (c.v d.toNat) u.w 0
    let sel := (List.range f.lanes).filter fun i => c.maskBit m i
    let xs := sel.map fun i => lane (c.v a.toNat) f.w i
    let ys := sel.map fun i => lane (c.v b.toNat) f.w i
    let ps := xs.zip ys
    let ts := fval u c0 :: ps.map fun p => fmulX (fval f p.1) (fval f p.2)
    let x := fsumX ts r
    let y := fround u r false (c.draw r 0) x
    ((c.setV d.toNat (setBits (c.v d.toNat) 0 u.w y.1)).raise (nvIf x.isNan ||| y.2)).bumpSr r
def execDot (m : MReg) (t : FpT) (b a d : VReg) : State → Host.Outcome State Fault Refusal := dotOp m t .rne b a d
def execDotSr (m : MReg) (t : FpT) (b a d : VReg) : State → Host.Outcome State Fault Refusal := dotOp m t .sr b a d

/-! ### Compare and classify -/

/-- R117: the condition on two codes, and the flags. -/
def fcond (t : FpT) (cc : FCond) (a b : Nat) : Bool × Nat :=
  let f := fmtOf t
  let un := f.isNan a || f.isNan b
  let s := nvIf (f.isSnan a || f.isSnan b)
  match cc with
  | .eq => (!un && f.cmpKey a == f.cmpKey b, s)
  | .ne => (un || f.cmpKey a != f.cmpKey b, s)
  | .lt => (!un && decide (f.cmpKey a < f.cmpKey b), nvIf un)
  | .le => (!un && decide (f.cmpKey a ≤ f.cmpKey b), nvIf un)
  | .un => (un, s)

/-- R117: `cmp` of floats. -/
def execCmpFp (m : MReg) (t : FpT) (cc : FCond) (b a : VReg) (k : MReg) : State → Host.Outcome State Fault Refusal :=
  pureOp 2 [a.toNat, b.toNat] [] [] fun c =>
    let f := fmtOf t
    let rs := (List.range f.lanes).map fun i =>
      if c.maskBit m i then fcond t cc (lane (c.v a.toNat) f.w i) (lane (c.v b.toNat) f.w i) else (false, 0)
    (c.setMask k (packLanes 1 (rs.map fun x => b01 x.1))).raiseAll (rs.map (·.2))

/-- R118: the class of a code. -/
def fclass (t : FpT) (x : Nat) : Nat :=
  let f := fmtOf t
  let m := f.mag x
  let n := f.neg x
  if f.isSnan x then 2 ^ 8
  else if f.isNan x then 2 ^ 9
  else if m = f.infCode then (if n then 1 else 2 ^ 7)
  else if m = 0 then (if n then 2 ^ 3 else 2 ^ 4)
  else if m < 2 ^ f.f then (if n then 2 ^ 2 else 2 ^ 5)
  else (if n then 2 else 2 ^ 6)
def execClassify (m : MReg) (t : FpT) (a d : VReg) : State → Host.Outcome State Fault Refusal :=
  pureOp 2 (maskedReads m [a] d) [d.toNat] [] fun c =>
    let f := fmtOf t
    c.writeLanes m d f.w f.lanes fun i => fclass t (lane (c.v a.toNat) f.w i)

/-! ### Conversion (R120, R121) -/

/-- The floating-point format of a type code; none for an integer. -/
def tyFmt : TyCode → Option Fmt
  | .f16 => some fmt16 | .bf16 => some fmtB16 | .f32 => some fmt32 | .f64 => some fmt64
  | .e4m3 => some fmtE4m3 | .e5m2 => some fmtE5m2
  | .z8 => none | .s8 => none | .z16 => none | .s16 => none | .z32 => none | .s32 => none | .z64 => none | .s64 => none

/-- R29: an integer clamped to a type. -/
def satTo (t : TyCode) (x : Int) : Int := if t.isSigned then satS x t.bitsN else satZ x t.bitsN
/-- The integer that an element of an integer type holds. -/
def intOf (t : TyCode) (x : Nat) : Int := if t.isSigned then sext x t.bitsN else x % 2 ^ t.bitsN

/-- R41: a float to an integer type. -/
def floatToInt (t : TyCode) (rm : Rm) (v : FVal) : Nat × Nat :=
  match v with
  | .nan => (0, fNV)
  | .inf n => (trunc (satTo t (if n then -(2 ^ 64) else 2 ^ 64)) t.bitsN, fNV)
  | .fin n m e _ =>
    -- a magnitude of 2^70 or more is out of every range
    if (71 : Int) ≤ bitLength m + e then (trunc (satTo t (if n then -(2 ^ 70) else 2 ^ 70)) t.bitsN, fNV)
    else
      let (q, inex) := roundInt rm n m e
      let y : Int := if n then -q else q
      if satTo t y ≠ y then (trunc (satTo t y) t.bitsN, fNV) else (trunc y t.bitsN, if inex then fNX else 0)

/-- R121: one element of a conversion. -/
def cvtElem (t s : TyCode) (rm : Rm) (sat : Bool) (draw x : Nat) : Nat × Nat :=
  match tyFmt s, tyFmt t with
  | some fs, some ft =>
    let y := fround ft rm sat draw (fval fs x)
    (y.1, nvIf (fs.isSnan x) ||| y.2)
  | some fs, none =>
    let y := floatToInt t rm (fval fs x)
    (y.1, y.2)
  | none, some ft => fround ft rm sat draw (FVal.ofInt (intOf s x))
  | none, none => (trunc (satTo t (intOf s x)) t.bitsN, 0)

/-- The bits of n registers from r as one number. -/
def Ctx.vgroup (c : Ctx) (r n : Nat) : Nat := packLanes 128 ((List.range n).map fun j => c.v (r + j))
/-- Writes n registers from r. -/
def Ctx.setGroup (c : Ctx) (r n x : Nat) : Ctx :=
  (List.range n).foldl (fun c j => c.setV (r + j) (lane x 128 j)) c
/-- The registers r to r + n - 1. -/
def regSpan (r n : Nat) : List Nat := (List.range n).map (r + ·)

/-- R120, R121: `cvt`. -/
def cvtOp (t : TyCode) (r : Rm) (s : TyCode) (sat : Bool) (a d : VReg) : State → Host.Outcome State Fault Refusal :=
  let wn := min t.bitsN s.bitsN
  let ns := s.bitsN / wn
  let nt := t.bitsN / wn
  pureOp 2 (regSpan a.toNat ns) (regSpan d.toNat nt) [(a.toNat, ns), (d.toNat, nt)] fun c =>
    let x := c.vgroup a.toNat ns
    let rs := (List.range (128 / wn)).map fun i => cvtElem t s r sat (c.draw r i) (lane x s.bitsN i)
    ((c.setGroup d.toNat nt (packLanes t.bitsN (rs.map (·.1)))).raiseAll (rs.map (·.2))).bumpSr r
def execCvt (t : TyCode) (r : Rm) (s : TyCode) (a d : VReg) : State → Host.Outcome State Fault Refusal := cvtOp t r s false a d
def execCvtSat (t : TyCode) (r : Rm) (s : TyCode) (a d : VReg) : State → Host.Outcome State Fault Refusal := cvtOp t r s true a d

/-! ### Microscaling (R36, R122, R123) -/

/-- floor(log2 |x|) of a finite nonzero value. -/
def FVal.log2 : FVal → Int
  | .fin _ m e _ => (bitLength m : Int) - 1 + e
  | _ => 0

/-- R36: the scale code, element codes and flags of 32 values; `nv` where one is a signalling NaN. -/
def packMx (el : Fmt) (xs : List FVal) (nv : Bool) : Nat × List Nat × Nat :=
  if xs.any fun x => x.isNan || x.isInf then (255, xs.map fun _ => 0, nvIf nv)
  else
    let nz := xs.filter fun x => !x.isZero
    match nz with
    | [] => (127, xs.map fun x => el.signed x.neg 0, 0)
    | x0 :: rest =>
      let emax : Int := if el.top == .e4m3 then 8 else 2
      let big := rest.foldl (fun acc x => max acc x.log2) x0.log2
      let c : Nat := (max 0 (min 254 (big - emax + 127))).toNat
      let es := xs.map fun x =>
        let r := fround el .rne true 0 (fsclX x (127 - (c : Int)))
        if r.2 ≥ fOF then (r.1, fNX) else r
      (c, es.map (·.1), es.foldl (fun acc r => acc ||| r.2) 0)

/-- R122: `mxpk`: format .mx4 where f, source .bf16 where s. -/
def execMxpk (f s : Bool) (a d : VReg) : State → Host.Outcome State Fault Refusal :=
  let nd := if f then 1 else 2
  pureOp 2 (regSpan a.toNat 4) (regSpan d.toNat nd) [(a.toNat, 4), (d.toNat, nd)] fun c =>
    let ft := if s then fmtB16 else fmt16
    let x := c.vgroup a.toNat 4
    let codes := (List.range 32).map fun i => lane x 16 i
    let r := packMx (if f then fmtE2m1 else fmtE4m3) (codes.map (fval ft)) (codes.any ft.isSnan)
    (((c.setGroup d.toNat nd (packLanes (if f then 4 else 8) r.2.1)).setExt 5 r.1)).raise r.2.2

/-- R35: the value of an element of a block with scale code c. -/
def mxValue (el : Fmt) (c q : Nat) : FVal := if c = 255 then .nan else fsclX (fval el q) ((c : Int) - 127)

/-- R123: `mxup`: destination .bf16 where t, format .mx4 where f. -/
def execMxup (t : Bool) (r : Rm) (f : Bool) (a d : VReg) : State → Host.Outcome State Fault Refusal :=
  let na := if f then 1 else 2
  pureOp 2 (regSpan a.toNat na) (regSpan d.toNat 4) [(a.toNat, na), (d.toNat, 4)] fun c =>
    let ft := if t then fmtB16 else fmt16
    let x := c.vgroup a.toNat na
    let rs := (List.range 32).map fun i =>
      fround ft r false (c.draw r i)
        (mxValue (if f then fmtE2m1 else fmtE4m3) (c.ext 5 % 256) (lane x (if f then 4 else 8) i))
    ((c.setGroup d.toNat 4 (packLanes 16 (rs.map (·.1)))).raiseAll (rs.map (·.2))).bumpSr r

/-! ### Parcels (R66) -/

/-- A five-bit register number. -/
def reg5 (r : BitVec 5) : VReg := r.setWidth 6

def execParcelAddF32 (s d : BitVec 5) : State → Host.Outcome State Fault Refusal := fpOp2 1 .f32 .rne (addX .rne) (reg5 s) (reg5 d) (reg5 d)
def execParcelSubF32 (s d : BitVec 5) : State → Host.Outcome State Fault Refusal := fpOp2 1 .f32 .rne (subX .rne) (reg5 s) (reg5 d) (reg5 d)
def execParcelMulF32 (s d : BitVec 5) : State → Host.Outcome State Fault Refusal := fpOp2 1 .f32 .rne mulX (reg5 s) (reg5 d) (reg5 d)
def execParcelFmaF32 (s d : BitVec 5) : State → Host.Outcome State Fault Refusal :=
  fusedOp 1 .f32 0#2 .rne false false (reg5 s + 1#6) (reg5 s) (reg5 d)
def execParcelMaxF32 (s d : BitVec 5) : State → Host.Outcome State Fault Refusal := pickOp 1 true (reg5 s) (reg5 d) (reg5 d) .f32
def execParcelAddF16 (s d : BitVec 5) : State → Host.Outcome State Fault Refusal := fpOp2 1 .f16 .rne (addX .rne) (reg5 s) (reg5 d) (reg5 d)
def execParcelMulF16 (s d : BitVec 5) : State → Host.Outcome State Fault Refusal := fpOp2 1 .f16 .rne mulX (reg5 s) (reg5 d) (reg5 d)
def execParcelFmaF16 (s d : BitVec 5) : State → Host.Outcome State Fault Refusal :=
  fusedOp 1 .f16 0#2 .rne false false (reg5 s + 1#6) (reg5 s) (reg5 d)

end Sys2Proof.Machine
end

