-- ==== Sys2Proof/Machine/Walk.lean ====
section
/-! DEFINITION. Table walks (R333 to R335), and the translation of another package's accesses by the gateways of pod ports
(R332, R336). -/

namespace Sys2Proof.Machine

/-! ### Walks (R333 to R335) -/

/-- R333: fields of a translation root. -/
def rootBase (r : Nat) : Nat := bits r 123 64
def rootEpoch (r : Nat) : Nat := bits r 63 32
def rootLay (r : Nat) : Nat := bits r 1 0
def rootHb (r : Nat) : Nat := bits r 151 147
def rootLsz (r : Nat) : Nat := bits r 153 152
def rootCount (r : Nat) : Nat := bits r 191 160
def rootVbase (r : Nat) : Nat := bits r 255 192

/-- A descriptor at a PMA; none where it does not exist or is poisoned. -/
def State.readDesc (s : State) (a : Nat) : Option Nat :=
  if pmaOk a 16 && !s.mem.poisoned 32 a 16 then some (s.mem.num a 16) else none
/-- A page's descriptor with its vtag, as the translation buffer holds it. -/
def withVtag (d va : Nat) : Nat := setBits d 16 43 (va / 2 ^ pageShift (descSize d) * 2 ^ pageShift (descSize d) / 2 ^ 16)

/-- R334: the index of a radix level, and the size code of a leaf there. -/
def radixIndex (va lv : Nat) : Nat :=
  match lv with
  | 0 => bits va 58 48 | 1 => bits va 47 39 | 2 => bits va 38 30 | 3 => bits va 29 21 | _ => bits va 20 16
def radixLeaf (lv z : Nat) : Bool := (lv == 2 && z == 2) || (lv == 3 && z == 1) || (lv == 4 && z == 0)
/-- R334: the radix walk from a table of a level: the leaf and where it lies. -/
def State.walkRadix (s : State) (va table lv : Nat) : Nat → Option (Nat × Nat)
  | 0 => none
  | fuel + 1 =>
    let a := table + 16 * radixIndex va lv
    match s.readDesc a with
    | none => none
    | some d =>
      if !descOk false d then none
      else if descType d = 2 then (if radixLeaf lv (descSize d) then some (withVtag d va, a) else none)
      else if descType d = 1 then s.walkRadix va (descTarget d * 2 ^ 8) (lv + 1) fuel
      else none
/-- R334, R335: one probe sequence of the hashed walk; `error` where a read fails or an entry breaks R332. -/
def State.probe (s : State) (r va z slot j : Nat) : Nat → Except Unit (Option (Nat × Nat))
  | 0 => .ok none
  | fuel + 1 =>
    let a := rootBase r + 16 * ((slot + j) % 2 ^ rootHb r)
    match s.readDesc a with
    | none => .error ()
    | some d =>
      if !descOk true d then .error ()
      else if descType d = 0 then .ok none
      else if descSize d = z && descMatches d va then .ok (some (d, a))
      else s.probe r va z slot (j + 1) fuel
/-- R334: the hashed walk over the size codes. -/
def State.walkHashed (s : State) (r tenant va : Nat) : List Nat → Option (Nat × Nat)
  | [] => none
  | z :: rest =>
    let vp := va / 2 ^ pageShift z
    let slot := mix32 (tenant + vp / 2 ^ 32 * 2 ^ 16) (vp % 2 ^ 32) z % 2 ^ rootHb r
    match s.probe r va z slot 0 8 with
    | .error _ => none
    | .ok (some x) => some x
    | .ok none => s.walkHashed r tenant va rest
/-- R334: the walk of a virtual address under a tenant's root. -/
def State.walk (s : State) (tenant va : Nat) : Option (Nat × Nat) :=
  match tabGet s.agent.roots tenant with
  | none => none
  | some r =>
    match rootLay r with
    | 0 => s.walkRadix va (rootBase r) 0 5
    | 1 => s.walkHashed r tenant va [0, 1, 2]
    | 2 =>
      let i := (va - rootVbase r) / 2 ^ pageShift (rootLsz r)
      if va < rootVbase r || i ≥ rootCount r then none
      else
        let a := rootBase r + 16 * i
        match s.readDesc a with
        | some d => if descOk false d && descType d == 2 && descSize d == rootLsz r then some (withVtag d va, a) else none
        | none => none
    | _ => none

/-! ### The gateways of pod ports (R332, R336) -/

/-- The gateway of an I/O die. -/
def Pod.gate (p : Pod) (io : Nat) : Gate := if io = 0 then p.tlb0 else p.tlb1
def State.setGate (s : State) (io : Nat) (g : Gate) : State :=
  { s with pod := if io = 0 then { s.pod with tlb0 := g } else { s.pod with tlb1 := g } }
/-- What a gateway's translation comes to. -/
inductive GateHit where
  | hit (l : Loc)
  /-- R339: the page is in transition. -/
  | hold
  | refused
  deriving DecidableEq, Repr
/-- R332, R336: the gateway of an I/O die translates an access of another package for a tenant through its buffer; a miss is
walked, and filled at once where the leaf allows the access (notes/assumptions/98.md). The leaf must be of this package. -/
def State.gateTranslate (s : State) (io tenant va : Nat) (a : AccKind) : State × GateHit :=
  let g := s.pod.gate io
  let mine : Tlb := { entries := g.entries.filterMap fun e => if e.2.1 = tenant then some (e.1, e.2.2) else none }
  let use (d : Nat) : GateHit := if leafAllows d a && descKind d ≤ 1 then .hit (leafLoc d va) else .refused
  match mine.find va with
  | some d => (s, use d)
  | none =>
    match s.walk tenant va with
    | none => (s, .refused)
    | some (d, _) =>
      if descSt d = 2 || descSt d = 3 then (s, .hold)
      else if use d == .refused then (s, .refused)
      else (s.setGate io { g with entries := tabSet g.entries g.next (tenant, d), next := (g.next + 1) % 128 }, use d)

end Sys2Proof.Machine
end

