-- ==== Sys2Proof/Machine/Home.lean ====
section
/-! DEFINITION. What happens at the homes of memory (R257 to R259, R265, R283, R286 to R288, R341, R368): reads, writes,
atomics, reservations, full/empty words and join counters. The home of another package's memory is outside: its
answer comes with the event (notes/assumptions/12.md). -/

namespace Sys2Proof.Machine

/-! ### Requests by id -/

def State.findReq (s : State) (id : Nat) : Option Req := s.reqs.find? fun r => r.id == id
/-- The stage of a request. -/
def State.stageOf (s : State) (id : Nat) : Option Stage := (s.findReq id).map (·.stage)
/-- Changes a request. -/
def State.updReq (s : State) (id : Nat) (f : Req → Req) : State :=
  { s with reqs := s.reqs.map fun r => if r.id = id then f r else r }
/-- Sets the stage of a request. -/
def State.setStage (s : State) (id : Nat) (st : Stage) : State := s.updReq id fun r => { r with stage := st }
/-- Removes a request. -/
def State.dropReq (s : State) (id : Nat) : State := { s with reqs := s.reqs.filter fun r => r.id != id }

/-- Whether nothing of a request is awaited any more. -/
def Req.settled (r : Req) : Bool :=
  match r.stage with
  | .answered .. => true
  | .poisoned => true
  | .fenced => true
  | .performed => true
  | .crossed .. => true
  | .untranslated => true
  | _ => r.cancelAns == some false

/-- R280: whether a request is on its way to its home: posted, or held back by nothing any more. -/
def State.onWay (s : State) (r : Req) : Bool :=
  match r.stage with
  | .posted => true
  | .held => !s.anyPending r.core r.after
  | _ => false

/-! ### Memory at its home -/

/-- R286: clears the reservations of a word that n bytes at l touch. -/
def State.clearResvs (s : State) (l : Loc) (n : Nat) : State :=
  { s with resvs := s.resvs.filter fun r => !r.loc.overlaps r.n l n }

/-- R273, R274, R286: a write of bytes at a location, with tags or none to clear them. -/
def State.storeAt (s : State) (l : Loc) (d : List Byte) (ts : Option (List Bool)) : State :=
  let s1 := s.clearResvs l d.length
  let bump (s : State) (m : Mem) (g a : Nat) : State := (List.range (m.partials g a d.length)).foldl (fun s _ => s.count 4) s
  match l with
  | .spad c o => bump (s1.updCore c fun k => { k with spad := k.spad.store 16 true o d ts }) (s1.core c).spad 16 o
  | .pma a => bump { s1 with mem := s1.mem.store 32 true a d ts } s1.mem 32 a
  | .host a => bump { s1 with host := s1.host.store 64 false a d none } s1.host 64 a
  | _ => s1

/-- Changes the state bits of the memory of a location. -/
def State.setFull (s : State) (l : Loc) (on : Bool) : State :=
  match l with
  | .spad c o => s.updCore c fun k => { k with spad := { k.spad with full := setPut k.spad.full (o / 8) on } }
  | .pma a => { s with mem := { s.mem with full := setPut s.mem.full (a / 8) on } }
  | _ => s
/-- R257: whether a full/empty word is FULL. -/
def State.isFull (s : State) (l : Loc) : Bool :=
  match s.memOf l with
  | some (m, _, _, o) => setHas m.full (o / 8)
  | none => false
/-- Whether a read of n bytes meets poison. -/
def State.poisonedAt (s : State) (l : Loc) (n : Nat) : Bool :=
  match s.memOf l with
  | some (m, g, _, o) => m.poisoned g o n
  | none => false
/-- The bytes of n bytes. -/
def State.readAt (s : State) (l : Loc) (n : Nat) : List Byte :=
  match s.memOf l with
  | some (m, _, _, o) => m.read o n
  | none => List.replicate n 0#8
/-- R273: the tags of n bytes of whole granules; none for fewer than 16 bytes. -/
def State.tagsAt (s : State) (l : Loc) (n : Nat) : List Bool :=
  match s.memOf l with
  | some (m, _, true, o) => if n % 16 = 0 then m.getTags o (n / 16) else []
  | _ => []

/-- R340, R341: whether a write to a location would meet a page that is being moved. -/
def State.frozen (s : State) (l : Loc) : Bool :=
  match l with
  | .pma a => s.agent.moves.any fun m => m.src ≤ a && a < m.src + m.size
  | _ => false

/-- Whether a home is inside the package. -/
def Loc.isLocal : Loc → Bool
  | .peer .. => false
  | .scaleOut .. => false
  | _ => true

/-- R341, R368: a refusal by the home of a request before it does anything. -/
def State.homeGate (s : State) (r : Req) (changes : Bool) : Option Stage :=
  if !s.ownerOk (s.core r.core).tenant r.loc then some .fenced
  else if changes && s.frozen r.loc then some (.busy (s.core r.core).counter)
  else none

/-- R92: whether 16 bytes may be a tagged value: type 0b00, and bits [63:60] zero. -/
def capForm (d : List Byte) : Bool := let v := ofBytes d; v / 2 ^ 126 == 0 && v / 2 ^ 60 % 16 == 0
/-- R92, R273: the tags of the whole granules of some bytes, as the event's `m` gives them; no other value is tagged. -/
def evGranuleTags (s : State) (d : List Byte) : List Bool :=
  (List.range (d.length / 16)).map fun g => s.ev.m.testBit g && capForm ((d.drop (16 * g)).take 16)
/-- R271, R273: the tags that another package's memory answers with, as the event's operands give them; host memory keeps
none. -/
def outsideTags (s : State) (l : Loc) (d : List Byte) : List Bool :=
  match l with
  | .peer .. => if d.length % 16 = 0 then evGranuleTags s d else []
  | _ => []
/-- The answer of a home outside the package, as the event's operands give it. -/
def outsideStage (s : State) (r : Req) (size : Nat) (answers : Bool) : Stage :=
  match s.ev.n with
  | 0 =>
    let d := (s.ev.data ++ List.replicate size 0#8).take size
    if answers then .answered d (outsideTags s r.loc d) else .performed
  | 1 => .poisoned
  | 2 => .busy (s.core r.core).counter
  | 3 => .waiter
  | 4 => .waitFull (s.core r.core).counter
  | _ => .fenced

/-! ### Accesses of other packages (R332, R336, R368) -/

/-- The least core number of a request of another package: 2^20 plus the requester's core address. -/
def outsideCore : Nat := 2 ^ 20
/-- R273: the answer of a request of another package leaves the package, a read's with its tags; a waiter stays. -/
def State.leaveOutside (s : State) (id : Nat) : State :=
  match s.findReq id with
  | none => s
  | some r =>
    let out (code : Nat) (d : List Byte) (ts : List Bool := []) : State :=
      let s1 := s.dropReq id
      { s1 with pod := { s1.pod with memOut := (r.core - outsideCore, code, d, ts) :: s1.pod.memOut } }
    match r.stage with
    | .answered d ts => out 0 d ts
    | .performed => out 0 []
    | .poisoned => out 1 []
    | .busy _ => out 2 []
    | .waitFull _ => out 4 []
    | .fenced => out 5 []
    | .crossed cont n => out 6 (bytesOf cont 8 ++ bytesOf n 8)
    | _ => s
/-- R332, R336, R341, R368: an access of another package, as the event's operands give it: requester `k`, address `n`, tenant
and I/O die in `codes`. A gateway translates it, and its home performs or refuses it; it waits at the gateway while its page
is in transition. `frozen` says whether a page that is being moved refuses it, and `who` tells harts, whose reservations a
home keeps, from the rest. -/
def State.outsideAccess (s : State) (op : ReqOp) (who : Owner) (changes : Bool) (act : State → Req → State) : State :=
  let tenant := s.ev.codes.getD 0 0
  let va := s.ev.n
  match s.gateTranslate (s.ev.codes.getD 1 0 % 2) tenant va op.kind with
  | (s1, .hold) => s1
  | (s1, .refused) => { s1 with pod := { s1.pod with memOut := (s.ev.k, 5, [], []) :: s1.pod.memOut } }
  | (s1, .hit l) =>
    let plain := match op with | .read .. => true | .write .. => true | _ => false
    let r : Req := { id := s1.nextReq, core := outsideCore + s.ev.k, who := who, op := op, va := va, loc := l, insn := s1.nextReq
                     isWrite := op.kind == .write, entry := false }
    let s2 := s1.addReq r
    let s3 := if !s.ownerOk tenant l || !(plain || l.hasState) then s2.setStage r.id .fenced
      else if changes && s.frozen l then s2.setStage r.id (.busy 0)
      else act s2 r
    s3.leaveOutside r.id

/-- R282: the operation of a code, as `AtOp` lists them. -/
def AtOp.ofCode (n : Nat) : AtOp :=
  ([AtOp.add, .min, .max, .minz, .maxz, .and, .or, .xor, .swp, .cas, .addf]).getD n .add
/-- The tags of a write of another package: of whole granules, as the event's `m` gives them. -/
def evTags (s : State) : Option (List Bool) :=
  if s.ev.data.length % 16 = 0 then some (evGranuleTags s s.ev.data) else none
/-- Goes on with an access of another package where the event carries one (its `codes` are not empty), else with the
request of this package that it names. -/
def orOutside (op : State → ReqOp) (who : State → Owner) (changes : Bool) (act : State → Req → State)
    (own : State → Host.Outcome State Fault Refusal) (s : State) : Host.Outcome State Fault Refusal :=
  if s.ev.codes.isEmpty then own s else .next (s.outsideAccess (op s) (who s) changes act)
/-- The party of an access of another package that is no hart. -/
def someFibre (_ : State) : Owner := .fibre 32 0
/-- The hart of an access of another package. -/
def someHart (s : State) : Owner := .hart s.ev.b
/-- Operand number i of an access of another package, after its tenant and I/O die. -/
def evOp (s : State) (i : Nat) : Nat := s.ev.codes.getD (2 + i) 0

/-! ### Events at a home -/

/-- One event at a home on the request that it names: nothing where the request is not on its way or is of another
kind. -/
def homeEvent (kind : ReqOp → Bool) (changes answers : Bool) (act : State → Req → State) (s : State) :
    Host.Outcome State Fault Refusal :=
  match s.findReq s.ev.k with
  | none => .next s
  | some r =>
    if !(kind r.op && (s.onWay r || (!r.loc.isLocal && r.stage == .waiter))) then .next s
    else if !r.loc.isLocal then .next (s.setStage r.id (outsideStage s r r.op.size answers))
    else match s.homeGate r changes with
      | some st => .next (s.setStage r.id st)
      | none => .next (act s r)

/-- R278, R288: a read at its home. -/
def State.homeRead (s : State) (r : Req) : State :=
  if s.poisonedAt r.loc r.op.size then s.setStage r.id .poisoned
  else s.setStage r.id (.answered (s.readAt r.loc r.op.size) (s.tagsAt r.loc r.op.size))
def execMemoryReadRequest : State → Host.Outcome State Fault Refusal :=
  orOutside (fun s => .read (evOp s 0) 0 0 []) someFibre false State.homeRead <| homeEvent (fun o => match o with | .read .. => true | .hartRead .. => true | _ => false) false true State.homeRead

/-- R288: a write at its home. -/
def State.homeWrite (s : State) (r : Req) : State :=
  match r.op with
  | .write d ts => (s.storeAt r.loc d ts).setStage r.id .performed
  | _ => s
def execMemoryWriteRequest : State → Host.Outcome State Fault Refusal :=
  orOutside (fun s => .write s.ev.data (evTags s)) someFibre true State.homeWrite <| homeEvent (fun o => match o with | .write .. => true | _ => false) true false State.homeWrite

/-! ### Atomics (R283) and reservations (R286) -/

/-- R283: the value that an atomic leaves, or none where it does not write. -/
def atomicNew (op : AtOp) (n x c old : Nat) : Option Nat :=
  let w := 8 * n
  match op with
  | .add => some ((old + x) % 2 ^ w)
  | .min => some (if sext x w < sext old w then x else old)
  | .max => some (if sext old w < sext x w then x else old)
  | .minz => some (min old x)
  | .maxz => some (max old x)
  | .and => some (old &&& x)
  | .or => some (old ||| x)
  | .xor => some (old ^^^ x)
  | .swp => some x
  | .cas => if old = c then some x else none
  | .addf => some (fpLane2 (if n = 4 then .f32 else .f64) .rne (addX .rne) 0 old x).1
/-- R283: the flags of `addf`. -/
def atomicFlags (op : AtOp) (n x old : Nat) : Nat :=
  match op with
  | .addf => (fpLane2 (if n = 4 then .f32 else .f64) .rne (addX .rne) 0 old x).2
  | _ => 0

/-- R286: whether a hart holds a reservation of the word. -/
def State.reserved (s : State) (core : Nat) (u : Bool) (l : Loc) (n : Nat) : Bool :=
  s.resvs.any fun r => r.core == core && r.urgent == u && r.loc == l && r.n == n
/-- R286: clears a hart's reservation. -/
def State.dropResv (s : State) (core : Nat) (u : Bool) : State :=
  { s with resvs := s.resvs.filter fun r => !(r.core == core && r.urgent == u) }

/-- R283, R286: an atomic or `sc` at its home. -/
def State.homeAtomic (s : State) (r : Req) : State :=
  match r.op with
  | .atomic op n x c =>
    if s.poisonedAt r.loc n then s.setStage r.id .poisoned
    else
      let d := s.readAt r.loc n
      let s1 := match atomicNew op n x c (ofBytes d) with
        | some v => s.storeAt r.loc (bytesOf v n) none
        | none => s
      s1.setStage r.id (.answered d [])
  | .sc n x =>
    match r.who with
    | .hart u =>
      if s.reserved r.core u r.loc n then
        if s.poisonedAt r.loc n then s.setStage r.id .poisoned
        else (((s.storeAt r.loc (bytesOf x n) none).dropResv r.core u)).setStage r.id (.answered [0#8] [])
      else s.setStage r.id (.answered [1#8] [])
    | _ => s
  | _ => s
def execAtomicRequest : State → Host.Outcome State Fault Refusal :=
  orOutside (fun s => if evOp s 0 = 11 then .sc (evOp s 1) (evOp s 2)
    else .atomic (AtOp.ofCode (evOp s 0)) (evOp s 1) (evOp s 2) (evOp s 3)) someHart true State.homeAtomic <| homeEvent (fun o => match o with | .atomic .. => true | .sc .. => true | _ => false) true true State.homeAtomic

/-- R286: `lr` at its home. -/
def State.homeLr (s : State) (r : Req) : State :=
  match r.op, r.who with
  | .lr n, .hart u =>
    let s1 := s.dropResv r.core u
    if s.poisonedAt r.loc n then s1.setStage r.id .poisoned
    else
      let v : Resv := { core := r.core, urgent := u, loc := r.loc, n := n }
      ({ s1 with resvs := s1.resvs ++ [v] } : State).setStage r.id (.answered (s.readAt r.loc n) [])
  | _, _ => s
/-- R286: the hart's `lr` of another package's memory ends the reservation that it holds here. -/
def State.lrLeaves (s : State) : State :=
  match s.findReq s.ev.k with
  | some r =>
    match r.op, r.who with
    | .lr _, .hart u => if !r.loc.isLocal && s.onWay r then s.dropResv r.core u else s
    | _, _ => s
  | none => s
def execLrReservation : State → Host.Outcome State Fault Refusal :=
  orOutside (fun s => .lr (evOp s 0)) someHart false State.homeLr fun s =>
    homeEvent (fun o => match o with | .lr .. => true | _ => false) false true State.homeLr s.lrLeaves

/-! ### Waiter tables (R259) -/

/-- The waiter table of a location: of a core, of a stack or I/O die, or none outside. -/
def Loc.table : Loc → Option (Nat × Nat)
  | .spad c _ => some (0, c)
  | .pma a => some (1, a / 2 ^ 55)
  | _ => none
/-- Waiters of a table. -/
def State.waiters (s : State) (l : Loc) : Nat :=
  (s.reqs.filter fun r => r.stage == .waiter && r.loc.table == l.table).length
/-- R259: queues a waiter at its home, or refuses it. -/
def State.queueWaiter (s : State) (r : Req) : State :=
  if r.loc.isSpad || s.waiters r.loc < 4096 then
    -- the queue of a home is the order of its waiters among the requests
    let s1 := s.dropReq r.id
    { s1 with reqs := s1.reqs ++ [{ r with stage := .waiter }] }
  else s.setStage r.id (.waitFull (s.core r.core).counter)
/-- The waiters of a location, oldest first. -/
def State.waitersAt (s : State) (l : Loc) : List Req := s.reqs.filter fun r => r.stage == .waiter && r.loc == l

/-! ### Full/empty words (R258) -/

/-- R258: serve readers: queued loads are answered oldest first up to the first `ldfe`, which empties the word. -/
def serveReaders (s : State) (l : Loc) (v : List Byte) : List Req → State
  | [] => s
  | r :: rest =>
    match r.op with
    | .fe .ldff _ => serveReaders (s.setStage r.id (.answered v [])) l v rest
    | .fe .ldfe _ => (s.setStage r.id (.answered v [])).setFull l false
    | _ => serveReaders s l v rest
/-- R258: a store form fills the word and serves readers. -/
def State.fillWord (s : State) (r : Req) (x : Nat) : State :=
  let s1 := ((s.storeAt r.loc (bytesOf x 8) none).setFull r.loc true).setStage r.id (.answered [] [])
  serveReaders s1 r.loc (bytesOf x 8) (s1.waitersAt r.loc)
/-- R258: serve a writer: the oldest queued `stef` is performed as if it had just arrived. -/
def State.serveWriter (s : State) (l : Loc) : State :=
  match (s.waitersAt l).find? fun r => match r.op with | .fe .stef _ => true | _ => false with
  | some r => match r.op with
    | .fe _ x => s.fillWord r x
    | _ => s
  | none => s

/-- R258: a full/empty operation arrives at its home. -/
def State.homeFe (s : State) (r : Req) : State :=
  if s.poisonedAt r.loc 8 then s.setStage r.id .poisoned
  else
    let v := s.readAt r.loc 8
    let full := s.isFull r.loc
    match r.op with
    | .fe .ldff _ => if full then s.setStage r.id (.answered v []) else s.queueWaiter r
    | .fe .ldfe _ =>
      if full then ((s.setFull r.loc false).setStage r.id (.answered v [])).serveWriter r.loc else s.queueWaiter r
    | .fe .stef x => if full then s.queueWaiter r else s.fillWord r x
    | .fe .stff x =>
      if full then (s.storeAt r.loc (bytesOf x 8) none).setStage r.id (.answered [] []) else s.fillWord r x
    | .fe .feclr _ =>
      if full then ((s.setFull r.loc false).setStage r.id (.answered [] [])).serveWriter r.loc
      else s.setStage r.id (.answered [] [])
    | _ => s

/-- A full/empty event. -/
def feEvent (op : FeOp) : State → Host.Outcome State Fault Refusal :=
  orOutside (fun s => .fe op (evOp s 0)) someFibre true State.homeFe <| homeEvent (fun o => match o with | .fe p _ => p == op | _ => false) true true State.homeFe
def execHomeLdfe : State → Host.Outcome State Fault Refusal := feEvent .ldfe
def execHomeLdff : State → Host.Outcome State Fault Refusal := feEvent .ldff
def execHomeStef : State → Host.Outcome State Fault Refusal := feEvent .stef
def execHomeStff : State → Host.Outcome State Fault Refusal := feEvent .stff
def execHomeFeclr : State → Host.Outcome State Fault Refusal := feEvent .feclr

/-! ### Join counters (R265) -/

/-- Whether a request is a `jc.wait`. -/
def ReqOp.isJcWait : ReqOp → Bool
  | .jc .wait _ _ => true
  | _ => false
/-- R265: answers every waiter of a counter; those of a full/empty word in it stay (R258). -/
def State.answerWaiters (s : State) (l : Loc) : State :=
  { s with reqs := s.reqs.map fun r =>
      if r.stage == .waiter && r.loc == l && r.op.isJcWait then { r with stage := .answered [] [] } else r }

/-- R265: an update leaves a count; `old` above 0 and the new one at or below 0 crosses. -/
def State.jcUpdate (s : State) (r : Req) (old new : Int) (cont : Nat) : State :=
  let s1 := s.storeAt r.loc (bytesOf (trunc new 64) 8) none
  if old > 0 && new ≤ 0 then (s1.answerWaiters r.loc).setStage r.id (.crossed cont (trunc new 64))
  else s1.setStage r.id (.answered [] [])

/-- R265: a join-counter operation arrives at its home. -/
def State.homeJc (s : State) (r : Req) : State :=
  if s.poisonedAt r.loc 16 then s.setStage r.id .poisoned
  else
    let d := ofBytes (s.readAt r.loc 16)
    let old := sext (d % 2 ^ 64) 64
    match r.op with
    | .jc .init x cont =>
      let s1 := s.storeAt r.loc (bytesOf x 8 ++ bytesOf cont 8) none
      (if sext x 64 ≤ 0 then s1.answerWaiters r.loc else s1).setStage r.id (.answered [] [])
    | .jc .add x _ => s.jcUpdate r old (satS (old + sext x 64) 64) (d / 2 ^ 64)
    | .jc .dec x _ => s.jcUpdate r old (satS (old - sext x 64) 64) (d / 2 ^ 64)
    | .jc .wait _ _ => if old ≤ 0 then s.setStage r.id (.answered [] []) else s.queueWaiter r
    | _ => s

/-- A join-counter event; an addition outside the package crosses where the event's `b` says so, with cont and count in
its data. -/
def jcEvent (op : JcOp) : State → Host.Outcome State Fault Refusal :=
  orOutside (fun s => .jc op (evOp s 0) (evOp s 1)) someFibre true State.homeJc fun s =>
  let base := homeEvent (fun o => match o with | .jc p _ _ => p == op | _ => false) true true State.homeJc s
  match s.findReq s.ev.k, base with
  | some r, .next s1 =>
    if !r.loc.isLocal && s.ev.b && s.ev.n == 0 && s1 != s && (op == .add || op == .dec) then
      .next (s1.setStage r.id (.crossed (ofBytes (s.ev.data.take 8)) (ofBytes ((s.ev.data.drop 8).take 8))))
    else base
  | _, _ => base
def execHomeJcInit : State → Host.Outcome State Fault Refusal := jcEvent .init
def execHomeJcAdd : State → Host.Outcome State Fault Refusal := jcEvent .add
def execHomeJcDec : State → Host.Outcome State Fault Refusal := jcEvent .dec
def execHomeJcWait : State → Host.Outcome State Fault Refusal := jcEvent .wait

/-! ### Cancels (R255) -/

/-- R255, R258: a cancel of another package reaches the home of its waiter: REMOVED, or SERVED where it waits no more. -/
def State.cancelOutside (s : State) (r : Req) : State :=
  let code := if r.stage == .waiter then 7 else 8
  let s1 := if r.stage == .waiter then s.dropReq r.id else s
  { s1 with pod := { s1.pod with memOut := (r.core - outsideCore, code, [], []) :: s1.pod.memOut } }
/-- R255, R258: a cancel reaches the home: the waiter is removed, or it was already served. A home outside the package
answers SERVED for a waiter where the event's `b` says so. -/
def execHomeCancel : State → Host.Outcome State Fault Refusal := fun s =>
  match s.findReq s.ev.k with
  | some r =>
    if r.core ≥ outsideCore then .next (s.cancelOutside r)
    else if r.cancel && r.cancelAns.isNone then
      let served := match r.stage with
        | .waiter => !r.loc.isLocal && s.ev.b
        | .waitFull _ => false
        | .busy _ => false
        | _ => true
      match r.stage with
      -- an operation that has not arrived yet comes first
      | .posted => .next s
      | .held => .next s
      | st =>
        .next (s.updReq r.id fun r => { r with cancelAns := some served, stage := if served then st else .performed })
    else .next s
  | none => .next s

/-! ### Retries (R259, R341) -/

/-- R259, R340, R341: a request that was refused at a count t of its core is translated afresh, and sent again 256 cycles
later. -/
def State.sendAgain (s : State) (r : Req) (t : Nat) : State :=
  if r.cancelAns.isSome || t + 256 > (s.core r.core).counter then s
  else if r.loc.isSpad then s.setStage r.id .posted
  else match (s.core r.core).translate r.va r.op.kind with
    | .hit l => s.updReq r.id fun r => { r with loc := l, stage := .posted, asked := false }
    | .miss => (s.updReq r.id fun r => { r with asked := true }).updCore r.core fun k => k.addMiss r.va r.op.kind
    | .refused => s.setStage r.id .fenced
/-- R259: the same request is sent again 256 cycles after a WAITFULL refusal arrives. -/
def execWaitfullRetry : State → Host.Outcome State Fault Refusal := fun s =>
  match s.findReq s.ev.k with
  | some r => match r.stage with
    | .waitFull t => .next (s.sendAgain r t)
    | _ => .next s
  | none => .next s

/-- R341: 256 cycles after a BUSY refusal arrives, the operation is translated afresh and sent again. -/
def execBusyRetry : State → Host.Outcome State Fault Refusal := fun s =>
  match s.findReq s.ev.k with
  | some r => match r.stage with
    | .busy t => .next (s.sendAgain r t)
    | _ => .next s
  | none => .next s

end Sys2Proof.Machine
end

