-- ==== Sys2Proof/Machine/Memory.lean ====
section
/-! DEFINITION. Fibre loads, stores, fences, gathers, scatters, broadcast loads and atomics (R276 to R283), and what
happens when their answers land (R275, R277, R278, R283, R368). -/

namespace Sys2Proof.Machine

/-- R64: the bytes of a size. -/
def Size.bytes : Sys2Proof.Size → Nat
  | .b8 => 1 | .b16 => 2 | .b32 => 4 | .b64 => 8 | .b128 => 16 | .b256 => 32
/-- R277: the registers of a size from d. -/
def sizeRegs (z : Sys2Proof.Size) (d : Nat) : List Nat := if z = .b256 then [d, d + 1] else [d]
/-- R53: the pair of a .256 begins at an even register. -/
def sizeAlign (z : Sys2Proof.Size) (d : Nat) : List (Nat × Nat) := if z = .b256 then [(d, 2)] else []

/-- R269: the effective address. -/
def effAddr (c : Ctx) (b : VReg) (off : Int) : Nat := trunc ((c.vlo b.toNat : Int) + off) 64

/-- R272: access_check of context x of core c on the capability in register b. -/
def checkAccess (s : State) (c : Nat) (x : Ctx) (b : VReg) (a n al pm : Nat) (kind : AccKind) : Check :=
  accessCheck (s.core c) c (x.v b.toNat) (x.vtag b.toNat) a n al pm kind

/-- R272, R277: access_check, with the pieces of the access; its second half where it crosses pages is checked after. -/
def checkSpan (s : State) (c : Nat) (x : Ctx) (b : VReg) (a n al pm : Nat) (kind : AccKind) : Except Check Span :=
  match checkAccess s c x b a n al pm kind with
  | .ok l =>
    if crossesPage a n then
      match secondHalf (s.core c) c (x.v b.toNat) a kind with
      | .ok l2 => .ok (l.span 16 0 ++ l2.span 16 16)
      | e => .error e
    else .ok (l.span n 0)
  | e => .error e

/-- R275: whether an access may be posted: no overlap with an earlier one, and a free entry where it leaves the core. -/
def mayPost (s : State) (c i : Nat) (ps : Span) (isWrite : Bool) : Bool :=
  (ps.all fun p => !s.overlapsOutstanding c i p.2.2 p.2.1 isWrite) && ((ps.all fun p => p.2.2.isSpad) || s.entriesFree c 1)

/-- A failed check as an outcome. -/
def Check.issue (k : Check) (kind : AccKind) : Issue :=
  match k with
  | .fault cause a => .fault cause a
  | .miss va => .miss va kind
  | .ok _ => .fault cILLINST 0

/-- R55: a load that names registers as destination makes them PENDING, and does nothing else to them. -/
def Ctx.pend (c : Ctx) (rs : List Nat) : Ctx := rs.foldl (fun c r => c.setPres r .pending) c

/-! ### Held stores of a signed block (R371) -/

/-- The bytes of held stores under n bytes at l, by position from p0, later stores last. -/
def heldBytes (hs : List HeldStore) (l : Loc) (n p0 : Nat) : List Host.Cell :=
  hs.flatMap fun h => h.ps.flatMap fun q =>
    (List.range n).filterMap fun j =>
      (((List.range q.2.1).find? fun k => q.2.2.plus k == l.plus j).map fun k => (p0 + j, h.data.getD (q.1 + k) 0#8))
/-- The tags that held stores give the granules under n bytes at l: a whole granule its register's tag, else 0. -/
def heldTags (hs : List HeldStore) (l : Loc) (n p0 : Nat) : List (Nat × Bool) :=
  if n % 16 ≠ 0 then []
  else hs.flatMap fun h => h.ps.flatMap fun q =>
    (List.range (n / 16)).filterMap fun g =>
      if q.2.2.overlaps q.2.1 (l.plus (16 * g)) 16 then
        some (p0 / 16 + g, ((List.range (q.2.1 / 16)).find? fun k => q.2.2.plus (16 * k) == l.plus (16 * g)).elim false
          fun k => h.tags.getD (q.1 / 16 + k) false)
      else none

/-- R371: gives the requests of a load in a signed block the held bytes that they read, and lists them in the block's
run. -/
def overlayReqs (x : Ctx) (rs : List Req) : List Req :=
  match x.signed with
  | none => rs
  | some g => rs.map fun r => match r.op with
    | .read n _ first lanes =>
      { r with
        overlay := (first :: lanes).flatMap fun p => heldBytes g.stores r.loc n p
        overTags := heldTags g.stores r.loc n first }
    | _ => r
/-- R373: the context with the ids of loads issued in the run of its signed block. -/
def Ctx.noteLoads (c : Ctx) (ids : List Nat) : Ctx :=
  { c with signed := c.signed.map fun g => { g with loads := g.loads ++ ids } }

/-- Posts the requests of a load and makes its registers PENDING. -/
def postLoad (s : State) (c i : Nat) (x : Ctx) (rs : List Req) (acq : Bool) : State :=
  let ids := nextIds s rs.length
  let x1 := x.noteLoads ids
  let x2 := { x1 with acqHold := s.stillPending c x.acqHold ++ (if acq then ids else []) }
  (s.setCtx c i x2).addReqs (overlayReqs x rs)

/-! ### Plain and ordered loads and stores (R277, R280) -/

/-- R277, R280: a load; `ord` and `scope` are the codes of R64. -/
def loadOp (len : Nat) (off : Int) (z : Sys2Proof.Size) (b d : VReg) (acq : Bool) (ord scope : Nat) :
    State → Host.Outcome State Fault Refusal :=
  let n := Size.bytes z
  let rs := sizeRegs z d.toNat
  fibreOpOn len .load [b.toNat] rs rs (sizeAlign z d.toNat) fun s c i x =>
    match checkSpan s c x b (effAddr x b (off * n)) n (min n 16) permR .read with
    | .error k => k.issue .read
    | .ok ps =>
      if !mayPost s c i ps false then .stall s
      else .retire (postLoad s c i (x.pend rs) (loadReqs s c i (effAddr x b (off * n)) ps n d.toNat ord scope) acq)

/-- R371: the context with a held store, which takes one entry of the block store buffer. -/
def Ctx.holdStore (c : Ctx) (h : HeldStore) : Ctx :=
  { c with signed := c.signed.map fun g => { g with stores := g.stores ++ [{ h with fenced := g.fenced }] } }
/-- R71: whether a signed block has no room for n more stores. -/
def Ctx.storesFull (c : Ctx) (n : Nat) : Bool := c.signed.any fun g => g.stores.length + n > 8

/-- R277, R280: a store. DESIGN CHOICE (notes/assumptions/106.md): the ninth store of a signed block faults after the checks of its
operands. -/
def storeOp (len : Nat) (off : Int) (z : Sys2Proof.Size) (b d : VReg) (rel : Bool) (ord scope : Nat) :
    State → Host.Outcome State Fault Refusal :=
  let n := Size.bytes z
  let rs := sizeRegs z d.toNat
  fibreOp len (if rel then .writeOp else .store) (b.toNat :: rs) [] (sizeAlign z d.toNat) fun s c i x =>
    let a := effAddr x b (off * n)
    let data := (x.payload d.toNat rs.length).take n
    let tags := if n < 16 then none else some (rs.map x.vtag)
    if x.storesFull 1 then .fault cILLINST 0
    else match checkSpan s c x b a n (min n 16) permW .write with
    | .error k => k.issue .write
    | .ok ps =>
      if x.signed.isSome then
        if ps.any fun p => s.overlapsOutstanding c i p.2.2 p.2.1 true then .stall s
        else .retire (s.setCtx c i (x.holdStore { va := a, ps := ps, data := data, tags := tags.getD [] }))
      else if !mayPost s c i ps true then .stall s
      else .retire (s.addReqs (storeReqs s c i a ps data tags ord scope (if rel then s.reqIds c i else [])))

def execLd (o : BitVec 10) (z : Sys2Proof.Size) (b d : VReg) : State → Host.Outcome State Fault Refusal :=
  loadOp 2 o.toInt z b d false 0 0
def execSt (o : BitVec 10) (z : Sys2Proof.Size) (b d : VReg) : State → Host.Outcome State Fault Refusal :=
  storeOp 2 o.toInt z b d false 0 0
def execLdAcq (k : Scope) (o : BitVec 6) (z : Sys2Proof.Size) (b d : VReg) : State → Host.Outcome State Fault Refusal :=
  loadOp 2 o.toInt z b d true 1 k.ctorIdx
def execStRel (k : Scope) (o : BitVec 6) (z : Sys2Proof.Size) (b d : VReg) : State → Host.Outcome State Fault Refusal :=
  storeOp 2 o.toInt z b d true 2 k.ctorIdx
def execParcelLd128 (b d : BitVec 5) : State → Host.Outcome State Fault Refusal := loadOp 1 0 .b128 (reg5 b) (reg5 d) false 0 0
def execParcelSt128 (b d : BitVec 5) : State → Host.Outcome State Fault Refusal := storeOp 1 0 .b128 (reg5 b) (reg5 d) false 0 0

/-! ### Fences (R280) -/

/-- The loads and atomics among the requests of a context. -/
def State.loadIds (s : State) (c i : Nat) : List Nat :=
  ((s.ctxReqs c i).filter fun r => match r.op with | .read .. => true | .atomic .. => true | _ => false).map (·.id)
/-- R280: `fence.acq` holds later accesses back until earlier loads and atomics have landed. -/
def Ctx.fenceAcq (c : Ctx) (s : State) (k i : Nat) : Ctx := { c with acqHold := s.stillPending k c.acqHold ++ s.loadIds k i }
/-- R280: `fence.rel` holds later write-class operations back until every earlier access is performed; in a signed block the
stores held so far come before its later ones. -/
def Ctx.fenceRel (c : Ctx) (s : State) (k i : Nat) : Ctx :=
  { c with relHold := s.reqIds k i, signed := c.signed.map fun g => { g with fenced := g.stores.length } }
/-- A fence. -/
def fenceOp (acq rel : Bool) : State → Host.Outcome State Fault Refusal :=
  fibreOp 2 .plain [] [] [] fun s c i x =>
    let x1 := if acq then x.fenceAcq s c i else x
    .retire (s.setCtx c i (if rel then x1.fenceRel s c i else x1))
def execFenceAcq (_ : Scope) : State → Host.Outcome State Fault Refusal := fenceOp true false
def execFenceRel (_ : Scope) : State → Host.Outcome State Fault Refusal := fenceOp false true
def execFence (_ : Scope) : State → Host.Outcome State Fault Refusal := fenceOp true true

/-! ### Gather, scatter and broadcast load (R281) -/

/-- R281: the lanes that a mask selects, in increasing order. -/
def Ctx.selected (c : Ctx) (m : MReg) (n : Nat) : List Nat := (List.range n).filter fun i => c.maskBit m i

/-- The checks on the lanes of a gather or scatter, in lane order: the lanes' locations, or the first failure. -/
def checkLanes (s : State) (c : Nat) (x : Ctx) (b : VReg) (w pm : Nat) (kind : AccKind) :
    List (Nat × Nat) → Except Check (List (Nat × Nat × Loc))
  | [] => .ok []
  | (i, a) :: r =>
    match checkAccess s c x b a w w pm kind with
    | .ok l => match checkLanes s c x b w pm kind r with
      | .ok ls => .ok ((i, a, l) :: ls)
      | .error e => .error e
    | e => .error e

/-- The lane addresses of a gather or scatter. -/
def laneAddrs (x : Ctx) (m : MReg) (w : Nat) (b ix : VReg) : List (Nat × Nat) :=
  (x.selected m (128 / w)).map fun i => (i, effAddr x b (slane (x.v ix.toNat) w i))

/-- Whether every lane may be posted. -/
def lanesFree (s : State) (c i w : Nat) (isWrite : Bool) (ls : List (Nat × Nat × Loc)) : Bool :=
  (ls.all fun p => !s.overlapsOutstanding c i p.2.2 w isWrite) &&
  ((ls.all fun p => p.2.2.isSpad) || s.entriesFree c (ls.filter fun p => !p.2.2.isSpad).length)

/-- The bits of a width that ldg and stg accept. -/
def wBits (w : Bool) : Nat := if w then 64 else 32

/-- R281: `ldg`. -/
def execLdg (m : MReg) (w : Bool) (ix b d : VReg) : State → Host.Outcome State Fault Refusal :=
  let n := wBits w / 8
  fibreOp 2 .load [b.toNat, ix.toNat, d.toNat] [d.toNat] [] fun s c i x =>
    match checkLanes s c x b n permR .read (laneAddrs x m (wBits w) b ix) with
    | .error k => k.issue .read
    | .ok ls =>
      if !lanesFree s c i n false ls then .stall s
      else if ls.isEmpty then .retire (s.setCtx c i (x.setV d.toNat (x.v d.toNat)))
      else
        let rs := ls.zipIdx.map fun p =>
          { mkReq s c i s.nextReq (.read n d.toNat (p.1.1 * n) []) p.1.2.1 p.1.2.2 false [d.toNat] 0 0 [] with
            ent := s.nextReq + p.2 }
        .retire (postLoad s c i (x.pend [d.toNat]) rs false)

/-- R281: `ldbc`: one read whose value goes to every selected lane. -/
def execLdbc (m : MReg) (w : Width) (b d : VReg) : State → Host.Outcome State Fault Refusal :=
  let n := w.bitsN / 8
  fibreOp 2 .load [b.toNat, d.toNat] [d.toNat] [] fun s c i x =>
    match x.selected m w.lanes with
    | [] => .retire (s.setCtx c i (x.setV d.toNat (x.v d.toNat)))
    | i0 :: rest =>
      match checkAccess s c x b (effAddr x b 0) n n permR .read with
      | .ok l =>
        if !mayPost s c i [(0, n, l)] false then .stall s
        else .retire (postLoad s c i (x.pend [d.toNat])
          [mkReq s c i s.nextReq (.read n d.toNat (i0 * n) (rest.map (· * n))) (effAddr x b 0) l false [d.toNat] 0 0 []]
          false)
      | k => k.issue .read

/-- R281: `stg`: lanes in increasing order. -/
def execStg (m : MReg) (w : Bool) (ix b d : VReg) : State → Host.Outcome State Fault Refusal :=
  let n := wBits w / 8
  fibreOp 2 .store [b.toNat, ix.toNat, d.toNat] [] [] fun s c i x =>
    let lanes := laneAddrs x m (wBits w) b ix
    if x.storesFull lanes.length then .fault cILLINST 0
    else match checkLanes s c x b n permW .write lanes with
    | .error k => k.issue .write
    | .ok ls =>
      let data (j : Nat) := bytesOf (lane (x.v d.toNat) (wBits w) j) n
      if x.signed.isSome then
        if ls.any fun p => s.overlapsOutstanding c i p.2.2 n true then .stall s
        else .retire (s.setCtx c i (ls.foldl (fun x p =>
          x.holdStore { va := p.2.1, ps := [(0, n, p.2.2)], data := data p.1, tags := [] }) x))
      else if !lanesFree s c i n true ls then .stall s
      else .retire (ls.foldl (fun s p =>
        s.addBehind c i { mkReq s c i s.nextReq (.write (data p.1) none) p.2.1 p.2.2 true [] 0 0 [] with ent := s.nextReq }) s)

/-! ### Atomics (R283) -/

/-- R283: an atomic on 4 or 8 bytes. -/
def amoOp (op : AtOp) (o : Sys2Proof.Ord) (k : Scope) (z : Bool) (b d : VReg) : State → Host.Outcome State Fault Refusal :=
  let n := wBits z / 8
  let cas := op == .cas
  let src := if cas then [d.toNat, d.toNat + 1] else [d.toNat]
  fibreOp 2 .atomic (b.toNat :: src) [d.toNat] (if cas then [(d.toNat, 2)] else []) fun s c i x =>
    let a := effAddr x b 0
    match checkAccess s c x b a n n (permR + permW + permA) .write with
    | .ok l =>
      if !l.hasState then .fault cSYNCSPACE a
      else if !mayPost s c i [(0, n, l)] true then .stall s
      else
        let v := lane (x.v d.toNat) (8 * n) 0
        let new := if cas then lane (x.v (d.toNat + 1)) (8 * n) 0 else v
        let rel := o == .rel || o == .acqrel
        let acq := o == .acq || o == .acqrel
        let r := mkReq s c i s.nextReq (.atomic op n new v) a l true [d.toNat] o.ctorIdx k.ctorIdx
          (if rel then s.reqIds c i else [])
        .retire (postLoad s c i (x.setPres d.toNat .pending) [{ r with rd := d.toNat }] acq)
    | k => k.issue .write
def execAmoAdd (o : Sys2Proof.Ord) (k : Scope) (z : Bool) (b d : VReg) : State → Host.Outcome State Fault Refusal := amoOp .add o k z b d
def execAmoMin (o : Sys2Proof.Ord) (k : Scope) (z : Bool) (b d : VReg) : State → Host.Outcome State Fault Refusal := amoOp .min o k z b d
def execAmoMax (o : Sys2Proof.Ord) (k : Scope) (z : Bool) (b d : VReg) : State → Host.Outcome State Fault Refusal := amoOp .max o k z b d
def execAmoMinz (o : Sys2Proof.Ord) (k : Scope) (z : Bool) (b d : VReg) : State → Host.Outcome State Fault Refusal := amoOp .minz o k z b d
def execAmoMaxz (o : Sys2Proof.Ord) (k : Scope) (z : Bool) (b d : VReg) : State → Host.Outcome State Fault Refusal := amoOp .maxz o k z b d
def execAmoAnd (o : Sys2Proof.Ord) (k : Scope) (z : Bool) (b d : VReg) : State → Host.Outcome State Fault Refusal := amoOp .and o k z b d
def execAmoOr (o : Sys2Proof.Ord) (k : Scope) (z : Bool) (b d : VReg) : State → Host.Outcome State Fault Refusal := amoOp .or o k z b d
def execAmoXor (o : Sys2Proof.Ord) (k : Scope) (z : Bool) (b d : VReg) : State → Host.Outcome State Fault Refusal := amoOp .xor o k z b d
def execAmoSwp (o : Sys2Proof.Ord) (k : Scope) (z : Bool) (b d : VReg) : State → Host.Outcome State Fault Refusal := amoOp .swp o k z b d
def execAmoCas (o : Sys2Proof.Ord) (k : Scope) (z : Bool) (b d : VReg) : State → Host.Outcome State Fault Refusal := amoOp .cas o k z b d
def execAmoAddf (o : Sys2Proof.Ord) (k : Scope) (z : Bool) (b d : VReg) : State → Host.Outcome State Fault Refusal := amoOp .addf o k z b d

/-! ### Answers that land -/

/-- R371: a change to the registers by an answer; outside the run of the signed block that issued it, it changes the
entry state too. -/
def Ctx.land (c : Ctx) (id : Nat) (f : Ctx → Ctx) : Ctx :=
  let c1 := f c
  match c.signed with
  | some g =>
    if g.loads.contains id then c1
    else { c1 with signed := some { g with entry := (f { c with r := g.entry }).r } }
  | none => c1

/-- Whether the context that issued a request still exists. -/
def State.alive (s : State) (core i inc : Nat) : Bool :=
  let x := s.ctx core i
  x.inc.toNat == inc && x.st != .free

/-- Whether a request is the last outstanding one of its instruction. -/
def State.lastOf (s : State) (r : Req) : Bool := !s.reqs.any fun q => q.insn == r.insn && q.core == r.core && q.id != r.id && q.who == r.who

/-- R277: the bytes and tags of a read enter register positions. -/
def Ctx.putBytes (c : Ctx) (d : Nat) (cells : List Host.Cell) : Ctx :=
  cells.foldl (fun c p =>
    let r := d + p.1 / 16
    { c with r := c.r.setCell r { c.r.cell r with
        val := BitVec.ofNat 128 (setBits (c.v r) (8 * (p.1 % 16)) 8 p.2.toNat) } }) c
/-- Tags enter registers. -/
def Ctx.putRegTags (c : Ctx) (d : Nat) (ts : List (Nat × Bool)) : Ctx :=
  ts.foldl (fun c p => { c with r := c.r.setCell (d + p.1) { c.r.cell (d + p.1) with tag := p.2 } }) c
/-- R55: registers become PRESENT. -/
def Ctx.present (c : Ctx) (rs : List Nat) : Ctx := rs.foldl (fun c r => c.setPres r .present) c

/-- R169: the load record of a read; the pieces of one plain load have the record of the load. -/
def Req.loadRecs (r : Req) : List LoadRec :=
  match r.op with
  | .read n d first lanes =>
    if r.size ≠ 0 then [{ addr := r.va - first, dst := d, sz := Nat.log2 r.size, ord := r.ord, scope := r.scope, whole := true }]
    else [{ addr := r.va, dst := d, sz := Nat.log2 n, first := first, ord := r.ord, scope := r.scope, lanes := lanes }]
  | .atomic _ n _ _ => [{ addr := r.va, dst := r.rd, sz := Nat.log2 n, ord := r.ord, scope := r.scope, whole := true }]
  | _ => []

/-- The other requests of an instruction no longer make its registers PRESENT. -/
def State.orphan (s : State) (r : Req) : State :=
  { s with reqs := s.reqs.map fun q => if q.insn == r.insn && q.core == r.core && q.who == r.who then { q with regs := [] } else q }

/-- R278: a flaw of a context; a further one of the same instruction adds its records to the first. -/
def Ctx.addFlaw (x : Ctx) (r : Req) (cause : Nat) : Ctx :=
  let ls := r.loadRecs
  if r.regs.isEmpty then
    { x with flaws := x.flaws.map fun f =>
        if f.loads.any fun l => ls.any fun m => m.dst == l.dst then
          { f with loads := f.loads ++ ls.filter fun m => !f.loads.contains m }
        else f }
  else { x with flaws := x.flaws ++ [{ regs := r.regs, cause := cause, addr := r.va, loads := ls, run := x.signed.any fun g => g.loads.contains r.id }] }
/-- R278: a read that returns no data is recorded against its registers, which stay PENDING. -/
def State.landFlaw (s : State) (r : Req) (i cause : Nat) : State :=
  ((s.updCtx r.core i fun x => x.addFlaw r cause).orphan r).dropReq r.id
/-- R278: a poisoned read lands. -/
def State.landPoison (s : State) (r : Req) (i : Nat) : State := s.landFlaw r i cPOISON

/-- R368: an access that a home refused faults its Fibre with NOMAP (notes/assumptions/27.md). -/
def State.landFenced (s : State) (r : Req) (i : Nat) : State :=
  let s1 := ((s.updCtx r.core i fun x => x.present r.regs).orphan r).dropReq r.id
  let x := s.ctx r.core i
  let st := if x.st == .halted then x.before else x.st
  if st == .stopped || st == .faulted then s1 else s1.takeFault r.core i cNOMAP r.va

/-- R277: a plain load of fewer than 16 bytes zeroes the rest of its register; a register that it fills has no error. -/
def Ctx.fillRegs (c : Ctx) (d size : Nat) : Ctx :=
  if size = 0 then c
  else (List.range (ceilDiv size 16)).foldl (fun c j =>
    let v := c.r.cell (d + j)
    { c with r := c.r.setCell (d + j) { v with
        val := if size < 16 then BitVec.ofNat 128 (v.val.toNat % 2 ^ (8 * size)) else v.val, bad := false } }) c

/-- R273, R277, R281: a read that has been answered lands: its bytes, and for whole granules their tags, else tag 0. -/
def State.landRead (s : State) (r : Req) (i n d first : Nat) (lanes : List Nat) (data : List Byte) (tags : List Bool) : State :=
  let cells := (first :: lanes).flatMap fun p => (data.take n).zipIdx.map fun q => (p + q.2, q.1)
  let ts := if tags.isEmpty then [(first / 16, false)] else tags.zipIdx.map fun q => (first / 16 + q.2, q.1)
  let done := s.lastOf r
  (s.updCtx r.core i fun x => x.land r.id fun x =>
    if r.discard then (if done then x.present r.regs else x)
    else
      let x1 := (x.putBytes d (cells ++ r.overlay)).putRegTags d (ts ++ r.overTags)
      if done then (x1.fillRegs d r.size).present r.regs else x1).dropReq r.id

/-- R131: contexts whose waits an answer ends become READY. -/
def State.wakeCore (s : State) (c : Nat) : State := s.updCore c Core.wake

def execLoadLands : State → Host.Outcome State Fault Refusal := fun s =>
  match s.findReq s.ev.k with
  | some r =>
    match r.op, r.who with
    | .read n d first lanes, .fibre i inc =>
      if !s.alive r.core i inc then
        match r.stage with
        | .answered .. => .next (s.dropReq r.id)
        | .poisoned => .next (s.dropReq r.id)
        | .fenced => .next (s.dropReq r.id)
        | _ => .next s
      else match r.stage with
        | .answered data tags => .next ((s.landRead r i n d first lanes data tags).wakeCore r.core)
        | .poisoned => if r.discard then .next ((s.landRead r i n d first lanes [] []).wakeCore r.core) else .next (s.landPoison r i)
        | .fenced =>
          if r.discard then .next ((s.landRead r i n d first lanes [] []).wakeCore r.core) else .next (s.landFenced r i)
        | _ => .next s
    | _, _ => .next s
  | none => .next s

/-- R283: an atomic's answer lands. -/
def execAtomicAnswerLands : State → Host.Outcome State Fault Refusal := fun s =>
  match s.findReq s.ev.k with
  | some r =>
    match r.op, r.who with
    | .atomic op n x _, .fibre i inc =>
      if !s.alive r.core i inc then
        match r.stage with
        | .answered .. => .next (s.dropReq r.id)
        | .poisoned => .next (s.dropReq r.id)
        | .fenced => .next (s.dropReq r.id)
        | _ => .next s
      else match r.stage with
        | .answered data _ =>
          let old := ofBytes data
          .next (((s.updCtx r.core i fun y => y.land r.id fun y =>
            (y.setV r.rd old).raise (atomicFlags op n x old)).dropReq r.id).wakeCore r.core)
        | .poisoned => .next (s.landPoison r i)
        | .fenced => .next (s.landFenced r i)
        | _ => .next s
    | _, _ => .next s
  | none => .next s

/-- R275, R284: the answer that a write has been performed frees its entry; a refused one faults its Fibre, or its
hart takes cause 15 (R368). -/
def execWritePerformed : State → Host.Outcome State Fault Refusal := fun s =>
  match s.findReq s.ev.k with
  | some r =>
    match r.op with
    | .write .. =>
      match r.stage, r.who with
      | .performed, _ => .next (s.dropReq r.id)
      | .fenced, .fibre i inc => if s.alive r.core i inc then .next (s.landFenced r i) else .next (s.dropReq r.id)
      | .fenced, .hart u =>
        let s1 := s.dropReq r.id
        let h := s.hart r.core u
        let st := if h.st == .halted then h.before else h.st
        if st == .running || st == .waiting then .next (s1.lateException r.core u 15 r.va) else .next s1
      | _, _ => .next s
    | _ => .next s
  | none => .next s

end Sys2Proof.Machine
end

