-- ==== Sys2Proof/Machine/Image.lean ====
section
/-! DEFINITION. The save image as bytes in HBM (R164 to R169): where its parts lie, and the writes of the service core
into it while the level is SAVED (R184, R230). -/

namespace Sys2Proof.Machine

/-- R164: offsets of the sections. -/
def imgHart : Nat := 256
def imgHanks : Nat := 768
def imgShape : Nat := 1024
def imgHandlers : Nat := 5120
def imgSkimmer : Nat := 37888
def imgCarder : Nat := 46336
def imgTwister : Nat := 46848
/-- R164: the bytes of a Twister image. -/
def twImageSize : Nat := 131136

/-- Writes bytes of HBM. -/
def State.poke (s : State) (a : Nat) (d : List Byte) : State := s.storeAt (.pma a) d none
/-- A number in HBM. -/
def State.peek (s : State) (a n : Nat) : Nat := s.mem.num a n

/-- R165: writes the CRC of the image at an address. -/
def State.sealImage (s : State) (area : Nat) : State :=
  let n := s.peek (area + 16) 8
  let s1 := s.poke (area + 44) (bytesOf 0 4)
  s1.poke (area + 44) (bytesOf (crc32c (s1.mem.read area n)) 4)
/-- R165, R170 step 1: whether an image checks for a core. The scratchpad section may hold poison, which restores (R164);
poison elsewhere fails the check (notes/assumptions/72.md). -/
def State.imageOk (s : State) (c area : Nat) : Bool :=
  let n := s.peek (area + 16) 8
  let d := s.mem.read area n
  s.peek area 4 == 0x4A5A5356 && s.peek (area + 4) 2 == 1 && s.peek (area + 8) 4 == s.addrOf c && 48 ≤ n && n ≤ 768 * 1024 &&
  (let pad := imgTwister + s.peek (area + 40) 4
   let f := s.peek (area + 36) 4
   !s.mem.poisoned 32 area pad && !s.mem.poisoned 32 (area + pad + f) (n - pad - f)) &&
  crc32c (d.take 44 ++ bytesOf 0 4 ++ d.drop 48) == s.peek (area + 44) 4

/-- R168: the bytes of the context record at an address. -/
def State.recordSize (s : State) (a : Nat) : Nat := 256 + 256 * s.peek (a + 2) 1 + 16 * s.peek (a + 90) 2
/-- R164: where the first context record lies. -/
def State.firstRecord (s : State) (area : Nat) : Nat := area + imgTwister + s.peek (area + 40) 4 + s.peek (area + 36) 4
/-- The record of context i, searching n records from an address. -/
def State.seekRecord (s : State) (a i n : Nat) : Option Nat :=
  match n with
  | 0 => none
  | n + 1 => if s.peek a 1 = i then some a else s.seekRecord (a + s.recordSize a) i n
/-- R164: the record of context i in the image at an address. -/
def State.recordOf (s : State) (area i : Nat) : Option Nat :=
  s.seekRecord (s.firstRecord area) i (s.peek (area + 6) 2)
/-- R168: the presence code of register r in a record. -/
def State.recPres (s : State) (a r : Nat) : Nat := (s.peek (a + 152) 16 / 4 ^ r) % 4
/-- R184, R230: writes a register of a record, with tag 0, and marks it PRESENT. -/
def State.recSetReg (s : State) (a r v : Nat) : State :=
  let p := s.peek (a + 152) 16
  let t := s.peek (a + 144) 8
  ((s.poke (a + 256 + 16 * r) (bytesOf v 16)).poke (a + 152) (bytesOf (setBits p (2 * r) 2 0) 16)).poke (a + 144)
    (bytesOf (setBits t r 1 0) 8)

/-- R61, R138, R256: moves the program counter of a record past an instruction of two parcels; in broadcast mode past the end of
the block it is at the next block of the stream, as `blk` gives it for a position, or at the start of its own block where the stream holds
none. -/
def State.recAdvance (s : State) (a : Nat) (blk : Nat → Option Nat) : State :=
  let pc := s.peek (a + 8) 8
  let pos := s.peek (a + 112) 8 + 1
  if pc % 64 = 60 && bit (s.peek (a + 3) 1) 0 then
    (s.poke (a + 8) (bytesOf ((blk pos).getD (pc - 60)) 8)).poke (a + 112) (bytesOf pos 8)
  else s.poke (a + 8) (bytesOf (pc + 4) 8)

/-- R164: the handler entry of a channel in the image. -/
def State.imgEntry (s : State) (area ch : Nat) : Nat := s.peek (area + imgHandlers + 32 * ch) 32
/-- R164: a hank handle in the image. -/
def State.imgHank (s : State) (area h : Nat) : Nat := s.peek (area + imgHanks + 16 * h) 16

end Sys2Proof.Machine
end

