-- ==== Sys2Proof/Machine/Message.lean ====
section
/-! DEFINITION. Fibre messages: descriptors and sends (R196, R197), replies (R198), `wrep` (R199), channels (R200),
hanks (R201, R202) and spawns (R244). -/

namespace Sys2Proof.Machine

/-! ### Sending a request (R172, R177, R197) -/

/-- Whether a core may send a request of a level: an entry, and a reply-queue slot where the answer may need one. -/
def State.canSend (s : State) (c : Nat) (u slot : Bool) : Bool :=
  s.entriesFree c 1 && (!slot || (s.core c).slotFree u)

/-- R172, R177: core c sends the request that `m` gives for its request-table entry, holding the entry until its answer;
a message with `hold` waits among the held messages until what it names is done (R231). -/
def State.sendRequest (s : State) (c : Nat) (u slot : Bool) (m : Nat → Msg) (ans : AnsKind) (ctx : Option Nat)
    (isDeposit : Bool := false) (hold : Option (List Nat) := none) : State :=
  let k := s.core c
  let x := k.freeEntry
  let (seq, k1) := k.nextSeq
  let msg := { m x with seq := seq, tenant := k.tenant, rcore := s.addrOf c }
  let e : Entry := { x := x, id := s.nextReq, seq := seq, lvl := u, slot := slot, ans := ans, ctx := ctx, isDeposit := isDeposit }
  let k2 := { k1 with table := k1.table ++ [e] }
  let s1 := { s with nextReq := s.nextReq + 1 }
  match hold with
  | none => (s1.setCore c k2).post c msg
  | some after => s1.setCore c { k2 with heldMsgs := k2.heldMsgs ++ [{ id := s.nextReq, after := after, msg := msg }] }

/-! ### Descriptors (R196) -/

def descPlen (d : Nat) : Nat := bits d 50 46
def descPrio (d : Nat) : Bool := bit d 45
def descChan (d : Nat) : Nat := bits d 43 34
def descDest (d : Nat) : Nat := bits d 33 2
def descRchan (d : Nat) : Nat := bits d 61 52
/-- R197: the checks on the fields of a descriptor whose payload holds at most `maxLen` units. -/
def descOk' (d maxLen : Nat) : Bool :=
  bits d 63 62 == 0 && !bit d 44 && bits d 1 0 == 0 && bits d 33 22 == 0 && descPlen d ≤ maxLen && descRchan d ≤ 511

/-- R197: the request that a descriptor describes. -/
def descMsg (d rchan : Nat) (payload : List Byte) : Msg :=
  { flags := b01 (bit d 51) * 2 ^ flagOrdered, rchan := rchan, plen := descPlen d, prio := descPrio d, chan := descChan d
    dest := descDest d, payload := payload }

/-- R176: where the answer of a request on a channel goes: its reply channel, or its own channel for a refusal. -/
def answerChan (d : Nat) : Nat := if descRchan d = 0 then descChan d else descRchan d

/-- Goes on once registers that a descriptor names may be read (R52, R55, R278). -/
def withReads (s : State) (c : Nat) (x : Ctx) (r n : Nat) (k : Issue) : Issue :=
  if n = 0 then k
  else if r + n > x.nreg then .fault cILLOPND 0
  else match operandStop s c x .plain (regSpan r n) [] [] [] true with
    | some stop => stop
    | none => k

/-- R52: an instruction with one more register field, whose register it reads only as far as its descriptor or length
says: a field beyond the allocation faults whatever that is. -/
def withField (cls : Cls) (r : Nat) (m : State → Host.Outcome State Fault Refusal) (s : State) :
    Host.Outcome State Fault Refusal :=
  match s.cur with
  | .fibre c i =>
    let x := s.ctx c i
    if r ≥ x.nreg && !(x.signed.isSome && cls.barredSigned) then .next ((Issue.fault cILLOPND 0).finish s c i 2) else m s
  | _ => m s

/-- R197: `send`. -/
def execSend (b a : VReg) : State → Host.Outcome State Fault Refusal :=
  withField .writeOp b.toNat <| fibreOp 2 .writeOp [a.toNat] [] [] fun s c i x =>
    let d := x.vlo a.toNat
    let u := descPlen d
    if !descOk' d 4 then .fault cMSGDESC d
    else withReads s c x b.toNat u <|
      if !s.canSend c (descPrio d) true then .stall s
      else .retire (s.sendRequest c (descPrio d) true (fun _ => descMsg d (descRchan d) (x.payload b.toNat u))
        (.channel (answerChan d)) (some i))

/-- R197: `sendr`. -/
def execSendr (b a d : VReg) : State → Host.Outcome State Fault Refusal :=
  withField .writeOp b.toNat <| fibreOp 2 .writeOp [a.toNat] [d.toNat, d.toNat + 1] [(d.toNat, 2)] fun s c i x =>
    let e := x.vlo a.toNat
    let u := descPlen e
    if !descOk' e 4 || descRchan e != 0 then .fault cMSGDESC e
    else withReads s c x b.toNat u <|
      if !s.canSend c (descPrio e) false then .stall s
      else
        let x1 := (x.setPres d.toNat .pending).setPres (d.toNat + 1) .pending
        .retire ((s.setCtx c i x1).sendRequest c (descPrio e) false
          (fun n => descMsg e (0x200 + n) (x.payload b.toNat u))
          (.regs i x.inc.toNat d.toNat (descChan e)) (some i))

/-- R198: `reply` answers the descriptor of a dispatched request (R190). -/
def execReply (b a : VReg) (l : BitVec 6) : State → Host.Outcome State Fault Refusal :=
  withField .writeOp b.toNat <| fibreOp 2 .writeOp [a.toNat] [] [] fun s c _ x =>
    let d := x.v a.toNat
    if bit d 57 || bits d 29 20 == 0 then .retire s
    else withReads s c x b.toNat l.toNat <|
      .retire (s.post c { seq := bits d 45 30, tenant := (s.core c).tenant, rcore := s.addrOf c, plen := l.toNat
                          prio := bit d 56, answer := true, chan := bits d 29 20, dest := bits d 19 0
                          payload := x.payload b.toNat l.toNat })

/-- R199: the channel of the `sendr` that owns a register, or 0. -/
def Core.sendrChan (k : Core) (i : Nat) (x : Ctx) (r : Nat) : Nat :=
  match k.table.find? fun e => match e.ans with
      | .regs j n d _ => j == i && n == x.inc.toNat && (d == r || d + 1 == r)
      | _ => false with
  | some { ans := .regs _ _ _ dchan, .. } => dchan
  | _ => 0
/-- R199: `wrep`. -/
def execWrep (a : VReg) : State → Host.Outcome State Fault Refusal :=
  fibreOpNoWait 2 .wait [] [a.toNat] fun s c i x =>
    if (x.r.cell a.toNat).pres == .present then .retire s
    else .wait s .reply ((s.core c).sendrChan i x a.toNat) [a.toNat] 0 0

/-! ### Hanks (R201, R202) -/

/-- R201: fields of a hank handle. -/
def hkFilled (h : Nat) : Nat := bits h 15 0
def hkFree (h : Nat) : Nat := bits h 31 16
def hkPidx (h : Nat) : Nat := bits h 47 32
def hkCidx (h : Nat) : Nat := bits h 63 48
def hkBase (h : Nat) : Nat := bits h 82 64
def hkLsz (h : Nat) : Nat := bits h 87 83
def hkLel (h : Nat) : Nat := bits h 90 88
def hkEn (h : Nat) : Bool := bit h 91
/-- R201: the element size in bytes. -/
def hkElem (h : Nat) : Nat := 16 * 2 ^ hkLel h
/-- R201: the number of slots. -/
def hkSlots (h : Nat) : Nat := 2 ^ hkLsz h / (16 * 2 ^ hkLel h)
/-- R201: whether a handle is valid. -/
def hkValid (h : Nat) : Bool :=
  hkEn h && 6 ≤ hkLsz h && hkLsz h ≤ 19 && hkLel h ≤ 4 && 1 ≤ hkSlots h && hkBase h % 2 ^ hkLsz h == 0
/-- Replaces the index and count fields. -/
def hkSet (h filled free pidx cidx : Nat) : Nat :=
  setBits (setBits (setBits (setBits h 0 16 filled) 16 16 free) 32 16 pidx) 48 16 cidx
/-- A hank handle of a core. -/
def Core.hank (k : Core) (h : Nat) : Nat := if p : h < 16 then k.hanks[h].toNat else 0
/-- Writes a hank handle. -/
def Core.setHank (k : Core) (h v : Nat) : Core := if p : h < 16 then { k with hanks := k.hanks.set h (BitVec.ofNat 128 v) } else k

/-- R202: the offset of a slot in the scratchpad. -/
def hkSlotOff (h o : Nat) : Nat := hkBase h + o * hkElem h

/-- R202: an operation on a handle with n slots: the new handle and the slot taken; none where the counts would pass
the slots, and an error where the operation is refused. -/
def hkApply (op : HkOp) (h n : Nat) : Except Unit (Nat × Option Nat) :=
  let sl := hkSlots h
  if !hkValid h || n > sl then .error ()
  else match op with
    | .prod => if hkFree h ≥ n then
        .ok (hkSet h (hkFilled h) (hkFree h - n) ((hkPidx h + n) % sl) (hkCidx h), some (hkSlotOff h (hkPidx h)))
      else .ok (h, none)
    | .cons => if hkFilled h ≥ n then
        .ok (hkSet h (hkFilled h - n) (hkFree h) (hkPidx h) ((hkCidx h + n) % sl), some (hkSlotOff h (hkCidx h)))
      else .ok (h, none)
    | .comm => if hkFilled h + hkFree h + n > sl then .error ()
      else .ok (hkSet h (hkFilled h + n) (hkFree h) (hkPidx h) (hkCidx h), none)
    | .free => if hkFilled h + hkFree h + n > sl then .error ()
      else .ok (hkSet h (hkFilled h) (hkFree h + n) (hkPidx h) (hkCidx h), none)

/-! ### What a signed block holds of its core (R371) -/

/-- Sets or clears E. -/
def Core.setE (k : Core) (ch : Nat) (on : Bool) : Core := k.setEntry ch (setBits (k.entry ch) 70 1 (b01 on))
/-- R371: an effect of a signed block of context i on its core. A join takes the rank that it has reported, or the lowest vacant
one where another Fibre has taken that (notes/assumptions/104.md). -/
def Core.sigApply (i : Nat) (k : Core) (e : SigEffect) : Core :=
  match e with
  | .chan ch on => k.setE ch on
  | .hank op h n => match hkApply op (k.hank h) n with | .ok (v, _) => k.setHank h v | .error _ => k
  | .join n r =>
    let x := k.ctx i
    let ms := k.members n
    if !(k.residents.any fun q => q.name == n && q.lvl == x.lvl) || ms.length ≥ 32 then k
    else k.setCtx i { x with skein := n, joined := true, rank := if ms.any fun j => (k.ctx j).rank == r then k.vacantRank n else r }
  | .leave => k.leaveSkein i
  | .named _ => k
/-- R371: the core as the later instructions of a signed block of context i see it. -/
def Core.sigView (k : Core) (i : Nat) : Core :=
  match (k.ctx i).signed with
  | some g => g.effects.foldl (Core.sigApply i) k
  | none => k
/-- R371: an effect on the core of context i: held in a signed block, and at once outside one. -/
def State.effect (s : State) (c i : Nat) (e : SigEffect) : State :=
  match (s.ctx c i).signed with
  | some g => s.updCtx c i fun x => { x with signed := some { g with effects := g.effects ++ [e] } }
  | none => s.updCore c fun k => Core.sigApply i k e

/-! ### Channels (R187, R200) -/

/-- R187: whether a party of a level may change a channel's entry. -/
def Core.mayChange (k : Core) (u : Bool) (ch : Nat) : Bool :=
  (ch == 3 || ch == 4 || (16 ≤ ch && ch ≤ 1023)) && entLvl (k.entry ch) == u
/-- R200: `chen` and `chdis`. -/
def chanOp (a : VReg) (on : Bool) : State → Host.Outcome State Fault Refusal :=
  fibreOp 2 .plain [a.toNat] [] [] fun s c i x =>
    let v := x.vlo a.toNat
    if v ≥ 1024 || !(s.core c).mayChange x.lvl v then .fault cMSGDESC v
    else .retire (s.effect c i (.chan v on))
def execChen (a : VReg) : State → Host.Outcome State Fault Refusal := chanOp a true
def execChdis (a : VReg) : State → Host.Outcome State Fault Refusal := chanOp a false
/-- R200: `chpend`. -/
def execChpend (a d : VReg) : State → Host.Outcome State Fault Refusal :=
  fibreOp 2 .plain [a.toNat] [d.toNat] [] fun s c i x =>
    let v := x.vlo a.toNat
    if v ≥ 1024 then .fault cMSGDESC v
    else
      let e := ((s.core c).sigView i).entry v
      .retire (s.setCtx c i (x.setV d.toNat (b01 (entE e) + 2 * b01 (entW e))))

/-! ### Hank instructions (R202) -/

/-- R202: `hk.prod` and `hk.cons`; one that finds too few slots takes nothing. -/
def hankTake (op : HkOp) (n : BitVec 6) (h : BitVec 4) (d : VReg) : State → Host.Outcome State Fault Refusal :=
  fibreOp 2 .plain [] [d.toNat] [] fun s c i _ =>
    match hkApply op (((s.core c).sigView i).hank h.toNat) n.toNat with
    | .error _ => .fault cMSGDESC h.toNat
    | .ok (_, o) =>
      let r := match o with | some a => spadBase + a + n.toNat * 2 ^ 64 | none => 0
      let s1 := if o.isSome then s.effect c i (.hank op h.toNat n.toNat) else s
      .retire (s1.updCtx c i fun y => y.setV d.toNat r)
/-- R202: `hk.comm` and `hk.free`. -/
def hankPut (op : HkOp) (n : BitVec 6) (h : BitVec 4) : State → Host.Outcome State Fault Refusal :=
  fibreOp 2 .plain [] [] [] fun s c i _ =>
    match hkApply op (((s.core c).sigView i).hank h.toNat) n.toNat with
    | .error _ => .fault cMSGDESC h.toNat
    | .ok _ => .retire (s.effect c i (.hank op h.toNat n.toNat))
def execHkProd (n : BitVec 6) (h : BitVec 4) (d : VReg) : State → Host.Outcome State Fault Refusal := hankTake .prod n h d
def execHkCons (n : BitVec 6) (h : BitVec 4) (d : VReg) : State → Host.Outcome State Fault Refusal := hankTake .cons n h d
def execHkComm (n : BitVec 6) (h : BitVec 4) : State → Host.Outcome State Fault Refusal := hankPut .comm n h
def execHkFree (n : BitVec 6) (h : BitVec 4) : State → Host.Outcome State Fault Refusal := hankPut .free n h

/-! ### Spawns (R244) -/

def execSpawn (b a : VReg) : State → Host.Outcome State Fault Refusal :=
  withField .writeOp b.toNat <| fibreOp 2 .writeOp [a.toNat] [] [] fun s c i x =>
    let d := x.vlo a.toNat
    let u := descPlen d
    if !descOk' d 4 || descRchan d != 0 || descChan d != 3 || u == 0 then .fault cMSGDESC d
    else withReads s c x b.toNat u <|
      let t := x.vlo b.toNat
      if t % 2 = 1 || !(s.core c).inWindow x.lvl (t - t % 64) then .fault cFETCH t
      else if !s.canSend c (descPrio d) true then .stall s
      else .retire (s.sendRequest c (descPrio d) true
        (fun _ => let m := descMsg d 0 (x.payload b.toNat u); { m with flags := m.flags ||| 2 ^ flagSpawn })
        (.channel 3) (some i))

end Sys2Proof.Machine
end

