-- ==== Sys2Proof/Machine/Barrier.lean ====
section
/-! DEFINITION. Full/empty and join-counter instructions (R260 to R267), their answers, and wait limits and cancels
(R254, R255). -/

namespace Sys2Proof.Machine

/-! ### Completing a waiting instruction -/

/-- An instruction of two parcels that context i waits in retires. -/
def State.completeWait (s : State) (c i : Nat) : State :=
  (s.updCtx c i fun x => { x with st := .ready, wait := {}, woke := x.wait.woken (s.core c).counter }).retire c i 2

/-- R261: the load forms. -/
def FeOp.isLoad : FeOp → Bool
  | .ldfe => true
  | .ldff => true
  | _ => false
/-- R261: the effect of a served load form. -/
def feEffect (op : FeOp) (rd : Nat) (data : List Byte) (x : Ctx) : Ctx :=
  match op with
  | .ldfe => x.setV rd (ofBytes data)
  | .ldff => x.setV rd (ofBytes data)
  | _ => x

/-! ### Full/empty instructions (R261) -/

/-- R261: a full/empty instruction; `v` is the register that a load form writes or a store form reads. -/
def feOp (op : FeOp) (pm : Nat) (cls : Cls) (rel : Bool) (scope : Scope) (off : BitVec 6) (b v : VReg) :
    State → Host.Outcome State Fault Refusal :=
  let isLoad := op == .ldfe || op == .ldff
  let kind : AccKind := if op == .ldff then .read else .write
  let rd := if op == .stef || op == .stff then [b.toNat, v.toNat] else [b.toNat]
  fibreOp 2 cls rd (if isLoad then [v.toNat] else []) [] fun s c i x =>
    let a := effAddr x b (off.toInt * 8)
    match checkAccess s c x b a 8 8 pm kind with
    | .ok l =>
      if !l.hasState then .fault cSYNCSPACE a
      else if s.overlapsOutstanding c i l 8 true then .stall s
      else
        let value := if isLoad || op == .feclr then 0 else x.vlo v.toNat
        let r := { mkReq s c i s.nextReq (.fe op value) a l (op != .ldff) [] (b01 rel * 2) scope.ctorIdx
          (if rel && !l.isSpad then s.reqIds c i else []) with rd := v.toNat }
        let id := s.nextReq
        if l.isSpad then
          if rel && !(s.reqIds c i).isEmpty then .stall s
          else
            let s1 := (s.addReq r).homeFe { r with id := id }
            match s1.stageOf id with
            | some (.answered d _) => .retire ((s1.dropReq id).updCtx c i (feEffect op v.toNat d))
            | some .poisoned => .fault cPOISON a
            | _ => .wait s1 .fullEmpty a [] 0 id
        else if !s.entriesFree c 1 then .stall s
        else .wait (s.addReq r) .fullEmpty a [] 0 id
    | k => k.issue kind
def execLdfe (_ : Bool) (c : Scope) (x : BitVec 6) (b d : VReg) : State → Host.Outcome State Fault Refusal :=
  feOp .ldfe (permR + permW) .wait false c x b d
def execLdff (_ : Bool) (c : Scope) (x : BitVec 6) (b d : VReg) : State → Host.Outcome State Fault Refusal :=
  feOp .ldff permR .wait false c x b d
def execStef (o : Bool) (c : Scope) (x : BitVec 6) (b v : VReg) : State → Host.Outcome State Fault Refusal :=
  feOp .stef permW .waitWrite o c x b v
def execStff (o : Bool) (c : Scope) (x : BitVec 6) (b v : VReg) : State → Host.Outcome State Fault Refusal :=
  feOp .stff permW .waitWrite o c x b v
def execFeclr (o : Bool) (c : Scope) (x : BitVec 6) (b : VReg) : State → Host.Outcome State Fault Refusal :=
  feOp .feclr permW .waitWrite o c x b 0#6

/-- Whether context i waits for the request. -/
def Ctx.waitsFor (x : Ctx) (id : Nat) : Bool :=
  x.st == .waiting && (x.wait.kind == .fullEmpty || x.wait.kind == .join) && x.wait.req == id
/-- A request is done; its entry stays held until the answer to its cancel (R255). -/
def State.doneReq (s : State) (r : Req) : State := if r.cancel then s.setStage r.id .performed else s.dropReq r.id

/-- The answer of a request whose context is gone is discarded. -/
def State.dropAnswered (s : State) (r : Req) : State :=
  match r.stage with
  | .answered .. => s.doneReq r
  | .crossed .. => s.doneReq r
  | .poisoned => s.doneReq r
  | .fenced => s.doneReq r
  | _ => s
/-- R132, R168, R256: the answer of an aborted wait reaches a HALTED context: its instruction is done, its program counter is in its
stream's block, and in the halt cycle the
pending set records it. A refused one leaves the wait to issue again. -/
def State.haltedAnswer (s : State) (r : Req) (i : Nat) (f : List Byte → Ctx → Ctx) : State :=
  let k := s.core r.core
  let b := match r.op with | .fe .. => 2 | _ => 4
  match r.stage with
  | .answered d _ =>
    (s.doneReq r).updCtx r.core i fun x =>
      let y := (f d x).advance 2
      { y with
        pcBlk := (k.currentBlock y).getD y.pcBlk, abortedWait := 0, pendingSet := if k.counter == k.haltCycle then x.pendingSet ||| b else x.pendingSet }
  | _ => s.dropAnswered r
/-- R138: the Skein whose stream the SAVED context of an index follows. -/
def Core.savedStream (k : Core) (i : Nat) : Option Skein :=
  ((k.saved.find? fun e => e.idx == i).bind (·.handle)).bind fun h => k.skeins.toList.getD h none
/-- R184, R256: the answer of an aborted wait reaches the record of a SAVED context; that of a context that is gone is
discarded. -/
def State.lateAnswer (s : State) (r : Req) (i inc : Nat) (isLoad : Bool) : State :=
  let k := s.core r.core
  match r.stage, if (k.level == .saved || k.level == .restoring) && k.saved.any fun e => e.idx == i then k.saveArea else none with
  | .answered d _, some a =>
    match s.recordOf a i with
    | some p =>
      if s.peek (p + 124) 1 = inc then
        let s1 := if isLoad then (s.doneReq r).recSetReg p r.rd (ofBytes d) else s.doneReq r
        let next (pos : Nat) : Option Nat := (k.savedStream i).bind fun sk => if pos < sk.basePos then none else sk.stream[pos - sk.basePos]?
        ((s1.recAdvance p next).poke (p + 89) [0#8]).sealImage a
      else s.dropAnswered r
    | none => s.dropAnswered r
  | _, _ => s.dropAnswered r

/-- R261: a full/empty answer reaches the context that waits for it. -/
def execFeAnswerLands : State → Host.Outcome State Fault Refusal := fun s =>
  match s.findReq s.ev.k with
  | some r =>
    match r.op, r.who with
    | .fe op _, .fibre i inc =>
      if r.core ≥ outsideCore then .next (s.leaveOutside r.id)
      else if !s.alive r.core i inc then .next (s.lateAnswer r i inc op.isLoad)
      else if (s.ctx r.core i).st == .halted then .next (s.haltedAnswer r i (feEffect op r.rd))
      else if !(s.ctx r.core i).waitsFor r.id then .next s
      else match r.stage with
        | .answered d _ => .next (((s.doneReq r).updCtx r.core i (feEffect op r.rd d)).completeWait r.core i)
        | .poisoned => .next ((s.doneReq r).takeFault r.core i cPOISON r.va)
        | .fenced => .next ((s.doneReq r).takeFault r.core i cNOMAP r.va)
        | _ => .next s
    | _, _ => .next s
  | none => .next s

/-! ### Join counters (R265, R266) -/

/-- R265: whether a continuation descriptor may be posted. -/
def contOk (cont : Nat) : Bool := descOk' cont 4 && descRchan cont == 0 && descPlen cont == 1

/-- R266: the continuation of a crossed counter, with its address and count. -/
def State.postCont (s : State) (c : Nat) (i : Option Nat) (cont addr count : Nat) : State :=
  s.sendRequest c (descPrio cont) true
    (fun _ => descMsg cont 0 (bytesOf addr 8 ++ bytesOf count 8)) (.channel (descChan cont)) i

/-- R266: what a crossing does at the updating core: the continuation, or MSGDESC where a plain store made it
invalid. True where the instruction retires. -/
def State.crossing (s : State) (c i cont addr count : Nat) : State × Bool :=
  if cont = 0 then (s, true)
  else if contOk cont then (s.postCont c (some i) cont addr count, true)
  else (s.takeFault c i cMSGDESC addr, false)

/-- R156, R266: the answer of an update whose Fibre is gone is discarded, but its core posts the continuation. -/
def State.lateCrossing (s : State) (r : Req) : State :=
  match r.stage with
  | .crossed cont count =>
    if cont != 0 && contOk cont then (s.dropAnswered r).postCont r.core none cont r.va count else s.dropAnswered r
  | _ => s.dropAnswered r

/-- Whether a context has an update of a join counter outstanding. -/
def State.jcStalled (s : State) (c i : Nat) : Bool :=
  (s.ctxReqs c i).any fun r => match r.op with | .jc .wait _ _ => false | .jc .. => true | _ => false

/-- R265: `jc.init`, `jc.add` and `jc.dec`. -/
def jcUpdateOp (op : JcOp) (scope : Scope) (b a : VReg) : State → Host.Outcome State Fault Refusal :=
  fibreOp 2 .writeOp [a.toNat, b.toNat] [] [] fun s c i x =>
    let va := x.vlo a.toNat
    let n := x.vlo b.toNat
    let cont := if op == .init then hi64 (x.v b.toNat) else 0
    if s.jcStalled c i then .stall s
    else match checkAccess s c x a va 16 16 (permW + permA) .write with
    | .ok l =>
      if !l.hasState then .fault cSYNCSPACE va
      else if cont != 0 && !contOk cont then .fault cMSGDESC cont
      else if s.overlapsOutstanding c i l 16 true || !s.entriesFree c 1 then .stall s
      else
        let r := { mkReq s c i s.nextReq (.jc op n cont) va l true [] 2 scope.ctorIdx
          (if l.isSpad then [] else s.reqIds c i) with entry := true }
        let id := s.nextReq
        if !l.isSpad then .stall (s.addReq r)
        else if !(s.reqIds c i).isEmpty then .stall s
        else
          let s1 := (s.addReq r).homeJc { r with id := id }
          match s1.stageOf id with
          | some .poisoned => .fault cPOISON va
          | some (.crossed ct count) =>
            let (s2, ok) := (s1.dropReq id).crossing c i ct va count
            if ok then .retire s2 else .moved s2
          | _ => .retire (s1.dropReq id)
    | k => k.issue .write
def execJcInit (k : Scope) (b a : VReg) : State → Host.Outcome State Fault Refusal := jcUpdateOp .init k b a
def execJcAdd (k : Scope) (b a : VReg) : State → Host.Outcome State Fault Refusal := jcUpdateOp .add k b a
def execJcDec (k : Scope) (b a : VReg) : State → Host.Outcome State Fault Refusal := jcUpdateOp .dec k b a

/-- R265: `jc.wait`. -/
def execJcWait (k : Scope) (a : VReg) : State → Host.Outcome State Fault Refusal :=
  fibreOp 2 .wait [a.toNat] [] [] fun s c i x =>
    let va := x.vlo a.toNat
    match checkAccess s c x a va 16 16 permR .read with
    | .ok l =>
      if !l.hasState then .fault cSYNCSPACE va
      else if s.overlapsOutstanding c i l 16 false then .stall s
      else
        let r := mkReq s c i s.nextReq (.jc .wait 0 0) va l false [] 1 k.ctorIdx []
        let id := s.nextReq
        if l.isSpad then
          let s1 := (s.addReq r).homeJc { r with id := id }
          match s1.stageOf id with
          | some (.answered ..) => .retire (s1.dropReq id)
          | some .poisoned => .fault cPOISON va
          | _ => .wait s1 .join va [] 0 id
        else if !s.entriesFree c 1 then .stall s
        else .wait (s.addReq r) .join va [] 0 id
    | k => k.issue .read

/-- R265, R266: a join-counter answer reaches its Fibre. -/
def execJcAnswerLands : State → Host.Outcome State Fault Refusal := fun s =>
  match s.findReq s.ev.k with
  | some r =>
    match r.op, r.who with
    | .jc .wait _ _, .fibre i inc =>
      if r.core ≥ outsideCore then .next (s.leaveOutside r.id)
      else if !s.alive r.core i inc then .next (s.lateAnswer r i inc false)
      else if (s.ctx r.core i).st == .halted then .next (s.haltedAnswer r i fun _ x => x)
      else if !(s.ctx r.core i).waitsFor r.id then .next s
      else match r.stage with
        | .answered .. => .next ((s.doneReq r).completeWait r.core i)
        | .poisoned => .next ((s.doneReq r).takeFault r.core i cPOISON r.va)
        | .fenced => .next ((s.doneReq r).takeFault r.core i cNOMAP r.va)
        | _ => .next s
    | .jc .., .fibre i inc =>
      if !s.alive r.core i inc then .next (s.lateCrossing r)
      else match r.stage with
        | .answered .. => .next ((s.dropReq r.id).retire r.core i 2)
        | .crossed ct count =>
          let (s2, ok) := (s.dropReq r.id).crossing r.core i ct r.va count
          .next (if ok then s2.retire r.core i 2 else s2)
        | .poisoned => .next ((s.dropReq r.id).takeFault r.core i cPOISON r.va)
        | .fenced => .next ((s.dropReq r.id).takeFault r.core i cNOMAP r.va)
        | _ => .next s
    | _, _ => .next s
  | none => .next s

/-! ### Wait limits (R254, R255) -/

/-- R254: whether the e7 count of the wait of a context is over after a cycle. -/
def Ctx.expired (x : Ctx) (cycle : Nat) : Bool :=
  x.st == .waiting && x.wait.limit != 0 && x.wait.start + x.wait.limit ≤ cycle && !x.wait.cancelSent
/-- R254: the expiries that the end of a cycle of a core brings: a condition that came true in that cycle has won. -/
def Core.expiries (k : Core) (c : Nat) : List Turn :=
  ((List.range 32).filter fun i => (k.ctx i).expired k.counter).map fun i => .event .waitLimitExpiry { core := c, k := i }

/-- R254, R255: the e7 count of the wait of context k of a core expires, after the cycle in which it ends. -/
def execWaitLimitExpiry : State → Host.Outcome State Fault Refusal := fun s =>
  let c := s.ev.core
  let i := s.ev.k
  let k := s.core c
  let x := k.ctx i
  if !(c < numCores && i < 32 && x.expired (k.counter - 1) && 0 < k.counter) then .next s
  else match x.wait.kind with
    | .none => .next s
    | .presence => .next (s.takeFault c i cWAITLIM x.wait.addr)
    | .reply => .next (s.takeFault c i cWAITLIM x.wait.addr)
    | .peer => .next (s.takeFault c i cWAITLIM x.wait.addr)
    | _ =>
      match s.findReq x.wait.req with
      | none => .next s
      | some r =>
        if r.loc.isSpad then
          if r.stage == .waiter then .next ((s.dropReq r.id).takeFault c i cWAITLIM x.wait.addr) else .next s
        else .next ((s.updReq r.id fun r => { r with cancel := true }).updCtx c i fun x =>
          { x with wait := { x.wait with cancelSent := true } })

/-- R255: the answer to a cancel: REMOVED faults the context; after SERVED the service answer completes it. -/
def execCancelAnswer : State → Host.Outcome State Fault Refusal := fun s =>
  match s.findReq s.ev.k with
  | some r =>
    match r.cancelAns, r.who with
    | some false, .fibre i inc =>
      let s1 := s.dropReq r.id
      if s.alive r.core i inc && (s.ctx r.core i).waitsFor r.id then
        .next (s1.takeFault r.core i cWAITLIM (s.ctx r.core i).wait.addr)
      else .next s1
    | some true, _ =>
      if r.stage == .performed then .next (s.dropReq r.id)
      else .next (s.updReq r.id fun r => { r with cancel := false, cancelAns := none })
    | _, _ => .next s
  | none => .next s

end Sys2Proof.Machine
end

