-- ==== Sys2Proof/Machine/Control.lean ====
section
/-! DEFINITION. Branches, jumps and system codes (R102 to R104), register, mask and identity moves (R60), block
control (R139, R140), the end parcel and signature marker (R62, R373) and peer links (R141). -/

namespace Sys2Proof.Machine

/-! ### Branches (R102) -/

/-- R102, R65, R71: a branch by off13 parcels that reads the registers `rd` and is taken where `cond` holds. DESIGN CHOICE
(notes/assumptions/106.md): the rules of R71 hold in the run of a signed block alone, and come before the checks of the operands. -/
def branchOp (o : BitVec 13) (rd : List Nat) (cond : Ctx → Bool) (s : State) : Host.Outcome State Fault Refusal :=
  match s.cur with
  | .fibre c i =>
    let x := s.ctx c i
    let t : Int := x.pcOff + o.toInt
    let marker := ((s.core c).findBlock x.pcBlk).bind fun e => e.data.bind markerOf
    let signedBad := x.signed.any fun g => g.branched || t ≤ x.pcOff + 1 || marker.any fun m => t > m
    if t < 0 || t > 31 || signedBad then .next (s.takeFault c i cILLINST 0)
    else fibreOp 2 .branch rd [] [] (fun s c i x =>
      let tk := cond x
      let x1 := { x with signed := x.signed.map fun g => { g with branched := true, taken := tk } }
      if tk then .moved (s.setCtx c i { ((s.core c).addPath x1) with pcOff := t.toNat })
      else .retire (s.setCtx c i x1)) s
  | _ => .fault .notThisParty

/-- R102: the low n bits of mask k are all 1. -/
def maskAll (c : Ctx) (k : MReg) (n : Nat) : Bool := c.mask k % 2 ^ n == 2 ^ n - 1

def execB (o : BitVec 13) : State → Host.Outcome State Fault Refusal := branchOp o [] fun _ => true
def execBAny (o : BitVec 13) (k : MReg) : State → Host.Outcome State Fault Refusal := branchOp o [] fun c => c.mask k != 0
def execBNone (o : BitVec 13) (k : MReg) : State → Host.Outcome State Fault Refusal := branchOp o [] fun c => c.mask k == 0
def execBAll (o : BitVec 13) (n : BitVec 6) (k : MReg) : State → Host.Outcome State Fault Refusal :=
  branchOp o [] fun c => maskAll c k n.toNat
def execBNall (o : BitVec 13) (n : BitVec 6) (k : MReg) : State → Host.Outcome State Fault Refusal :=
  branchOp o [] fun c => !maskAll c k n.toNat
def execBZ (o : BitVec 13) (a : VReg) : State → Host.Outcome State Fault Refusal := branchOp o [a.toNat] fun c => c.vlo a.toNat == 0
def execBNz (o : BitVec 13) (a : VReg) : State → Host.Outcome State Fault Refusal := branchOp o [a.toNat] fun c => c.vlo a.toNat != 0

/-- R103: `jal` links in e5 and passes control to the target. -/
def execJal (o : BitVec 25) : State → Host.Outcome State Fault Refusal :=
  fibreOp 2 .leaves [] [] [] fun s c i x =>
    let t := trunc ((x.pcBlk : Int) + 2 * x.pcOff + 2 * o.toInt) 64
    match transfer s c i (t - t % 64) (t % 64 / 2) with
    | .moved s' => .moved (s'.updCtx c i fun y => y.setExt 5 ((x.pcBlk + 2 * (x.pcOff + 2)) % 2 ^ 64))
    | r => r

/-! ### Registers, masks and identity (R60) -/

def execSetx (a : VReg) (x : BitVec 6) : State → Host.Outcome State Fault Refusal :=
  pureOp 2 [a.toNat] [] [] fun c =>
    let v := c.vlo a.toNat
    if x.toNat < 8 then c.setExt x.toNat v
    else if x.toNat = 8 then { c with r := { c.r with flags := BitVec.ofNat 5 v } }
    else c.setMask (BitVec.ofNat 2 x.toNat) v
/-- R60: the value of a selector of `getx`. -/
def getxValue (c : Ctx) (x : Nat) : Nat :=
  if x < 8 then c.ext x
  else if x = 8 then c.r.flags.toNat
  else if x = 9 then c.r.srseq.toNat
  else c.mask (BitVec.ofNat 2 x)
/-- R58, R109: `getx`. It does not wait for an outstanding `amo.addf`, whose flags R283 raises when its answer lands; neither
does `setx` (notes/assumptions/105.md). -/
def execGetx (x : BitVec 6) (d : VReg) : State → Host.Outcome State Fault Refusal :=
  pureOp 2 [] [d.toNat] [] fun c => c.setV d.toNat (getxValue c x.toNat)
def execKset (n : BitVec 6) (k : MReg) : State → Host.Outcome State Fault Refusal :=
  pureOp 2 [] [] [] fun c => c.setMask k (2 ^ n.toNat - 1)
def execKand (b a d : MReg) : State → Host.Outcome State Fault Refusal :=
  pureOp 2 [] [] [] fun c => c.setMask d (c.mask a &&& c.mask b)
def execKor (b a d : MReg) : State → Host.Outcome State Fault Refusal :=
  pureOp 2 [] [] [] fun c => c.setMask d (c.mask a ||| c.mask b)
def execKnot (a d : MReg) : State → Host.Outcome State Fault Refusal :=
  pureOp 2 [] [] [] fun c => c.setMask d (0xFFFF - c.mask a)
/-- R25, R60: `rdc`. -/
def execRdc (d : VReg) : State → Host.Outcome State Fault Refusal :=
  fibreOp 2 .plain [] [d.toNat] [] fun s c i x => .retire (s.setCtx c i (x.setV d.toNat (s.core c).counter))

/-- R59: the identity register of a selector, for a context or hart of level u of core c; the last four operands are
id.ctx, id.nreg and id.skein. -/
def State.identity (s : State) (c : Nat) (u : Bool) (sel ctx nreg skein : Nat) : Nat :=
  let d := (s.core c).ident u
  match sel with
  | 0x00 => d.x | 0x01 => d.y | 0x02 => d.w | 0x03 => d.h
  | 0x04 => s.pkg | 0x05 => d.kern | 0x06 => s.addrOf c | 0x07 => ctx
  | 0x08 => b01 u | 0x09 => nreg | 0x0A => skein
  | 0x20 => 64 | 0x21 => 64 | 0x22 => 64 | 0x23 => 8
  | n => if 0x10 ≤ n && n ≤ 0x14 then d.o.toList.getD (n - 0x10) 0
         else if 0x18 ≤ n && n ≤ 0x1C then d.m.toList.getD (n - 0x18) 0 else 0
/-- R59: `rdid`. -/
def execRdid (i : BitVec 6) (d : VReg) : State → Host.Outcome State Fault Refusal :=
  fibreOp 2 .plain [] [d.toNat] [] fun s c k x =>
    .retire (s.setCtx c k (x.setV d.toNat (s.identity c x.lvl i.toNat k x.nreg x.skeinSeen)))

/-! ### System codes (R104) and what a block ends with (R62) -/

def execNop : State → Host.Outcome State Fault Refusal := pureOp 2 [] [] [] id
def execParcelNop : State → Host.Outcome State Fault Refusal := pureOp 1 [] [] [] id
def execTrap (n : BitVec 6) : State → Host.Outcome State Fault Refusal := faultOp 2 [] [] [] fun _ => .error (cTRAP, n.toNat)
def execEbrk : State → Host.Outcome State Fault Refusal := faultOp 2 [] [] [] fun _ => .error (cEBRK, 0)
def execParcelEbrk : State → Host.Outcome State Fault Refusal := faultOp 1 [] [] [] fun _ => .error (cEBRK, 0)
/-- R68: what decodes to no instruction raises ILLINST. -/
def execUnassignedEncoding : State → Host.Outcome State Fault Refusal := faultOp 1 [] [] [] fun _ => .error (cILLINST, 0)
/-- R62, R137, R138: the end parcel. Before the marker of a signed block it ends the block, whose check is never made: the held
effects are discarded (notes/assumptions/24.md). -/
def execEndParcel : State → Host.Outcome State Fault Refusal :=
  fibreOp 1 .plain [] [] [] fun s c i x =>
    match x.signed with
    | none => .moved (s.setCtx c i (x.advance (32 - x.pcOff)))
    | some g =>
      let y := { x.discardSigned with pcOff := x.pcOff }
      .moved (((s.setCtx c i (y.advance (32 - x.pcOff))).discardLoads g.loads).updCore c fun k => { k with checker := none })
/-- R140: `stop`. -/
def stopOp (len : Nat) : State → Host.Outcome State Fault Refusal :=
  fibreOp len .leaves [] [] [] fun s c i x =>
    .moved (s.updCore c fun k => (k.setCtx i (x.advance len)).stopCtx i)
def execStop : State → Host.Outcome State Fault Refusal := stopOp 2
def execParcelStop : State → Host.Outcome State Fault Refusal := stopOp 1

/-! ### Block control (R139) -/

/-- R135: whether an entry of the buffer is left for a prefetch: one is kept for each existing context. -/
def Core.prefetchRoom (k : Core) : Bool :=
  let live := (List.range 32).filter fun i => (k.ctx i).st != .free
  let pre := k.blocks.filter fun b => live.all fun i => (k.ctx i).pcBlk != b.addr
  pre.length < 64 - live.length

/-- R139: `bfetch`. DESIGN CHOICE (notes/assumptions/107.md): a prefetch that misses translation sends the miss and leaves the fetch
to the jump; the Fibre goes on and is not TRANSLATING. R71, R373: in a signed block the slot it sets is undone with the block. -/
def execBfetch (a : VReg) (j : Bool) : State → Host.Outcome State Fault Refusal :=
  fibreOp 2 .plain [a.toNat] [] [] fun s c i x =>
    match fetchCheck (s.core c) x.lvl (c := x.v a.toNat) (tag := x.vtag a.toNat) with
    | .error (cause, addr) => .fault cause addr
    | .ok (b, o) =>
      let slot : Slot := { valid := true, blk := b, off := o }
      let s1 := s.setCtx c i (if j then { x with slot1 := slot } else { x with slot0 := slot })
      if (s1.core c).prefetchRoom then
        match s1.fetchBlock c x.lvl b with
        | .wait s2 => .retire s2
        | .miss va => .retire (s1.updCore c fun k => k.addMiss va .fetch)
        | _ => .retire s1
      else .retire s1

def execBjump (j : Bool) : State → Host.Outcome State Fault Refusal :=
  fibreOp 2 .leaves [] [] [] fun s c i x =>
    let slot := if j then x.slot1 else x.slot0
    if !slot.valid then .fault cFETCH 0
    else match transfer s c i slot.blk slot.off with
      | .moved s' => .moved (s'.updCtx c i fun y =>
          if j then { y with slot1 := {}, slot0 := if x.slot0.valid && x.slot0.blk == slot.blk then {} else x.slot0 }
          else { y with slot0 := {}, slot1 := if x.slot1.valid && x.slot1.blk == slot.blk then {} else x.slot1 })
      | r => r

/-- R139: `bjump.bc` returns a Spindle-allocated member to its stream. -/
def execBjumpBc : State → Host.Outcome State Fault Refusal :=
  fibreOp 2 .leaves [] [] [] fun s c i x =>
    if !x.mbr then .fault cILLINST 0
    else .moved (s.setCtx c i { x with
      bmode := true, pcOff := 0, streamPos := max (if x.bmode then x.streamPos + 1 else x.streamPos) ((s.core c).streamBase x) })

def execJr (a : VReg) : State → Host.Outcome State Fault Refusal :=
  fibreOp 2 .leaves [a.toNat] [] [] fun s c i x =>
    match fetchCheck (s.core c) x.lvl (c := x.v a.toNat) (tag := x.vtag a.toNat) with
    | .error (cause, addr) => .fault cause addr
    | .ok (b, o) => transfer s c i b o

/-! ### Peer links (R141) -/

/-- R141: what the core keeps of the SAVED context of an index. -/
def Core.savedAt (k : Core) (j : Nat) : Option SavedCtx := k.saved.find? fun e => e.idx == j
/-- R141: the peer word of index j; an index that no context occupies reports the SAVED one. -/
def Core.peerWord (k : Core) (j : Nat) : Nat :=
  if j ≥ 32 then 0xF * 2 ^ 13 + j % 32
  else
    let c := k.ctx j
    match if c.st == .free then k.savedAt j else none with
    | some e => e.name * 2 ^ 32 + b01 e.handle.isSome * 2 ^ 19 + 8 * 2 ^ 13 + e.inc.toNat * 2 ^ 5 + j
    | none => c.skein * 2 ^ 32 + b01 c.lvl * 2 ^ 20 + b01 c.mbr * 2 ^ 19 + c.st.ctorIdx * 2 ^ 13 + c.inc.toNat * 2 ^ 5 + j

def execPeer (a d : VReg) : State → Host.Outcome State Fault Refusal :=
  fibreOp 2 .plain [a.toNat] [d.toNat] [] fun s c i x =>
    .retire (s.setCtx c i (x.setV d.toNat ((s.core c).peerWord (x.vlo a.toNat))))

/-- R141: `peerw`. -/
def execPeerw (a : VReg) : State → Host.Outcome State Fault Refusal :=
  fibreOp 2 .wait [a.toNat] [] [] fun s c i x =>
    let v := x.vlo a.toNat
    let j := v % 32
    let p := (s.core c).ctx j
    if x.byDispatch then .fault cILLINST 0
    else if j = i then .fault cILLOPND 0
    else if x.lvl && !p.lvl && (p.st != .free || ((s.core c).savedAt j).isSome) then .fault cILLOPND 0
    else if v / 2 ^ 13 ≠ 0 then .fault cILLOPND 0
    else if p.inc.toNat ≠ bits v 12 5 || p.st == .stopped || p.st == .free then .retire s
    else .wait s .peer j [] (bits v 12 5) j

end Sys2Proof.Machine
end

