-- ==== Sys2Proof/Machine/Fetch.lean ====
section
/-! DEFINITION. Which Fibre or hart issues (R133, R147), and the instruction fetch of a hart (R146, R149). -/

namespace Sys2Proof.Machine

/-! ### Fibres (R133) -/

/-- R133: the contexts of a level that may issue in this cycle, from the one after the last selected. -/
def Core.candidates (k : Core) (u : Bool) : List Nat :=
  let p := if u then k.ptrU else k.ptrN
  ((List.range 32).map fun j => (p + 1 + j) % 32).filter fun i =>
    let c := k.ctx i
    c.st == .ready && c.lvl == u && !k.doneCtx.contains i

/-- R133, R161, R375: the Fibre that issues next in this cycle: urgent Fibres first. -/
def Core.pickFibre (k : Core) : Option Nat :=
  if k.stopped || k.slotsUsed ≥ 8 then none
  else match k.candidates true with
    | i :: _ => some i
    | [] => if k.level == .live then (k.candidates false).head? else none

/-- R131: a RUNNING context that its instruction leaves able to issue again is READY. -/
def Ctx.afterRun (x : Ctx) : Ctx := if x.st == .running then { x with st := .ready } else x

/-- R131, R133: after context i was selected: an issued instruction takes a slot and moves the pointer of its level; a
stalled one takes neither. -/
def State.afterIssue (s : State) (c i : Nat) : State :=
  let k := (s.core c).updCtx i Ctx.afterRun
  let k1 := { k with doneCtx := i :: k.doneCtx }
  let k2 := if s.stalled then k1
    else if (k.ctx i).lvl then { k1 with slotsUsed := k.slotsUsed + 1, ptrU := i }
    else { k1 with slotsUsed := k.slotsUsed + 1, ptrN := i }
  { s.setCore c k2 with stalled := false, cur := .env }

/-- A context that could not issue in this cycle. -/
def State.skipFibre (s : State) (c i : Nat) : State :=
  s.updCore c fun k => { k with doneCtx := i :: k.doneCtx }

/-- What the issue of a Fibre comes to before its instruction runs. -/
inductive FibreTurn where
  /-- The instruction, in the state it runs in. -/
  | run (i : Instr) (s : State)
  /-- Nothing issues. -/
  | idle (s : State)

/-- R133 to R138, R371: the instruction that context i of core c issues. -/
def State.fibreTurn (s : State) (c i : Nat) : FibreTurn :=
  let k := s.core c
  let x := k.ctx i
  match k.currentBlock x with
  | none => .idle ((s.updCore c fun k => k.stopAtTail i).skipFibre c i)
  | some b =>
    match s.fetchBlock c x.lvl b with
    | .ready d =>
      if x.signed.isNone && x.pcOff == 0 && (markerOf d).isSome then .idle (s.skipFibre c i)
      else .run (instrAt d x.pcOff)
        { s.setCtx c i { x with pcBlk := b, st := .running } with cur := .fibre c i, stalled := false }
    | .wait s' => .idle (s'.skipFibre c i)
    | .miss va => .idle ((s.setCtx c i { x with pcBlk := b }).startMiss c i va .fetch)
    | .fault cause => .idle ((s.setCtx c i { x with pcBlk := b }).takeFault c i cause (b + 2 * x.pcOff))

/-! ### Harts -/

/-- R149: whether n bytes at a fall within one capability that grants the permissions. -/
def capCovers (cap a n pm : Nat) : Bool :=
  let (b, t, p) := capDecode cap
  b ≤ a && a + n ≤ t && p &&& pm == pm

/-- R149: whether an access of a hart falls within one of its two ambient capabilities. -/
def Core.ambient (k : Core) (u : Bool) (a n pm : Nat) : Bool :=
  let d := k.ident u
  capCovers d.amb0.toNat a n pm || capCovers d.amb1.toNat a n pm

/-- R147: whether a hart executes: it is RUNNING, or it waits in `jd.skwait` or `jd.bcastw`, whose condition is tried
again. -/
def Hart.executes (h : Hart) : Bool :=
  h.st == .running || (h.st == .waiting && (h.wait == .skwait || h.wait == .bcastw))

/-- R147: whether a hart can issue. -/
def Core.hartReady (k : Core) (u : Bool) : Bool :=
  let h := k.hart u
  h.executes && h.pend.isNone && !h.naming && !k.stopped && (u || k.level == .live) &&
  (match h.missVa with
   | some va => !(k.tlb.misses.any fun m => m.va / 2 ^ 16 == va / 2 ^ 16)
   | none => true)

/-- R147: the hart that issues: hart U where it can, else hart N. -/
def Core.pickHart (k : Core) : Option Bool :=
  if k.hartReady true then some true else if k.hartReady false then some false else none

/-- The outcome of a fetch of a hart. -/
inductive HFetch where
  | ok (p : Nat) (s : State)
  | miss (va : Nat)
  | exc (cause mtval : Nat)

/-- R23: a line enters the instruction cache of 256 lines; the oldest leaves. -/
def Hart.cacheLine (h : Hart) (line : Nat) (d : List Byte) : Hart :=
  { h with icache := (line, d) :: h.icache.take 255 }

/-- R146, R149, R336: the parcel of a hart at an address, from its instruction cache or from memory; pc is the
instruction's address. -/
def State.fetchParcel (s : State) (c : Nat) (u : Bool) (pc a : Nat) : HFetch :=
  let k := s.core c
  let h := k.hart u
  if !k.ambient u a 2 permX then .exc 1 a
  else
    let line := a - a % 64
    match tabGet h.icache line with
    | some d => .ok ((d.getD (a % 64) 0#8).toNat + 256 * (d.getD (a % 64 + 1) 0#8).toNat) s
    | none =>
      match k.translate line .hfetch with
      | .miss => .miss a
      | .refused => .exc 1 a
      | .hit l =>
        if !s.ownerOk k.tenant l then .exc 1 a
        else match s.memOf l with
          | some (m, g, _, o) =>
            if m.poisoned g (o + a % 64) 2 then .exc 26 pc
            else
              let d := m.read o 64
              let s1 := if m.poisoned g o 64 then s else s.setHart c u (h.cacheLine line d)
              .ok ((d.getD (a % 64) 0#8).toNat + 256 * (d.getD (a % 64 + 1) 0#8).toNat) s1
          | none =>
            let (x, s1) := s.takeFree
            let d := bytesOf x 64
            .ok ((d.getD (a % 64) 0#8).toNat + 256 * (d.getD (a % 64 + 1) 0#8).toNat)
              (s1.setHart c u (h.cacheLine line d))

/-- R146: the 32 bits at a hart's program counter; a compressed instruction fetches its own parcel only. -/
def State.fetchHart (s : State) (c : Nat) (u : Bool) : HFetch :=
  let pc := (s.hart c u).pc.toNat
  match s.fetchParcel c u pc pc with
  | .ok p s1 =>
    if p % 4 = 3 then
      match s1.fetchParcel c u pc ((pc + 2) % 2 ^ 64) with
      | .ok q s2 => .ok (p + 65536 * q) s2
      | r => r
    else .ok p s1
  | r => r

/-- R146, R147: what the issue of hart u of core c comes to before its instruction runs. -/
def State.hartTurn (s : State) (c : Nat) (u : Bool) : FibreTurn :=
  match s.fetchHart c u with
  | .ok w s1 =>
    let (i, op) := decodeHart (BitVec.ofNat 32 w)
    .run i { s1 with cur := .hart c u, hop := op, hraw := BitVec.ofNat 32 w, stalled := false }
  | .miss va =>
    .idle (s.updCore c fun k => (k.setHart u { k.hart u with missVa := some va, missKind := AccKind.hfetch.code }).addMiss va .hfetch)
  | .exc cause v => .idle (s.takeException c u cause v)

end Sys2Proof.Machine
end

