-- ==== Sys2Proof/Machine/Group.lean ====
section
/-! DEFINITION. Holding registers (R222 to R224), sending deposits (R225, R226, R216, R346), and joining and leaving a
Skein (R220, R221). -/

namespace Sys2Proof.Machine

/-! ### Holding (R223) -/

/-- R223, R229: registers become HELD in a cycle. -/
def Ctx.hold (x : Ctx) (cycle : Nat) (rs : List Nat) : Ctx :=
  { rs.foldl (fun x r => x.setPres r .held) x with heldAt := some (cycle, rs) }

/-- R223: `hold`. -/
def execHold (d : VReg) : State → Host.Outcome State Fault Refusal :=
  fibreOp 2 .hold [] [d.toNat] [] fun s c i x => .retire (s.setCtx c i (x.hold (s.core c).counter [d.toNat]))

/-- R223: `holdm`. -/
def execHoldm (a : VReg) : State → Host.Outcome State Fault Refusal :=
  fibreOp 2 .hold [a.toNat] [] [] fun s c i x =>
    let rs := (List.range 64).filter fun r => (x.vlo a.toNat).testBit r
    match operandStop s c x .plain [] rs [] [] true with
    | some stop => stop
    | none => .retire (s.setCtx c i (x.hold (s.core c).counter rs))

/-- R223: the presence bitmap. -/
def Ctx.presBits (c : Ctx) : Nat :=
  packLanes 1 ((List.range 64).map fun r => b01 (r < c.nreg && (c.r.cell r).pres == .present))
/-- R223: `pres`. -/
def execPres (d : VReg) : State → Host.Outcome State Fault Refusal :=
  fibreOp 2 .plain [] [d.toNat] [] fun s c i x => .retire (s.setCtx c i (x.setV d.toNat x.presBits))

/-! ### Names of Skeins (R214, R215, R217) -/

/-- R214: the index and generation of a name. -/
def nameIndex (n : Nat) : Nat := bits n 23 8
def nameGen (n : Nat) : Nat := bits n 7 0
/-- R215: the name of an entry. -/
def State.nameOf (s : State) (idx : Nat) (e : NameEntry) : Nat := s.pkg * 2 ^ 24 + idx * 2 ^ 8 + e.gen
/-- R215: the entry that a name denotes, where its generation is current. -/
def State.nameEntry (s : State) (n : Nat) : Option NameEntry :=
  match tabGet s.agent.names (nameIndex n) with
  | some e => if e.gen == nameGen n && bits n 31 24 == s.pkg && e.st != .free then some e else none
  | none => none
/-- Replaces an entry of the name table. -/
def State.setName (s : State) (idx : Nat) (e : NameEntry) : State :=
  { s with agent := { s.agent with names := tabSet s.agent.names idx e } }
/-- R215: an index is free again, as the latest of its range. -/
def NameRange.release (r : NameRange) (idx : Nat) : NameRange :=
  if r.first ≤ idx && idx < r.first + r.count && !r.free.contains idx then { r with free := r.free ++ [idx] } else r
/-- R217: a name becomes EXITED, and its index is free again. -/
def State.exitName (s : State) (n : Nat) : State :=
  match s.nameEntry n with
  | some e =>
    let s1 := s.setName (nameIndex n) { e with st := .exited }
    { s1 with agent := { s1.agent with ranges := s1.agent.ranges.map (·.release (nameIndex n)) } }
  | none => s
/-- R217: names of Skeins that were resident before and are no longer become EXITED. -/
def State.exitGone (s : State) (before : List Resident) (c : Nat) : State :=
  (before.filter fun r => !((s.core c).residents.any fun q => q.name == r.name)).foldl (fun s r => s.exitName r.name) s

/-! ### Deposits (R216, R226, R346) -/

/-- R345: the neighbour of a core in a direction. -/
def neighbour (c : Nat) (d : Dir) : Nat :=
  let x := coreX c
  let y := coreY c
  match d with
  | .north => ((y + 47) % 48) * 48 + x
  | .south => ((y + 1) % 48) * 48 + x
  | .east => y * 48 + (x + 1) % 48
  | .west => y * 48 + (x + 47) % 48
/-- R345, R346: what a core keeps for the link in a direction: its credits, the beats of its first deposit that have left,
and whether the last beat was of a rotation. -/
def Ports.credit (p : Ports) (d : Dir) : Nat := p.credits.toList.getD d.ctorIdx 0
def Ports.sentAt (p : Ports) (d : Dir) : Nat := p.sent.toList.getD d.ctorIdx 0
def Ports.turnedAt (p : Ports) (d : Dir) : Bool := p.turned.toList.getD d.ctorIdx false
def Ports.addCredit (p : Ports) (d : Dir) (n : Int) : Ports :=
  if h : d.ctorIdx < 4 then { p with credits := p.credits.set d.ctorIdx (trunc (p.credits[d.ctorIdx] + n) 8) } else p
def Ports.setSent (p : Ports) (d : Dir) (n : Nat) : Ports :=
  if h : d.ctorIdx < 4 then { p with sent := p.sent.set d.ctorIdx n } else p
def Ports.setTurned (p : Ports) (d : Dir) (b : Bool) : Ports :=
  if h : d.ctorIdx < 4 then { p with turned := p.turned.set d.ctorIdx b } else p
/-- R367: the deposits on the links of a core are dropped; a beat of one that has left in part frees its port. -/
def Ports.drop (p : Ports) : Ports :=
  let back := [Dir.north, .south, .east, .west].foldl (fun q d => q.addCredit d (p.sentAt d)) p
  { back with inbound := [], outbound := [], sent := Vector.replicate 4 0 }
/-- R345: the opposite direction. -/
def Dir.opposite : Sys2Proof.Dir → Sys2Proof.Dir
  | .north => .south | .south => .north | .east => .west | .west => .east
/-- R346: the direction of a neighbouring core. -/
def dirTo (c h : Nat) : Option Sys2Proof.Dir :=
  ([Sys2Proof.Dir.north, .south, .east, .west]).find? fun d => neighbour c d == h

/-- R216: a hit of the name cache becomes the most recently used entry. -/
def Core.useName (k : Core) (n : Nat) : Core :=
  match k.nameCache.find? fun e => e.1 == n with
  | some e => { k with nameCache := e :: k.nameCache.filter fun f => f.1 != n }
  | none => k

/-- R216: the least code by which a name cache keeps a holder in another package: 2^20 plus its core address. -/
def farHolder : Nat := 2 ^ 20
/-- R366: whether a deposit of core c goes outside the rectangle that holds it: the core that its name cache names, or
else the holder in the name table, lies outside, or is not known (notes/assumptions/33.md). -/
def State.depositLeaves (s : State) (c : Nat) (m : Msg) : Bool :=
  let holder : Option Nat := match (s.core c).nameCache.find? fun e => e.1 == m.dest with
    | some e => some e.2
    | none => (s.nameEntry m.dest).map (·.core)
  match holder, s.fenceOf c with
  | some h, some f => !f.holds h
  | some h, none => h != c
  | none, _ => true

/-- R216, R226, R346: core c posts a deposit: on the side link to a neighbour that its name cache names, to the cached
core, or to the name server of the name; that of a fenced core to a core outside its rectangle is refused (R366). -/
def State.postDeposit (s : State) (c : Nat) (m : Msg) : State :=
  let s1 := s.updCore c (Core.countSent · m.prio)
  if s.coreFenced c && s.depositLeaves c m then s1.fenceRefuse c m
  else match (s.core c).nameCache.find? fun e => e.1 == m.dest with
  | some (_, h) =>
    let s2 := s1.updCore c (Core.useName · m.dest)
    -- the holder in another package is reached through a gateway
    if h ≥ farHolder then s2.inject (coreX c) (coreY c) (s2.route (coreX c) (coreY c) m) m
    else match dirTo c h with
    | some d => s2.updCore c fun k => { k with side := { k.side with outbound := k.side.outbound ++ [(d, m)] } }
    | none => s2.inject (coreX c) (coreY c) (coreEndpoint h) m
  | none => s1.inject (coreX c) (coreY c) (s1.route (coreX c) (coreY c) m) m

/-- R231: posts the messages and deposits of core c that nothing holds back any more. -/
def State.flushAll (s : State) (c : Nat) : State :=
  let k := s.core c
  let ready := k.heldMsgs.filter fun h => !s.anyPending c h.after
  let s1 := if ready.isEmpty then s
    else s.updCore c fun k => { k with heldMsgs := k.heldMsgs.filter fun h => s.anyPending c h.after }
  ready.foldl (fun s h => if h.msg.dkind = 1 then s.postDeposit c h.msg else s.post c h.msg) s1

/-- R226: the fields of a deposit descriptor that must be as stated. -/
def depositOk (d : Nat) (g : Bool) : Bool :=
  bits d 63 54 == 0 && !bit d 43 && bits d 53 44 != 0 && bits d 53 44 ≤ 511 && bits d 23 8 != 0 &&
  (!g || bits d 38 37 == 0)

/-- R231, R291: what a `.rel` deposit waits for: the earlier accesses of the Fibre, reads too, since a release follows what the
Fibre did before it, and its earlier deposits. -/
def State.depositAfter (s : State) (c i : Nat) : List Nat :=
  (s.ctxReqs c i).map (·.id) ++
  (((s.core c).ctxEntries i).filter (·.isDeposit)).map (·.id)

/-- R226: the four deposit instructions. -/
def depositOp (g rel : Bool) (b a : VReg) : State → Host.Outcome State Fault Refusal :=
  let n := if g then 4 else 1
  fibreOp 2 .writeOp (a.toNat :: regSpan b.toNat n) [] (if g then [(b.toNat, 4)] else []) fun s c i x =>
    let d := x.vlo a.toNat
    if !depositOk d g then .fault cMSGDESC d
    else if !s.canSend c x.lvl true then .stall s
    else
      let w := bits d 36 32 + bits d 42 37 * 2 ^ 8 + b01 g * 2 ^ 16 + b01 rel * 2 ^ 17
      let m (_ : Nat) : Msg := {
        flags := 2 ^ flagDeposit, rchan := bits d 53 44, plen := 2 + 3 * b01 g, prio := x.lvl, dest := bits d 31 0
        dkind := 1, payload := bytesOf w 16 ++ x.payload b.toNat n }
      let after := if rel then s.depositAfter c i else []
      let s1 := s.sendRequest c x.lvl true m (.channel (bits d 53 44)) (some i) true (some after)
      .retire (s1.flushAll c)
def execRstv (b a : VReg) : State → Host.Outcome State Fault Refusal := depositOp false false b a
def execRstv4 (b a : VReg) : State → Host.Outcome State Fault Refusal := depositOp true false b a
def execRstvRel (b a : VReg) : State → Host.Outcome State Fault Refusal := depositOp false true b a
def execRstv4Rel (b a : VReg) : State → Host.Outcome State Fault Refusal := depositOp true true b a

/-! ### Joining and leaving (R220, R221) -/

/-- Four .z32 lanes. -/
def lanes4 (a b c d : Nat) : Nat := packLanes 32 [a, b, c, d]
/-- R215, R220: a request for a name, whose answer goes to register d of context i. -/
def State.askName (s : State) (c i d : Nat) : State :=
  let k := s.core c
  let x := s.ctx c i
  let e : Entry := { x := k.freeEntry, id := s.nextReq, seq := 65536, lvl := x.lvl, slot := false
                     ans := .join i x.inc.toNat d, ctx := some i }
  let q : NameReq := { core := c, ctx := some i, handle := none, inc := x.inc.toNat, urgent := x.lvl }
  let s1 := { s with nextReq := s.nextReq + 1, agent := { s.agent with nameReqs := s.agent.nameReqs ++ [q] } }
  (s1.updCore c fun k => { k with table := k.table ++ [e] }).setCtx c i (x.setPres d .pending)
/-- R217: whether a name is that of a LIVE Skein. -/
def State.isLive (s : State) (n : Nat) : Bool := (s.nameEntry n).any fun e => e.st == .live
/-- R220: `join`. In a signed block the membership, and the request for a name, are held (notes/assumptions/104.md). -/
def execJoin (a d : VReg) : State → Host.Outcome State Fault Refusal :=
  fibreOp 2 .plain [a.toNat] [d.toNat] [] fun s c i x =>
    let n := x.vlo a.toNat
    let k := (s.core c).sigView i
    let y := k.ctx i
    if n ≥ 2 ^ 32 then .fault cMSGDESC n
    else if y.mbr || y.skein != 0 then .retire (s.setCtx c i (x.setV d.toNat (lanes4 0 0 3 0)))
    else if n != 0 then
      if !((k.residents.any fun r => r.name == n && r.lvl == x.lvl) && s.isLive n) then
        .retire (s.setCtx c i (x.setV d.toNat (lanes4 0 0 3 0)))
      else if (k.members n).length ≥ 32 then .retire (s.setCtx c i (x.setV d.toNat (lanes4 n 0 1 0)))
      else
        let r := k.vacantRank n
        .retire ((s.effect c i (.join n r)).updCtx c i fun z => z.setV d.toNat (lanes4 n r 0 0))
    else if !s.entriesFree c 1 then .stall s
    else .retire (match x.signed with
      | none => s.askName c i d.toNat
      | some _ => (s.effect c i (.named d.toNat)).updCtx c i fun z => z.setPres d.toNat .pending)

/-- R55: HELD registers become PRESENT. -/
def Ctx.unhold (x : Ctx) : Ctx :=
  { x with r := { x.r with regs := x.r.regs.map fun v => if v.pres == .held then { v with pres := .present } else v } }
/-- R221: `leave`. In a signed block the membership ends at the check; presence is not held. -/
def execLeave (d : VReg) : State → Host.Outcome State Fault Refusal :=
  fibreOp 2 .plain [] [d.toNat] [] fun s c i x =>
    let y := ((s.core c).sigView i).ctx i
    if !y.joined then .retire (s.setCtx c i (x.setV d.toNat (lanes4 0 0 3 0)))
    else
      let s1 := (s.effect c i .leave).exitGone (s.core c).residents c
      .retire (s1.updCtx c i fun z => z.unhold.setV d.toNat (lanes4 y.skein y.rank 0 0))

end Sys2Proof.Machine
end

