-- ==== Sys2Proof/Machine/Skimmer.lean ====
section
/-! DEFINITION. The Skimmer: boxes, puts and drop notices (R208 to R212) and the Fibre instructions (R213). -/

namespace Sys2Proof.Machine

/-- A box of a core. -/
def Core.box (k : Core) (b : Nat) : SkBox := if h : b < 16 then k.boxes[b] else {}
/-- Replaces a box. -/
def Core.setBox (k : Core) (b : Nat) (x : SkBox) : Core := if h : b < 16 then { k with boxes := k.boxes.set b x } else k

/-- R209: whether e1 ranks above e2. -/
def SkEntry.above (e1 e2 : SkEntry) : Bool :=
  e1.key > e2.key || (e1.key == e2.key && (e1.tb < e2.tb || (e1.tb == e2.tb && e1.value < e2.value)))
/-- R209: the 16 bytes of an entry as a number. -/
def SkEntry.bits (e : SkEntry) : Nat := e.key + e.tb * 2 ^ 32 + e.value * 2 ^ 64
/-- R210: inserts at its rank. -/
def skInsert (e : SkEntry) : List SkEntry → List SkEntry
  | [] => [e]
  | f :: r => if f.above e then f :: skInsert e r else e :: f :: r

/-- R208: the pool entries that a box occupies. -/
def SkBox.span (b : SkBox) : Nat := if b.mode then b.depth else 8
/-- R208: the box that a configuration word describes, with no entries. -/
def SkBox.ofWord (w : Nat) : SkBox :=
  { depth := bits w 8 0, mode := bit w 9, dn := bit w 10, on := bit w 11, first := bits w 20 12 }
/-- R208: the configuration word of a box. -/
def SkBox.word (b : SkBox) : Nat :=
  b.depth + b01 b.mode * 2 ^ 9 + b01 b.dn * 2 ^ 10 + b01 b.on * 2 ^ 11 + b.first * 2 ^ 12 + b.entries.length * 2 ^ 21 +
  b.ndrop * 2 ^ 30
/-- R208: whether box b of a core may take a configuration. -/
def Core.boxOk (k : Core) (b : Nat) (x : SkBox) : Bool :=
  !x.on ||
  (1 ≤ x.depth && x.depth ≤ (if x.mode then 256 else 8) && x.first + x.span ≤ 512 &&
   (List.range 16).all fun j =>
     j == b || !(k.box j).on || x.first + x.span ≤ (k.box j).first || (k.box j).first + (k.box j).span ≤ x.first)
/-- R213: configures box b; false where R208 is broken. -/
def Core.skConfig (k : Core) (b w : Nat) : Core × Bool :=
  let x := SkBox.ofWord w
  if k.boxOk b x then (k.setBox b x, true) else (k, false)
/-- R213: takes the entry of a rank of box b: the entry, and the box's count after. -/
def Core.skTake (k : Core) (b rank : Nat) (remove : Bool) : Core × Option SkEntry × Nat :=
  let x := k.box b
  match if x.on then x.entries[rank]? else none with
  | none => (k, none, x.entries.length)
  | some e =>
    let x1 := if remove then { x with entries := x.entries.eraseIdx rank } else x
    (k.setBox b x1, some e, x1.entries.length)

/-- R210: the count of dropped entries saturates. -/
def SkBox.drop (b : SkBox) : SkBox := { b with ndrop := min (b.ndrop + 1) (2 ^ 24 - 1) }
/-- R210: inserts a put: the box, and the entry dropped with its reason. A box that is not on keeps nothing
(notes/assumptions/30.md). -/
def SkBox.put (b : SkBox) (e : SkEntry) : SkBox × Option (SkEntry × Nat) :=
  if !b.on then (b.drop, some (e, 0))
  else if b.entries.length < b.depth then ({ b with entries := skInsert e b.entries }, none)
  else match b.entries.getLast? with
    | some l =>
      if e.above l then ({ b.drop with entries := skInsert e b.entries.dropLast }, some (l, 1))
      else (b.drop, some (e, 0))
    | none => (b.drop, some (e, 0))

/-- R210: sends a drop notice. DESIGN CHOICE (notes/assumptions/108.md): bytes 22 to 31 of its payload are zero. -/
def State.skNotice (s : State) (c box : Nat) (e : SkEntry) (reason : Nat) : State :=
  let m (_ : Nat) : Msg := {
    plen := 2, prio := e.lvl, chan := e.rchan, dest := e.rcore
    payload := bytesOf e.bits 16 ++ bytesOf (s.addrOf c) 4 ++ bytesOf box 1 ++ bytesOf reason 1 ++ List.replicate 10 0#8 }
  (s.sendRequest c e.lvl true m .notice none).updCore c fun k => { k with notices := k.notices + 1 }

/-- R209: the entry that a put delivers. DESIGN CHOICE (notes/assumptions/108.md): of a message whose plen is not 1, the first 16
bytes of the payload, with zeros past it. -/
def Msg.skEntry (m : Msg) : SkEntry :=
  let p := ofBytes m.payload
  { key := bits p 31 0, tb := bits p 63 32, value := bits p 127 64, rcore := m.rcore, rchan := m.rchan, lvl := m.prio }
/-- R210: the box after a put, the entry and reason of the drop notice to send, if any. DESIGN CHOICE
(notes/assumptions/108.md): a poisoned put is inserted as any other. -/
def Core.skInsertion (k : Core) (m : Msg) (box : Nat) : SkBox × Option (SkEntry × Nat) :=
  let b := k.box box
  let (b1, out) := b.put m.skEntry
  (b1, out.filter fun d => b.dn && d.1.rchan != 0)
/-- R210: whether the Skimmer of a core takes its oldest put now: not while 64 notices are out, and a put that sends a
notice not before R177 lets it (notes/assumptions/30.md). -/
def State.skReady (s : State) (c : Nat) : Bool :=
  let k := s.core c
  match k.puts with
  | [] => false
  | (m, box) :: _ => k.notices < 64 && (match (k.skInsertion m box).2 with
    | some (d, _) => s.canSend c d.lvl true
    | none => true)

/-- R210: the Skimmer of a core takes its oldest put. -/
def execSkimmerPut : State → Host.Outcome State Fault Refusal := fun s =>
  let c := s.ev.core
  let k := s.core c
  match k.puts with
  | [] => .next s
  | (m, box) :: rest =>
    if c ≥ numCores || !s.skReady c then .next s
    else
      let (b1, out) := k.skInsertion m box
      let s1 := s.setCore c ({ k with puts := rest }.setBox box b1)
      match out with
      | some (d, reason) => .next (s1.skNotice c box d reason)
      | none => .next s1

/-! ### Fibre instructions (R213) -/

/-- R213: `skm.cfg`; an arrived put goes first (R212). DESIGN CHOICE (notes/assumptions/108.md): bits of vs1 that no form uses
are judged for each instruction: here those above bit 3, in `skm.take` those above bit 12. -/
def execSkmCfg (b a d : VReg) : State → Host.Outcome State Fault Refusal :=
  fibreOp 2 .writeOp [a.toNat, b.toNat] [d.toNat] [] fun s c i x =>
    let v := x.v a.toNat
    if v ≥ 16 then .fault cMSGDESC (v % 2 ^ 64)
    else if s.skReady c then .stall s
    else
      let (k, ok) := (s.core c).skConfig v (x.v b.toNat)
      .retire ((s.setCore c k).setCtx c i (x.setV d.toNat (setBits (x.v d.toNat) 0 64 (b01 !ok))))
/-- R213: `skm.put`. -/
def execSkmPut (b a : VReg) : State → Host.Outcome State Fault Refusal :=
  fibreOp 2 .writeOp [a.toNat, b.toNat] [] [] fun s c i x =>
    let d := x.vlo a.toNat
    if !descOk' d 4 || descPlen d != 1 || x.v a.toNat ≥ 2 ^ 64 then .fault cMSGDESC d
    else if !s.canSend c (descPrio d) true then .stall s
    else .retire (s.sendRequest c (descPrio d) true (fun _ => descMsg d (descRchan d) (x.payload b.toNat 1))
      (.channel (answerChan d)) (some i))
/-- R213: `skm.take`; an arrived put goes first (R212). -/
def execSkmTake (a d : VReg) : State → Host.Outcome State Fault Refusal :=
  fibreOp 2 .writeOp [a.toNat] [d.toNat, d.toNat + 1] [(d.toNat, 2)] fun s c i x =>
    let v := x.v a.toNat
    if v ≥ 2 ^ 13 then .fault cMSGDESC (v % 2 ^ 64)
    else if s.skReady c then .stall s
    else
      let (k, e, n) := (s.core c).skTake (v % 16) (bits v 11 4) (bit v 12)
      .retire ((s.setCore c k).setCtx c i
        ((x.setV d.toNat (e.elim 0 SkEntry.bits)).setV (d.toNat + 1) (lanes4 n (b01 e.isSome) 0 0)))

end Sys2Proof.Machine
end

