-- ==== Sys2Proof/Machine/Hart.lean ====
section
/-! DEFINITION. The RISC-V instructions of the Spindle harts: integer operations, control flow, CSRs (R146, R148), loads,
stores, atomics, reservations and fences (R149, R270, R284, R286), user interrupts (R150) and `jd.uiret`, `jd.trap`,
`jd.fence` (R151, R285). -/

namespace Sys2Proof.Machine

/-! ### The outcome of a hart instruction -/

/-- What an instruction of a hart does when it issues. -/
inductive HIssue where
  /-- It retires; the program counter moves past it. -/
  | retire (s : State)
  /-- It retires and jumps. -/
  | jump (s : State) (pc : Word)
  /-- It raises an exception at its own address. -/
  | exc (s : State) (cause mtval : Nat)
  /-- It has issued and not retired: it waits in `jd.recv`, or awaits an answer. -/
  | hold (s : State)
  /-- It could not issue. -/
  | stall (s : State)
  /-- It misses the translation buffer. -/
  | miss (va : Nat) (kind : AccKind)

/-- R146, R148: the hart retires an instruction and goes on at an address. -/
def Hart.retireTo (h : Hart) (pc : Word) : Hart :=
  { h with pc := pc, instret := h.instret + 1#64, wait := .none, missVa := none
           st := if h.st == .waiting then .running else h.st }

/-- The state after an instruction of hart u of core c that issued with an outcome. -/
def HIssue.finish (r : HIssue) (s : State) (c : Nat) (u : Bool) (len : Nat) : State :=
  match r with
  | .retire s' => s'.updHart c u fun h => h.retireTo (h.pc + BitVec.ofNat 64 len)
  | .jump s' pc => s'.updHart c u fun h => h.retireTo pc
  | .exc s' cause v => (s'.updHart c u fun h => { h with missVa := none }).takeException c u cause v
  | .hold s' => s'.updHart c u fun h => { h with missVa := none }
  | .stall s' => { s'.updHart c u fun h => { h with missVa := none } with stalled := true }
  | .miss va kind => s.updCore c fun k => (k.setHart u { k.hart u with missVa := some va, missKind := kind.code }).addMiss va kind

/-- R146: the bytes of the instruction whose first bits are given. -/
def hartLen (w : BitVec 32) : Nat := if hartIsWord w then 4 else 2

/-- An instruction of a hart. -/
def hartOp (body : State → Nat → Bool → Hart → HIssue) (s : State) : Host.Outcome State Fault Refusal :=
  match s.cur with
  | .hart c u => .next ((body s c u (s.hart c u)).finish s c u (hartLen s.hraw))
  | _ => .fault .notThisParty

/-- R74, R146: cause 2 with the word. -/
def illegalWord (s : State) : HIssue := .exc s 2 s.hraw.toNat

/-- An instruction of a hart on two register values; its result goes to rd. -/
def hartPure (d : XReg) (f : Hart → Word) : State → Host.Outcome State Fault Refusal :=
  hartOp fun s c u h => .retire (s.setHart c u (h.set d (f h)))

/-! ### Integer operations (RV64IM, Zba, Zbb; R146) -/

/-- A 32-bit result, sign-extended. -/
def word32 (x : Word) : Word := (x.setWidth 32).signExtend 64
/-- The low half of a register. -/
def lo32 (x : Word) : BitVec 32 := x.setWidth 32
/-- Division that rounds toward zero; by zero all ones. -/
def divS {w : Nat} (a b : BitVec w) : BitVec w := if b = 0 then BitVec.allOnes w else a.sdiv b
def divU {w : Nat} (a b : BitVec w) : BitVec w := if b = 0 then BitVec.allOnes w else a / b
/-- The remainder of `divS`; by zero the dividend. -/
def remS {w : Nat} (a b : BitVec w) : BitVec w := if b = 0 then a else a.srem b
def remU {w : Nat} (a b : BitVec w) : BitVec w := if b = 0 then a else a % b
/-- The high half of a product. -/
def mulHigh (a b : Int) : Word := BitVec.ofInt 64 ((a * b) / 2 ^ 64)
/-- 1 or 0. -/
def boolW (b : Bool) : Word := if b then 1#64 else 0#64

/-- A two-register operation. -/
def rvRRval (op : RvRR) (a b : Word) : Word :=
  match op with
  | .add => a + b | .sub => a - b
  | .sll => a <<< (b.toNat % 64) | .srl => a >>> (b.toNat % 64) | .sra => a.sshiftRight (b.toNat % 64)
  | .slt => boolW (a.slt b) | .sltu => boolW (a.ult b)
  | .xor => a ^^^ b | .or => a ||| b | .and => a &&& b
  | .addw => word32 (a + b) | .subw => word32 (a - b)
  | .sllw => (lo32 a <<< (b.toNat % 32)).signExtend 64
  | .srlw => (lo32 a >>> (b.toNat % 32)).signExtend 64
  | .sraw => ((lo32 a).sshiftRight (b.toNat % 32)).signExtend 64
  | .mul => a * b
  | .mulh => mulHigh a.toInt b.toInt
  | .mulhsu => mulHigh a.toInt b.toNat
  | .mulhu => mulHigh a.toNat b.toNat
  | .div => divS a b | .divu => divU a b | .rem => remS a b | .remu => remU a b
  | .mulw => word32 (a * b)
  | .divw => (divS (lo32 a) (lo32 b)).signExtend 64
  | .divuw => (divU (lo32 a) (lo32 b)).signExtend 64
  | .remw => (remS (lo32 a) (lo32 b)).signExtend 64
  | .remuw => (remU (lo32 a) (lo32 b)).signExtend 64
  | .addUw => b + (lo32 a).setWidth 64
  | .sh1add => b + (a <<< 1) | .sh2add => b + (a <<< 2) | .sh3add => b + (a <<< 3)
  | .sh1addUw => b + ((lo32 a).setWidth 64 <<< 1)
  | .sh2addUw => b + ((lo32 a).setWidth 64 <<< 2)
  | .sh3addUw => b + ((lo32 a).setWidth 64 <<< 3)
  | .andn => a &&& ~~~b | .orn => a ||| ~~~b | .xnor => ~~~(a ^^^ b)
  | .max => if a.slt b then b else a | .maxu => if a.ult b then b else a
  | .min => if b.slt a then b else a | .minu => if b.ult a then b else a
  | .rol => a.rotateLeft (b.toNat % 64) | .ror => a.rotateRight (b.toNat % 64)
  | .rolw => ((lo32 a).rotateLeft (b.toNat % 32)).signExtend 64
  | .rorw => ((lo32 a).rotateRight (b.toNat % 32)).signExtend 64

/-- A register-immediate operation; i is the 12-bit immediate or the shift amount. -/
def rvRIval (op : RvRI) (a : Word) (i : BitVec 12) : Word :=
  let v : Word := i.signExtend 64
  let n := i.toNat
  match op with
  | .addi => a + v | .slti => boolW (a.slt v) | .sltiu => boolW (a.ult v)
  | .xori => a ^^^ v | .ori => a ||| v | .andi => a &&& v
  | .slli => a <<< (n % 64) | .srli => a >>> (n % 64) | .srai => a.sshiftRight (n % 64)
  | .addiw => word32 (a + v)
  | .slliw => (lo32 a <<< (n % 32)).signExtend 64
  | .srliw => (lo32 a >>> (n % 32)).signExtend 64
  | .sraiw => ((lo32 a).sshiftRight (n % 32)).signExtend 64
  | .slliUw => (lo32 a).setWidth 64 <<< (n % 64)
  | .rori => a.rotateRight (n % 64)
  | .roriw => ((lo32 a).rotateRight (n % 32)).signExtend 64

/-- Leading zeros of the low w bits. -/
def clzN (x w : Nat) : Nat := w - bitLength (x % 2 ^ w)
/-- Trailing zeros of the low w bits. -/
def ctzN (x w : Nat) : Nat := ((List.range w).find? fun i => x.testBit i).getD w
/-- Ones among the low w bits. -/
def cpopN (x w : Nat) : Nat := ((List.range w).filter fun i => x.testBit i).length

/-- A one-register operation. -/
def rvRval (op : RvR) (a : Word) : Word :=
  match op with
  | .clz => BitVec.ofNat 64 (clzN a.toNat 64) | .ctz => BitVec.ofNat 64 (ctzN a.toNat 64)
  | .cpop => BitVec.ofNat 64 (cpopN a.toNat 64)
  | .clzw => BitVec.ofNat 64 (clzN a.toNat 32) | .ctzw => BitVec.ofNat 64 (ctzN a.toNat 32)
  | .cpopw => BitVec.ofNat 64 (cpopN a.toNat 32)
  | .sextB => (a.setWidth 8).signExtend 64 | .sextH => (a.setWidth 16).signExtend 64
  | .zextH => (a.setWidth 16).setWidth 64
  | .orcB => BitVec.ofNat 64 (ofBytes ((bytesOf a.toNat 8).map fun b => if b = 0#8 then 0#8 else 0xFF#8))
  | .rev8 => BitVec.ofNat 64 (ofBytes (bytesOf a.toNat 8).reverse)

/-- Whether a branch is taken. -/
def rvTaken (op : RvBr) (a b : Word) : Bool :=
  match op with
  | .beq => a == b | .bne => a != b | .blt => a.slt b | .bge => !a.slt b | .bltu => a.ult b | .bgeu => !a.ult b

/-! ### CSRs (R148) -/

/-- R59, R148: the assigned identity selectors. -/
def identAssigned (sel : Nat) : Bool :=
  sel ≤ 0x0A || (0x10 ≤ sel && sel ≤ 0x14) || (0x18 ≤ sel && sel ≤ 0x1C) || (0x20 ≤ sel && sel ≤ 0x23)

/-- R146, R148: the value of a CSR; none for one that the hart does not have. -/
def State.csrRead (s : State) (c : Nat) (u : Bool) (csr : Nat) : Option Nat :=
  let k := s.core c
  let h := k.hart u
  let d := k.ident u
  match csr with
  | 0xC00 => some k.counter
  | 0xC02 => some h.instret.toNat
  | 0x800 => some h.jdivec.toNat
  | 0x801 => some (b01 h.jdieE + 2 * b01 h.jdieA)
  | 0x802 => some h.jdepc.toNat
  | 0x803 => some h.jdimsg.toNat
  | 0xCC0 => some (d.amb0.toNat % 2 ^ 64)
  | 0xCC1 => some (d.amb0.toNat / 2 ^ 64)
  | 0xCC2 => some (d.amb1.toNat % 2 ^ 64)
  | 0xCC3 => some (d.amb1.toNat / 2 ^ 64)
  | 0xCC4 => some (b01 u)
  | 0xCC6 => some d.jdcwb
  | 0xCC7 => some d.jdcwl
  | n => if 0xCD0 ≤ n && n ≤ 0xCF3 && identAssigned (n - 0xCD0) then
      some (s.identity c u (n - 0xCD0) (32 + b01 u) 0 0) else none

/-- R148: a write to a CSR; none where it is read-only or absent. -/
def Hart.csrWrite (h : Hart) (csr : Nat) (v : Word) : Option Hart :=
  match csr with
  | 0x800 => some { h with jdivec := v &&& ~~~3#64 }
  | 0x801 => some { h with jdieE := v.getLsbD 0 }
  | 0x802 => some { h with jdepc := v &&& ~~~1#64 }
  | _ => none

/-- R148: a Zicsr instruction that writes. -/
def execCsrWrite : State → Host.Outcome State Fault Refusal :=
  hartOp fun s c u h =>
    match s.hop with
    | .csr op imm csr d a =>
      match s.csrRead c u csr.toNat with
      | none => illegalWord s
      | some old =>
        let src : Word := if imm then BitVec.ofNat 64 a.toNat else h.get a
        let o := BitVec.ofNat 64 old
        let v := match op with | .rw => src | .rs => o ||| src | .rc => o &&& ~~~src
        match h.csrWrite csr.toNat v with
        | some h' => .retire (s.setHart c u (h'.set d o))
        | none => illegalWord s
    | _ => illegalWord s

/-- R146: an ordinary instruction of the harts. -/
def execRv64imacInstruction : State → Host.Outcome State Fault Refusal :=
  hartOp fun s c u h =>
    let put (d : XReg) (v : Word) : HIssue := .retire (s.setHart c u (h.set d v))
    let next := h.pc + BitVec.ofNat 64 (hartLen s.hraw)
    match s.hop with
    | .rv (.rr op d a b) _ => put d (rvRRval op (h.get a) (h.get b))
    | .rv (.ri op d a i) _ => put d (rvRIval op (h.get a) i)
    | .rv (.r op d a) _ => put d (rvRval op (h.get a))
    | .rv (.lui d i) _ => put d ((i ++ 0#12).signExtend 64)
    | .rv (.auipc d i) _ => put d (h.pc + (i ++ 0#12).signExtend 64)
    | .rv (.jal d off) _ => .jump (s.setHart c u (h.set d next)) (h.pc + off.signExtend 64)
    | .rv (.jalr d a i) _ => .jump (s.setHart c u (h.set d next)) ((h.get a + i.signExtend 64) &&& ~~~1#64)
    | .rv (.br op a b off) _ =>
      if rvTaken op (h.get a) (h.get b) then .jump s (h.pc + off.signExtend 64) else .retire s
    | .rv .ebreak _ => .exc s 3 h.pc.toNat
    | .rv (.csrRead csr d) _ =>
      match s.csrRead c u csr.toNat with
      | some v => put d (BitVec.ofNat 64 v)
      | none => illegalWord s
    | _ => illegalWord s

/-- R146: `ecall`. -/
def execEcall : State → Host.Outcome State Fault Refusal := hartOp fun s _ _ _ => .exc s 8 0
/-- R146: `wfi`. -/
def execWfi : State → Host.Outcome State Fault Refusal := hartOp fun s _ _ _ => illegalWord s
/-- R74: an unassigned custom-space word, or an F or D encoding. -/
def execUnassignedCustomWord : State → Host.Outcome State Fault Refusal := hartOp fun s _ _ _ => illegalWord s
/-- R151: `jd.trap`. -/
def execJdTrap (a : XReg) : State → Host.Outcome State Fault Refusal := hartOp fun s _ _ h => .exc s 24 (h.getN a)
/-- R151: `jd.uiret`. -/
def execJdUiret : State → Host.Outcome State Fault Refusal :=
  hartOp fun s c u h => if h.jdieA then .jump (s.setHart c u { h with jdieA := false }) h.jdepc else illegalWord s

/-! ### The handler table window (R185, R187, R270) -/

/-- R185: the bits of an entry that a store may change. -/
def entWritable : Nat :=
  (2 ^ 256 - 2 ^ 128) + (2 ^ 78 - 2 ^ 73) + (2 ^ 72 - 2 ^ 70) + (2 ^ 70 - 2 ^ 63) + (2 ^ 60 - 2 ^ 6)
/-- R6, R185: an entry without its reserved bits. -/
def entClean (v : Nat) : Nat := v &&& (2 ^ 256 - 1 - (2 ^ 128 - 2 ^ 80) - 2 ^ 78 - (2 ^ 63 - 2 ^ 60) - (2 ^ 6 - 1))
/-- R185, R187: the entry after bits `mask` are stored as those of x by a party of a level; none where R187 refuses. -/
def Core.storeEntry (k : Core) (u : Bool) (ch x mask : Nat) : Option Core :=
  let old := k.entry ch
  let m := mask &&& entWritable
  let new := (x &&& m) ||| (old &&& (2 ^ 256 - 1 - m))
  let new1 := if mask / 2 ^ 128 = 0 then new else setBits new 79 1 0
  if k.mayChange u ch && entLvl new1 == u then some (k.setEntry ch new1) else none
/-- A store of bytes to the window. -/
def Core.storeWindow (k : Core) (u : Bool) (off : Nat) (d : List Byte) : Option Core :=
  let sh := 2 ^ (8 * (off % 32))
  k.storeEntry u (off / 32) (ofBytes d * sh) ((2 ^ (8 * d.length) - 1) * sh)

/-! ### Checks on a hart access (R149, R268, R270) -/

/-- The outcome of the checks. -/
inductive HCheck where
  | ok (l : Loc)
  | exc (cause : Nat)
  | miss (va : Nat)

/-- R146, R149, R270: the checks on n bytes at va; `st` where it is a store, atomic or `sc`. A misaligned address is
refused before the ambient check (notes/assumptions/31.md). -/
def State.hartCheck (s : State) (c : Nat) (u : Bool) (va n pm : Nat) (st : Bool) : HCheck :=
  let k := s.core c
  let outside := if st then 7 else 5
  if va % n ≠ 0 then .exc (if st then 6 else 4)
  else if !k.ambient u va n pm then .exc outside
  else if va.testBit 59 then
    if va + n ≤ spadBase + spadSize then .ok (.spad c (va - spadBase))
    else if shapeBase ≤ va && va + n ≤ shapeBase + 0x1000 then .ok (.shape c (va - shapeBase))
    else if handlerBase ≤ va && va + n ≤ handlerBase + 0x8000 then .ok (.handler c (va - handlerBase))
    else .exc outside
  else match k.translate va (if st then .write else .read) with
    | .hit l => .ok l
    | .miss => .miss va
    | .refused => .exc (if st then 15 else 13)

/-- Whether atomics reach a location (R270, R284). -/
def Loc.hartAtomic : Loc → Bool
  | .spad .. => true
  | .pma _ => true
  | .peer .. => true
  | _ => false

/-- R291: the ids of a hart's outstanding requests that overlap n bytes at l. -/
def State.hartOverlap (s : State) (c : Nat) (u : Bool) (l : Loc) (n : Nat) : List Nat :=
  ((s.hartReqs c u).filter fun r => s.touches r l n).map (·.id)
/-- The ids of a hart's outstanding requests. -/
def State.hartIds (s : State) (c : Nat) (u : Bool) : List Nat := (s.hartReqs c u).map (·.id)

/-- A request of a hart. -/
def hartReq (s : State) (c : Nat) (u : Bool) (op : ReqOp) (va : Nat) (l : Loc) (isWrite : Bool) (after : List Nat) : Req :=
  { id := s.nextReq, core := c, who := .hart u, lvl := u, op := op, va := va, loc := l, isWrite := isWrite
    stage := if after.isEmpty then .posted else .held, after := after, insn := s.nextReq, entry := !l.isSpad, ent := s.nextReq }

/-- R284, R286: the value that an answer writes to rd. -/
def hartValue (op : ReqOp) (d : List Byte) : Nat :=
  let x := ofBytes d
  match op with
  | .hartRead n sg => if sg then trunc (sext x (8 * n)) 64 else x
  | .atomic _ n _ _ => trunc (sext x (8 * n)) 64
  | .lr n => trunc (sext x (8 * n)) 64
  | _ => x

/-- Issues a read-like request: at the scratchpad its home performs it at once; elsewhere the hart is held until the
answer (R284). -/
def State.hartAsk (s : State) (c : Nat) (u : Bool) (d : XReg) (r : Req) (home : State → Req → State) : HIssue :=
  if r.loc.isSpad then
    let s1 := home (s.addReq r) r
    match s1.stageOf r.id with
    | some (.answered x _) => .retire ((s1.dropReq r.id).updHart c u fun h => h.setN d (hartValue r.op x))
    | _ => .exc (s1.dropReq r.id) 26 r.va
  else if !s.entriesFree c 1 then .stall s
  else .hold ((s.addReq r).updHart c u fun h =>
    { h with pend := some r.id, pendRd := d, pendLen := hartLen s.hraw, wait := .none, st := .running })

/-! ### Loads and stores -/

def LoadOp.size : Sys2Proof.LoadOp → Nat
  | .lb => 1 | .lbu => 1 | .lh => 2 | .lhu => 2 | .lw => 4 | .lwu => 4 | .ld => 8
def LoadOp.sg : Sys2Proof.LoadOp → Bool
  | .lb => true | .lh => true | .lw => true | _ => false
def StoreOp.size : Sys2Proof.StoreOp → Nat
  | .sb => 1 | .sh => 2 | .sw => 4 | .sd => 8

/-- Bytes of the shape table (R98). -/
def Core.readShape (k : Core) (o n : Nat) : List Byte := (List.range n).map fun j => (tabGet k.shape (o + j)).getD 0#8
/-- R6, R98: the bits of a byte of a shape entry that are not reserved. -/
def shapeMask (o : Nat) : Byte :=
  let b := o % 64
  if b = 20 then 7#8
  else if 21 ≤ b && b ≤ 23 then 0#8
  else if b ≥ 24 && b % 8 = 5 then 1#8
  else if b ≥ 24 && b % 8 > 5 then 0#8
  else 0xFF#8
/-- The shape table that bytes from offset 0 describe. -/
def shapeTable (d : List Byte) : Tab Byte :=
  d.zipIdx.filterMap fun b =>
    let v := b.1 &&& shapeMask b.2
    if v = 0#8 then none else some (b.2, v)
/-- Writes bytes of the shape table; its reserved bits stay zero. -/
def Core.writeShape (k : Core) (o : Nat) (d : List Byte) : Core :=
  { k with shape := d.zipIdx.foldl (fun t p => cellSet t (o + p.2) (p.1 &&& shapeMask (o + p.2))) k.shape }

/-- R284: a load. -/
def execHartLoad : State → Host.Outcome State Fault Refusal :=
  hartOp fun s c u h =>
    match s.hop with
    | .load op d a i _ =>
      let n := LoadOp.size op
      let va := (h.get a + i.signExtend 64).toNat
      let put (x : List Byte) : HIssue := .retire (s.setHart c u (h.setN d (hartValue (.hartRead n (LoadOp.sg op)) x)))
      match s.hartCheck c u va n permR false with
      | .exc cause => .exc s cause va
      | .miss v => .miss v .read
      | .ok (.shape _ o) => put ((s.core c).readShape o n)
      | .ok (.handler _ o) => put (bytesOf ((s.core c).entry (o / 32) / 2 ^ (8 * (o % 32))) n)
      | .ok l => s.hartAsk c u d (hartReq s c u (.hartRead n (LoadOp.sg op)) va l false (s.hartOverlap c u l n)) State.homeRead
    | _ => illegalWord s

/-- R284: a store: posted, and retired on acceptance. -/
def execHartStore : State → Host.Outcome State Fault Refusal :=
  hartOp fun s c u h =>
    match s.hop with
    | .store op a b i _ =>
      let n := StoreOp.size op
      let va := (h.get a + i.signExtend 64).toNat
      let d := bytesOf (h.getN b) n
      match s.hartCheck c u va n permW true with
      | .exc cause => .exc s cause va
      | .miss v => .miss v .write
      | .ok (.shape _ o) => .retire (s.updCore c fun k => k.writeShape o d)
      | .ok (.handler _ o) =>
        match (s.core c).storeWindow u o d with
        | some k => .retire (s.setCore c k)
        | none => .exc s 7 va
      | .ok l =>
        if l.isSpad then .retire (s.storeAt l d none)
        else if !s.entriesFree c 1 then .stall s
        else .retire (s.addReq (hartReq s c u (.write d none) va l true (s.hartOverlap c u l n)))
    | _ => illegalWord s

/-! ### The A extension -/

def AmoOp.at : AmoOp → AtOp
  | .swap => .swp | .add => .add | .xor => .xor | .and => .and | .or => .or
  | .min => .min | .max => .max | .minu => .minz | .maxu => .maxz

/-- An access of the A extension: checks, ordering by rl, and the request. -/
def hartAtomicOp (d a : XReg) (dbl : Bool) (o : Sys2Proof.Ord) (pm : Nat) (st : Bool) (op : Hart → Nat → ReqOp)
    (home : State → Req → State) : State → Host.Outcome State Fault Refusal :=
  hartOp fun s c u h =>
    let n := if dbl then 8 else 4
    let va := h.getN a
    match s.hartCheck c u va n pm st with
    | .exc cause => .exc s cause va
    | .miss v => .miss v (if st then .write else .read)
    | .ok l =>
      if !l.hartAtomic then .exc s 7 va
      else
        let rel := o == .rel || o == .acqrel
        if rel && l.isSpad && !(s.hartIds c u).isEmpty then .stall s
        else s.hartAsk c u d (hartReq s c u (op h n) va l st (if rel then s.hartIds c u else s.hartOverlap c u l n)) home

/-- R284: an AMO. -/
def execHartAmo : State → Host.Outcome State Fault Refusal := fun s =>
  match s.hop with
  | .amo op dbl o d a b =>
    hartAtomicOp d a dbl o (permR + permW + permA) true
      (fun h n => .atomic (AmoOp.at op) n (h.getN b % 2 ^ (8 * n)) 0) State.homeAtomic s
  | _ => hartOp (fun s _ _ _ => illegalWord s) s
/-- R286: `lr`. -/
def execLr : State → Host.Outcome State Fault Refusal := fun s =>
  match s.hop with
  | .lr dbl o d a => hartAtomicOp d a dbl o (permR + permA) false (fun _ n => .lr n) State.homeLr s
  | _ => hartOp (fun s _ _ _ => illegalWord s) s
/-- R286: `sc`. -/
def execSc : State → Host.Outcome State Fault Refusal := fun s =>
  match s.hop with
  | .sc dbl o d a b =>
    hartAtomicOp d a dbl o (permW + permA) true (fun h n => .sc n (h.getN b % 2 ^ (8 * n))) State.homeAtomic s
  | _ => hartOp (fun s _ _ _ => illegalWord s) s

/-! ### Answers -/

/-- R284: the answer to the load, `lr`, AMO or `sc` that holds a hart arrives. -/
def execHartAccessAnswer : State → Host.Outcome State Fault Refusal := fun s =>
  let c := s.ev.core
  let u := s.ev.b
  let h := s.hart c u
  match h.pend.bind s.findReq with
  | none => .next { s with reqs := s.reqs.filter fun r => !(r.core == c && r.who == .hart u && !r.isWrite && r.settled) }
  | some r =>
    let free (s : State) : State := (s.dropReq r.id).updHart c u fun h => { h with pend := none }
    match r.stage with
    | .answered d _ =>
      .next ((free s).updHart c u fun h =>
        (h.setN h.pendRd (hartValue r.op d)).retireTo (h.pc + BitVec.ofNat 64 h.pendLen))
    | .poisoned => .next ((free s).lateException c u 26 r.va)
    | .fenced => .next ((free s).lateException c u (if r.isWrite then 15 else 13) r.va)
    | _ => .next s

/-! ### Fences -/

/-- R284, R162: a fence with earlier writes before it waits until they are performed (notes/assumptions/32.md). -/
def hartFence (waits : Bool) (act : Hart → Hart) : State → Host.Outcome State Fault Refusal :=
  hartOp fun s c u h => if waits && !(s.hartIds c u).isEmpty then .stall s else .retire (s.setHart c u (act h))
/-- R284: `fence` and `fence.tso`. -/
def execRiscvFence : State → Host.Outcome State Fault Refusal := fun s =>
  match s.hop with
  | .fence _ pred succ => hartFence (pred.getLsbD 0 && succ != 0#4) id s
  | _ => hartOp (fun s _ _ _ => illegalWord s) s
/-- R146: `fence.i`. -/
def execFenceI : State → Host.Outcome State Fault Refusal := hartFence true fun h => { h with icache := [] }
/-- R285: `jd.fence`. -/
def execJdFence (a : XReg) : State → Host.Outcome State Fault Refusal :=
  hartOp fun s c u h =>
    let v := h.getN a
    if v ≥ 16 || v / 4 = 0 then .exc s 25 v
    else if v / 4 ≠ 1 && !(s.hartIds c u).isEmpty then .stall s
    else .retire s

/-! ### User interrupts (R150, R191, R192) -/

/-- R148: jdimsg of a message. -/
def Msg.word (m : Msg) : Nat :=
  m.chan + m.plen * 2 ^ 10 + m.rcore * 2 ^ 15 + m.rchan * 2 ^ 35 + b01 m.answer * 2 ^ 45 + b01 (m.flag flagPoison) * 2 ^ 46 +
  m.seq * 2 ^ 47

/-- R150: whether a hart is at an instruction boundary. -/
def Core.atBoundary (k : Core) (u : Bool) : Bool :=
  let h := k.hart u
  (h.st == .running || h.st == .waiting) && h.pend.isNone && !h.naming && h.missVa.isNone && k.tw.saving != some u
/-- R150: whether a message interrupts a hart. -/
def Core.interruptible (k : Core) (u : Bool) : Bool :=
  let h := k.hart u
  k.atBoundary u && h.jdieE && !h.jdieA
/-- R150: the interrupt of a hart by a message; R286: its reservation is cleared; R192: a poisoned message. -/
def State.interrupt (s : State) (c : Nat) (u : Bool) (m : Msg) : State :=
  let s1 := (s.dropResv c u).updHart c u fun h =>
    ({ h with jdepc := h.pc, jdieA := true, jdimsg := BitVec.ofNat 64 m.word, pc := h.jdivec, st := .running
              wait := .none } : Hart).setShadow (m.payload ++ List.replicate 64 0#8)
  if m.flag flagPoison then s1.takeException c u 26 0 else s1

end Sys2Proof.Machine
end

