-- ==== Sys2Proof/Machine/Inbox.lean ====
section
/-! DEFINITION. The inbox of a core: checks on arriving messages (R179), queues and rings (R178 to R183), answers (R176,
R177, R184, R197), fault replies (R145) and dispatch (R188 to R192, R242, R245, R246). -/

namespace Sys2Proof.Machine

/-! ### Handler entries and hanks for a message -/

/-- Whether the entries that apply to a message of a level lie in the save image: the core-wide state belongs to the
urgent kernel then (notes/assumptions/35.md). -/
def Core.useImage (k : Core) (u : Bool) : Option Nat :=
  if !u && (k.level == .saved || k.level == .restoring) then k.saveArea else none
/-- The handler entry that applies to a message of a level. -/
def State.entryFor (s : State) (c : Nat) (u : Bool) (ch : Nat) : Nat :=
  match (s.core c).useImage u with
  | some a => s.imgEntry a ch
  | none => (s.core c).entry ch
/-- The hank handle that applies to a message of a level. -/
def State.hankFor (s : State) (c : Nat) (u : Bool) (h : Nat) : Nat :=
  match (s.core c).useImage u with
  | some a => s.imgHank a h
  | none => (s.core c).hank h

/-! ### Checks (R179) -/

/-- R179 step 5: whether a payload fits the channel: the element size of its hank where that is valid, however short the
payload, else four units. The hank field of a Skimmer entry names a box (R213); a Carder entry needs a hank of 256-byte
elements (R329). See notes/assumptions/18.md. -/
def State.sizeOk (s : State) (c : Nat) (m : Msg) (e : Nat) : Bool :=
  let h := s.hankFor c m.prio (entHank e)
  let hank := entHv e && entTarget e != 5 && hkValid h
  (if hank then m.plen * 16 ≤ hkElem h else m.plen ≤ 4) && (entTarget e != 4 || (hank && hkLel h == 4))
/-- R179 step 4, R178, R245: whether the channel may not take a request. -/
def chanBad (m : Msg) (e : Nat) : Bool :=
  (5 ≤ m.chan && m.chan ≤ 15) || entTarget e ≥ 6 || m.chan ≥ 1024 ||
  (if m.flag flagSpawn then !(m.chan == 3 && !entReply e && entTarget e == 0) else entTarget e == 0 && entBlk e == 0) ||
  entTarget e == 3 || entReply e || entLvl e != m.prio
/-- R171, R179 step 1: whether a reserved field of a message for a core is nonzero. The Reel delivers bits [127:115] as
zero (R173). -/
def Msg.reserved (m : Msg) : Bool := m.rsvd != 0 || bits m.dest 31 20 != 0
/-- R179: the refusal of an arriving request, if any. -/
def State.requestCheck (s : State) (c : Nat) (m : Msg) : Option Nat :=
  let e := s.entryFor c m.prio m.chan
  if m.reserved then some rReserved
  else if m.dkind = 3 || c ≥ numCores then some rNoCore
  else if s.coreFenced c || m.tenant ≠ (s.core c).tenant then some rFenced
  else if chanBad m e then some rNoChan
  else if !s.sizeOk c m e then some rSize
  else none
/-- R176, R179 step 3, R375: whether an arriving answer is discarded because of the fence or the tenant; a refusal passes, and a
drained core still takes the answers to its own reservations. -/
def State.answerFenced (s : State) (c : Nat) (m : Msg) : Bool :=
  !m.flag flagNack && (s.rectClosed c || m.tenant != (s.core c).tenant)
/-- R179, R246: whether an arriving channel answer is discarded for steps 2 to 5. An answer to an engine's channel is not
(notes/assumptions/18.md). -/
def State.answerBad (s : State) (c : Nat) (m : Msg) : Bool :=
  let e := s.entryFor c m.prio m.chan
  s.answerFenced c m || (5 ≤ m.chan && m.chan ≤ 15) || entTarget e ≥ 6 ||
  (entTarget e == 0 && entBlk e == 0 && !(m.flag flagSpawn && m.flag flagBounce)) ||
  entLvl e != m.prio || !s.sizeOk c m e

/-! ### Queues -/

/-- R188: the queues of an inbox in the order in which their heads are looked at. -/
inductive QName where
  | uReply | uFault | uReq | nReply | nFault | nReq
  deriving DecidableEq, Repr

def QName.all : List QName := [.uReply, .uFault, .uReq, .nReply, .nFault, .nReq]
/-- Whether a queue is of the urgent level. -/
def QName.urgent : QName → Bool
  | .uReply => true | .uFault => true | .uReq => true | _ => false
/-- Whether a queue holds requests that may overflow. -/
def QName.isReq : QName → Bool
  | .uReq => true | .nReq => true | _ => false
def Inbox.queue (b : Inbox) (q : QName) : List Msg :=
  match q with
  | .uReply => b.uReply | .uFault => b.uFault | .uReq => b.uReq
  | .nReply => b.nReply | .nFault => b.nFault | .nReq => b.nReq
def Inbox.setQueue (b : Inbox) (q : QName) (l : List Msg) : Inbox :=
  match q with
  | .uReply => { b with uReply := l } | .uFault => { b with uFault := l } | .uReq => { b with uReq := l }
  | .nReply => { b with nReply := l } | .nFault => { b with nFault := l } | .nReq => { b with nReq := l }
def Inbox.ring (b : Inbox) (u : Bool) : List Msg := if u then b.ringU else b.ringN
def Inbox.setRing (b : Inbox) (u : Bool) (l : List Msg) : Inbox := if u then { b with ringU := l } else { b with ringN := l }
/-- R181: the ring's first record leaves. -/
def Inbox.takeRing (b : Inbox) (u : Bool) : Inbox :=
  let c := b.setRing u ((b.ring u).drop 1)
  if u then { c with headU := c.headU + 1 } else { c with headN := c.headN + 1 }
/-- R181: the ring size of a level. -/
def Core.ringSize (k : Core) (u : Bool) : Nat := if u then k.suSize else k.snSize

/-- R179, R180: a request enters its queue or its ring; none where it bounces. -/
def Core.enqueue (k : Core) (u : Bool) (m : Msg) : Option Core :=
  let q : QName := if u then .uReq else .nReq
  let l := k.inbox.queue q
  let r := k.inbox.ring u
  if r.isEmpty && l.length < 32 then some { k with inbox := k.inbox.setQueue q (l ++ [m]) }
  else if r.length < k.ringSize u then some { k with inbox := k.inbox.setRing u (r ++ [m]) }
  else none
/-- R181: the PMA of the j-th record of a ring: the urgent ring comes first in the overflow area. -/
def Core.ringAt (k : Core) (u : Bool) (j : Nat) : Option Nat :=
  k.overflow.map fun a =>
    if u then a + 272 * ((k.inbox.headU + j) % k.suSize) else a + 272 * (k.suSize + (k.inbox.headN + j) % k.snSize)
/-- R370: the messages of a ring whose records hold a poisoned granule carry the poison flag. -/
def Core.poisonRing (k : Core) (bad : Nat → Bool) (u : Bool) : Core :=
  let put (p : Msg × Nat) : Msg :=
    if ((k.ringAt u p.2).elim false fun a => (granules a 272 32).any bad) then { p.1 with flags := setBits p.1.flags flagPoison 1 1 } else p.1
  { k with inbox := k.inbox.setRing u ((k.inbox.ring u).zipIdx.map put) }
/-- R274, R370: the last record of a ring has been written: a granule that it covers wholly is no longer poisoned, and one
that it covers in part stays so. -/
def State.ringWritten (s : State) (c : Nat) (u : Bool) : State :=
  let k := s.core c
  let n := (k.inbox.ring u).length
  match if n = 0 then none else k.ringAt u (n - 1) with
  | none => s
  | some a =>
    let whole (g : Nat) : Bool := a ≤ 32 * g && 32 * g + 32 ≤ a + 272
    let s1 := { s with mem := { s.mem with poison := s.mem.poison.filter fun g => !whole g } }
    s1.updCore c fun k => k.poisonRing (fun g => setHas s1.mem.poison g) u
/-- R179: a request queue with room on chip takes the ring's head. -/
def Inbox.refill (b : Inbox) (q : QName) : Inbox :=
  if !q.isReq then b
  else match b.ring q.urgent with
    | m :: _ => if (b.queue q).length < 32 then (b.setQueue q (b.queue q ++ [m])).takeRing q.urgent else b
    | [] => b
/-- The head of a queue leaves. -/
def Core.popHead (k : Core) (q : QName) : Core :=
  { k with inbox := (k.inbox.setQueue q ((k.inbox.queue q).drop 1)).refill q }
/-- R183: sets or clears W. -/
def Core.setW (k : Core) (ch : Nat) (on : Bool) : Core := k.setEntry ch (setBits (k.entry ch) 72 1 (b01 on))
/-- R183: the head of a queue whose channel is disabled moves to the tail. -/
def Core.rotate (k : Core) (q : QName) (m : Msg) : Core :=
  let b := k.inbox
  let rest := (b.queue q).drop 1
  let r := b.ring q.urgent
  if q.isReq && !r.isEmpty then
    if r.length < k.ringSize q.urgent then
      ({ k with inbox := ((b.setQueue q rest).setRing q.urgent (r ++ [m])).refill q }).setW m.chan true
    else k
  else ({ k with inbox := b.setQueue q (rest ++ [m]) }).setW m.chan true

/-! ### Answers and reservations (R176, R177) -/

/-- R177: whether an entry is the reservation of a channel answer. -/
def Entry.forChan (e : Entry) (m : Msg) (got : Bool) : Bool :=
  e.seq == m.seq && e.got == got && (match e.ans with | .channel ch => ch == m.chan | _ => false)
/-- Ends the reservation of a channel answer. -/
def Core.endChan (k : Core) (m : Msg) : Core := { k with table := k.table.filter fun e => !e.forChan m true }
/-- Drops an entry. -/
def Core.dropEntry (k : Core) (e : Entry) : Core := { k with table := k.table.filter fun f => f.id != e.id }
/-- R145: whether a message is the answer to a fault message. -/
def Core.isFaultAnswer (k : Core) (m : Msg) : Bool :=
  m.answer && !m.flag flagNack && (m.chan == 1 || m.chan == 2) &&
  !(k.table.any fun e => e.forChan m false || e.forChan m true)
/-- R171: whether a message is an answer to a register entry. -/
def Msg.isRegAnswer (m : Msg) : Bool := m.answer && m.chan ≥ 0x200
/-- R176: counts an answer that cannot be delivered at the core that sent it. -/
def State.countLost (s : State) (m : Msg) : State :=
  let o := m.rcore % 4096
  if m.rcore / 4096 = s.pkg && o < numCores then s.updCore o fun k => k.countTele 0 else s

/-- R197: the registers that an answer to a `sendr` writes. -/
def Ctx.landAnswer (x : Ctx) (id rd : Nat) (m : Msg) : Ctx :=
  let st := if m.flag flagNack then m.rchan else 0
  x.land id fun y => (y.setV rd (lanes4 st m.plen m.seq m.rcore)).setV (rd + 1) (ofBytes (m.payload.take 16))
/-- R184, R197: an answer reaches registers of context i with an incarnation: its own, or those of its record. -/
def State.answerRegs (s : State) (c i inc rd : Nat) (m : Msg) : State :=
  if s.alive c i inc then (s.updCtx c i fun x => x.landAnswer s.nextReq rd m).wakeCore c
  else match (s.core c).saveArea.bind fun a => (s.recordOf a i).map fun r => (a, r) with
    | some (a, r) =>
      if ((s.core c).saved.any fun e => e.idx == i) && s.peek (r + 124) 1 == inc then
        let y := ({} : Ctx).landAnswer 0 rd m
        ((s.recSetReg r rd (y.v rd)).recSetReg r (rd + 1) (y.v (rd + 1))).sealImage a
      else s
    | none => s

/-- R176, R177: an acceptance notice is absorbed; one that fails R179 step 3 ends its reservation and is discarded. -/
def State.absorbNotice (s : State) (c : Nat) (m : Msg) : State :=
  match (s.core c).table.find? fun e => e.seq == m.seq && !e.got && (match e.ans with | .join .. => false | _ => true) with
  | none => s.countLost m
  | some e =>
    let s1 := s.updCore c fun k => { k.dropEntry e with notices := if e.ans = .notice then k.notices - 1 else k.notices }
    if s.answerFenced c m then s1.countLost m
    else match e.ans with
    | .regs i inc rd _ => s1.answerRegs c i inc rd m
    | _ => s1

/-- R177, R179: a channel answer enters the reply queue of its entry's level, or is discarded. -/
def State.takeAnswer (s : State) (c : Nat) (m : Msg) : State :=
  let k := s.core c
  match k.table.find? fun e => e.seq == m.seq && e.ans == .notice with
  | some e => if m.flag flagNack then
      s.setCore c ((({ k with notices := k.notices - 1 } : Core).dropEntry e).countTele 2) else s.countLost m
  | none =>
    match k.table.find? fun e => e.forChan m false with
    | none => s.countLost m
    | some e =>
      if s.answerBad c m then (s.setCore c (k.dropEntry e)).countLost m
      else
        let q : QName := if m.prio then .uReply else .nReply
        s.setCore c { k with
          table := k.table.map fun f => if f.id = e.id then { f with got := true } else f
          inbox := k.inbox.setQueue q (k.inbox.queue q ++ [m]) }

/-- R179, R182: an arriving request is refused, queued or bounced; R176: its acceptance notice. The Carder's is sent when
it takes the command. -/
def State.takeRequest (s : State) (c : Nat) (m : Msg) : State :=
  match s.requestCheck c m with
  | some r => s.refuse c r m
  | none =>
    match (s.core c).enqueue m.prio m with
    | none => s.refuse c rBounced m
    | some k =>
      let t := entTarget (s.entryFor c m.prio m.chan)
      let grew := ((s.core c).inbox.ring m.prio).length < (k.inbox.ring m.prio).length
      let s1 := if grew then (s.setCore c k).ringWritten c m.prio else s.setCore c k
      if (m.rchan == 0 && t != 4) || t == 5 then s1.post c (m.acceptance s c) else s1

/-- The k-th arrived message of core c leaves the reassembly entries, counted as received (R247). -/
def State.pullArrived (s : State) (c k : Nat) : Option (Msg × State) :=
  if c ≥ numCores then none
  else match (s.core c).inbox.arrived[k]? with
    | none => none
    | some m =>
      let s0 := s.updCore c fun x => { x with inbox := { x.inbox with arrived := x.inbox.arrived.eraseIdx k } }
      let s1 := s0.tookOrdered m
      some (m, if m.isNotice then s1 else s1.updCore c (Core.countRecv · m.prio))

/-- R178, R179: the inbox of a core takes the k-th message that has arrived whole. -/
def execMessageArrival : State → Host.Outcome State Fault Refusal := fun s =>
  let c := s.ev.core
  match s.pullArrived c s.ev.k with
  | none => .next s
  | some (m, s1) =>
    if !m.answer then .next (s1.takeRequest c m)
    else if m.reserved then .next (s1.countLost m)
    else if m.isNotice then .next (s1.absorbNotice c m)
    else if (s.core c).isFaultAnswer m || m.isRegAnswer then .next s
    else .next (s1.takeAnswer c m)

/-- R171, R197: an answer to a register entry lands. -/
def execSendrAnswerLands : State → Host.Outcome State Fault Refusal := fun s =>
  let c := s.ev.core
  match s.pullArrived c s.ev.k with
  | none => .next s
  | some (m, s1) =>
    if !m.isRegAnswer || m.reserved then .next s
    else match (s.core c).table.find? fun e => e.x == m.chan - 0x200 && e.seq == m.seq with
      | some e => match e.ans with
        | .regs i inc rd _ =>
          let s2 := s1.updCore c fun k => k.dropEntry e
          if s.answerFenced c m then .next (s2.countLost m) else .next (s2.answerRegs c i inc rd m)
        | _ => .next (s1.takeAnswer c m)
      | none => .next (s1.takeAnswer c m)

/-! ### Fault replies (R145) -/

/-- A number in payload bytes. -/
def Msg.num (m : Msg) (o n : Nat) : Nat := ofBytes ((m.payload.drop o).take n)
/-- R145: the bytes of the instruction at a hart's program counter; four where it cannot be fetched. -/
def State.instrBytes (s : State) (c : Nat) (u : Bool) : Nat :=
  let pc := (s.hart c u).pc.toNat
  match s.fetchParcel c u pc pc with
  | .ok p _ => if p % 4 = 3 then 4 else 2
  | _ => 4
/-- R145: applies a fault answer. -/
def State.applyFault (s : State) (c : Nat) (m : Msg) : State :=
  let k := s.core c
  let action := m.num 0 8
  if m.chan = 1 then
    let i := m.num 16 1
    let x := k.ctx i
    if i < 32 && x.st == .faulted && x.inc.toNat == m.num 17 1 && x.faultSeq == some m.seq then
      s.setCore c { k.settleFibre i action (m.num 8 8) with settledAt := some k.counter }
    else s
  else
    let u := m.num 16 1 == 1
    let h := k.hart u
    if m.num 16 1 ≤ 1 && h.st == .faulted && h.faultSeq == some m.seq then
      s.setCore c { k.settleHart u action (m.num 8 8) (s.instrBytes c u) with settledAt := some k.counter }
    else s
/-- R132: whether the context or hart that a fault answer settles is halted or saved. -/
def Core.faultWaits (k : Core) (m : Msg) : Bool :=
  if m.chan = 1 then
    let i := m.num 16 1
    k.level != .live && ((k.ctx i).st == .halted ||
      (k.saved.any fun e => e.idx == i && e.inc.toNat == m.num 17 1 && e.faultSeq == some m.seq))
  else k.level != .live && m.num 16 1 == 0

/-- R145, R132, R184: a fault answer reaches the core: it is applied at once, or waits in the normal-reply queue. -/
def execFaultReply : State → Host.Outcome State Fault Refusal := fun s =>
  let c := s.ev.core
  match s.pullArrived c s.ev.k with
  | none => .next s
  | some (m, s1) =>
    if !(s.core c).isFaultAnswer m || m.reserved then .next s
    else if s.answerFenced c m then .next (s1.countLost m)
    else if (s.core c).faultWaits m then
      .next (s1.updCore c fun k => { k with inbox := { k.inbox with nReply := k.inbox.nReply ++ [m] } })
    else .next (s1.applyFault c m)

/-! ### Dispatch (R188 to R192) -/

/-- R315: whether the Carder has a free command slot of a level. -/
def Core.cdFree (k : Core) (u : Bool) : Bool := (if u then k.carderU else k.carderN).length < 4
/-- R190: the hank of an entry after a payload was placed in a slot, and the slot's offset. -/
def Core.hankSlot (k : Core) (e : Nat) : Option (Nat × Nat) :=
  if !entHv e then none
  else match hkApply .prod (k.hank (entHank e)) 1 with
    | .ok (h, some o) => match hkApply .comm h 1 with
      | .ok (h2, _) => some (h2, o)
      | .error _ => none
    | _ => none

/-- R188: whether a hart can take a message: it is STARTABLE, can be interrupted, or waits in `jd.recv`. -/
def Core.hartTakes (k : Core) (u : Bool) : Bool :=
  let h := k.hart u
  h.st == .startable || k.interruptible u || (h.st == .waiting && h.wait == .recv)

/-- R188, R189: whether the head of a queue can be served. -/
def Core.servable (k : Core) (q : QName) (m : Msg) : Bool :=
  let e := k.entry m.chan
  (q.urgent || k.level == .live) && !k.stopped &&
  (k.isFaultAnswer m ||
   (entE e && (m.plen ≤ 4 || (k.hankSlot e).isSome) &&
    (match entTarget e with
     | 0 =>
       let n := entRegs e
       k.canCreate (entLvl e) (if m.answer then [n] else [n, 64])
     | 1 => k.hartTakes true
     | 2 => k.hartTakes false
     | 4 => k.cdFree (entLvl e) && !m.answer
     | 5 => k.notices < 64 && !m.answer
     | _ => false)))

/-- R190: the reply descriptor in v5. -/
def Msg.descriptor (m : Msg) (slot : Option Nat) : Nat :=
  m.rcore + m.rchan * 2 ^ 20 + m.seq * 2 ^ 30 + m.tenant * 2 ^ 46 + b01 m.prio * 2 ^ 56 + b01 m.answer * 2 ^ 57 +
  m.flags * 2 ^ 58 + m.chan * 2 ^ 66 + slot.getD 0 * 2 ^ 96 + b01 slot.isSome * 2 ^ 127

/-- R190: places a payload of more than four units in its hank slot. -/
def State.placeHank (s : State) (c : Nat) (m : Msg) : State × Option Nat :=
  let k := s.core c
  let e := k.entry m.chan
  if m.plen ≤ 4 then (s, none)
  else match k.hankSlot e with
    | some (h, o) => (((s.setCore c (k.setHank (entHank e) h)).storeAt (.spad c o) m.payload none), some o)
    | none => (s, none)
/-- R185, R190: a dispatch clears E of a one-shot channel, and W. -/
def Core.dispatched (k : Core) (ch : Nat) : Core :=
  let k1 := k.setW ch false
  if entO (k.entry ch) then k1.setE ch false else k1

/-- R92, R190: the root that a dispatch places in v4: a tagged one has type 0b00 and zero in bits [63:60]
(notes/assumptions/91.md). -/
def rootCap (x : Nat) (tag : Bool) : Nat := if tag then setBits (setBits x 126 2 0) 60 4 0 else x

/-- R131, R190, R192, R245, R246: a dispatch to the Fibre pool: the context is DISPATCHING. -/
def State.dispatchFibre (s : State) (c : Nat) (m : Msg) : State :=
  let e := (s.core c).entry m.chan
  match (s.core c).freeIdx with
  | none => s
  | some i =>
    let (s1, slot) := s.placeHank c m
    let k := s1.core c
    let run := m.flag flagSpawn && (!m.answer || m.flag flagBounce)
    let a := if run then m.num 0 8 else entBlk e
    let k1 := k.createCtx i (entLvl e) (entRegs e) .dispatching
    let x := k1.ctx i
    let x1 := { x with byDispatch := !run, pcBlk := a - a % 64, pcOff := a % 64 / 2 }
    let x2 := (List.range 4).foldl (fun y j => y.setV j (m.num (16 * j) 16)) x1
    let x3 := (x2.setV 4 (rootCap (entRoot e) (entRT e)) (entRT e)).setV 5 (m.descriptor slot)
    let s2 := s1.setCore c ((k1.setCtx i x3).dispatched m.chan)
    if m.flag flagPoison then s2.takeFault c i cPOISON 0 else s2

/-- R205: a message delivered to a hart as `jd.recv` writes it. -/
def Hart.receive (h : Hart) (m : Msg) : Hart :=
  { h.setMain (m.payload ++ List.replicate 64 0#8) with jdimsg := BitVec.ofNat 64 m.word }

/-- R150, R191, R192, R205, R242: a dispatch to a hart. -/
def State.dispatchHart (s : State) (c : Nat) (u : Bool) (m : Msg) : State :=
  let (s0, _) := s.placeHank c m
  let s1 := s0.updCore c fun k => k.dispatched m.chan
  let h := s1.hart c u
  if h.st == .startable then
    let s2 := s1.setHart c u { h.receive m with st := .running }
    if m.flag flagPoison then s2.takeException c u 26 0 else s2
  else if (s1.core c).interruptible u then s1.interrupt c u m
  else
    let h1 := ({ (h.receive m) with st := .running, wait := .none } : Hart).set h.pendRd (BitVec.ofNat 64 m.word)
    if m.flag flagPoison then (s1.setHart c u h1).takeException c u 26 0
    else s1.setHart c u (h1.retireTo (h1.pc + 4#64))

/-- R188: the queue whose head is served next. -/
def Core.nextHead (k : Core) : Option (QName × Msg) :=
  QName.all.findSome? fun q => match (k.inbox.queue q).head? with
    | some m => if k.servable q m then some (q, m) else none
    | none => none

/-- R183: whether the head of a queue is moved or discarded, because its channel is disabled. -/
def Core.disabledHead (k : Core) (q : QName) : Option Msg :=
  match (k.inbox.queue q).head? with
  | some m => if (q.urgent || k.level == .live) && !k.isFaultAnswer m && !entE (k.entry m.chan) then some m else none
  | none => none
/-- R183: the heads of disabled channels move on; a refusal is discarded and counted. -/
def Core.moveDisabled (k : Core) : Core :=
  QName.all.foldl (fun k q => match k.disabledHead q with
    | some m => if m.answer && m.flag flagNack then ((k.endChan m).popHead q).countTele 1 else k.rotate q m
    | none => k) k

/-- R183: the same of core c; a record that enters a ring is written there. -/
def State.moveDisabled (s : State) (c : Nat) : State :=
  let t := s.updCore c Core.moveDisabled
  [true, false].foldl (fun t u =>
    if ((t.core c).inbox.ring u).getLast? != ((s.core c).inbox.ring u).getLast? then t.ringWritten c u else t) t
/-- R188: what the inbox does with the message that it dispatches. -/
def State.serve (s : State) (c : Nat) (q : QName) (m : Msg) : State :=
  let k := s.core c
  let s1 := s.setCore c ((k.popHead q).endChan m)
  if k.isFaultAnswer m then s1.applyFault c m
  else match entTarget (k.entry m.chan) with
    | 0 => s1.dispatchFibre c m
    | 1 => s1.dispatchHart c true m
    | 2 => s1.dispatchHart c false m
    | _ => s1.updCore c fun k => { (k.dispatched m.chan) with puts := k.puts ++ [(m, entHank (k.entry m.chan))] }

/-- R183, R188: the inbox of a core looks at its heads. A head for the Carder is taken by CARDER_COMMAND_MESSAGE. -/
def execDispatch : State → Host.Outcome State Fault Refusal := fun s =>
  let c := s.ev.core
  if c ≥ numCores then .next s
  else match (s.core c).nextHead with
    | none => .next (s.moveDisabled c)
    | some (q, m) =>
      if entTarget ((s.core c).entry m.chan) == 4 && !(s.core c).isFaultAnswer m then .next s
      else .next ((s.serve c q m).moveDisabled c)

end Sys2Proof.Machine
end

