-- ==== Sys2Proof/Machine/Queue.lean ====
section
/-! DEFINITION. The queue instructions of the harts (R203 to R207), `jd.skm` (R213), `jd.name` (R219) and `jd.cnt` (R248). -/

namespace Sys2Proof.Machine

/-- The hart retires with a value in rd. -/
def hartPut (s : State) (c : Nat) (u : Bool) (d : XReg) (v : Nat) : HIssue := .retire (s.updHart c u fun h => h.setN d v)

/-! ### Sends (R204) -/

/-- R204: payload units from a0 to a7 of the set in use. -/
def Hart.payload (h : Hart) (u : Nat) : List Byte :=
  (List.range (2 * u)).flatMap fun j => bytesOf (h.getN (BitVec.ofNat 5 (10 + j))) 8
/-- R204: sends the request that a descriptor describes: 0, or 1 where no entry or slot is free. -/
def State.hartSend (s : State) (c : Nat) (d : Nat) (payload : List Byte) : State × Nat :=
  if s.canSend c (descPrio d) true then
    (s.sendRequest c (descPrio d) true (fun _ => descMsg d (descRchan d) payload) (.channel (answerChan d)) none, 0)
  else (s, 1)
/-- R204: the checks on n bytes of scratchpad at an address that a hart reads or writes: the offset, or an exception. -/
def State.hartSpad (s : State) (c : Nat) (u : Bool) (a n pm : Nat) : Except (Nat × Nat) Nat :=
  if a % 16 ≠ 0 || a < spadBase || a + n > spadBase + spadSize then .error (25, a)
  else if n ≠ 0 && !(s.core c).ambient u a n pm then .error (if pm = permW then 7 else 5, a)
  else .ok (a - spadBase)
/-- The address of the first poisoned granule of n bytes at an offset of a scratchpad. -/
def State.spadPoison (s : State) (c o n : Nat) : Option Nat :=
  ((List.range (ceilDiv n 16)).find? fun j => s.poisonedAt (.spad c (o + 16 * j)) 16).map fun j => spadBase + o + 16 * j

/-- R204: `jd.send`. -/
def execJdSend (a d : XReg) : State → Host.Outcome State Fault Refusal :=
  hartOp fun s c u h =>
    let v := h.getN a
    if !descOk' v 4 then .exc s 25 v
    else
      let (s1, r) := s.hartSend c v (h.payload (descPlen v))
      hartPut s1 c u d r
/-- R204: `jd.sendx`. -/
def execJdSendx (b a d : XReg) : State → Host.Outcome State Fault Refusal :=
  hartOp fun s c u h =>
    let v := h.getN a
    let n := 16 * descPlen v
    if !descOk' v 16 then .exc s 25 v
    else match s.hartSpad c u (h.getN b) n permR with
      | .error (cause, t) => .exc s cause t
      | .ok o =>
        match s.spadPoison c o n with
        | some t => .exc s 26 t
        | none =>
          let (s1, r) := s.hartSend c v (s.readAt (.spad c o) n)
          hartPut s1 c u d r

/-! ### Receives and acknowledgements (R205, R206) -/

/-- R205: `jd.recv` waits; the dispatch completes it. -/
def execJdRecv (d : XReg) : State → Host.Outcome State Fault Refusal :=
  hartOp fun s c u h =>
    if h.jdieA then illegalWord s
    else .hold (s.updHart c u fun h => { h with st := .waiting, wait := .recv, pendRd := d })

/-- R205: the first head for a hart that can be served now. -/
def Core.hartHead (k : Core) (u : Bool) : Option (QName × Msg) :=
  QName.all.findSome? fun q => match (k.inbox.queue q).head? with
    | some m =>
      let e := k.entry m.chan
      if (q.urgent || k.level == .live) && !k.isFaultAnswer m && entTarget e == (if u then 1 else 2) && entE e &&
        (m.plen ≤ 4 || (k.hankSlot e).isSome) then some (q, m) else none
    | none => none
/-- R205, R192: `jd.tryrecv`; with a handler active it raises cause 2 as `jd.recv` does (notes/assumptions/36.md). -/
def execJdTryrecv (d : XReg) : State → Host.Outcome State Fault Refusal :=
  hartOp fun s c u h =>
    if h.jdieA then illegalWord s
    else match (s.core c).hartHead u with
      | none => hartPut s c u d (2 ^ 63)
      | some (q, m) =>
        let s1 := s.setCore c (((s.core c).popHead q).endChan m)
        let (s2, _) := s1.placeHank c m
        let s3 := s2.updCore c fun k => k.dispatched m.chan
        let s4 := s3.updHart c u fun h => (h.receive m).setN d m.word
        if m.flag flagPoison then .exc s4 26 0 else .retire s4

/-- R206: `jd.ack` answers the message that jdimsg describes. A length above 4 raises cause 25 also where the message
takes no answer (notes/assumptions/96.md). -/
def execJdAck (a d : XReg) : State → Host.Outcome State Fault Refusal :=
  hartOp fun s c u h =>
    let n := h.getN a
    let w := h.jdimsg.toNat
    if n > 4 then .exc s 25 n
    else if bit w 45 || bits w 44 35 == 0 then hartPut s c u d 3
    else
      let m : Msg := { seq := bits w 62 47, tenant := (s.core c).tenant, rcore := s.addrOf c, plen := n, prio := u
                       answer := true, chan := bits w 44 35, dest := bits w 34 15, payload := h.payload n }
      hartPut (s.post c m) c u d 0

/-! ### Channels and hanks (R207) -/

/-- R207: whether a selector has a kind, and zero in the bits that no kind uses; a bit that only another kind uses is
ignored. -/
def selOk (v : Nat) : Bool := bits v 63 16 == 0 && bits v 13 12 == 0 && bits v 15 14 != 3
/-- R207: the operation of a code. -/
def HkOp.ofCode (n : Nat) : HkOp :=
  match n with
  | 0 => .prod | 1 => .comm | 2 => .cons | _ => .free
/-- R207: the value of a hank operation by a hart. -/
def hankResult (n : Nat) (o : Option Nat) : Nat := match o with | some x => (n * 2 ^ 32 + x) % 2 ^ 64 | none => 0
/-- R201: the bits of a handle's word that are not reserved. -/
def hankMask (w : Nat) : Nat := if w = 0 then 2 ^ 64 - 1 else 2 ^ 28 - 1

/-- R207: `jd.chset`. A refused hank operation reports rs2 where the handle is valid, else the selector
(notes/assumptions/96.md). -/
def execJdChset (b a d : XReg) : State → Host.Outcome State Fault Refusal :=
  hartOp fun s c u h =>
    let v := h.getN a
    let x := h.getN b
    let k := s.core c
    if !selOk v then .exc s 25 v
    else match bits v 15 14 with
      | 0 =>
        let sh := 64 * bits v 11 10
        match k.storeEntry u (bits v 9 0) (x * 2 ^ sh) ((2 ^ 64 - 1) * 2 ^ sh) with
        | some k1 => hartPut (s.setCore c k1) c u d 0
        | none => .exc s 25 v
      | 1 =>
        let w := bits v 10 10
        let i := bits v 3 0
        hartPut (s.setCore c (k.setHank i (setBits (k.hank i) (64 * w) 64 (x &&& hankMask w)))) c u d 0
      | _ =>
        let i := bits v 3 0
        match hkApply (HkOp.ofCode (bits v 9 8)) (k.hank i) x with
        | .ok (y, o) => hartPut (s.setCore c (k.setHank i y)) c u d (hankResult x o)
        | .error _ => .exc s 25 (if hkValid (k.hank i) then x else v)
/-- R207: `jd.chget`. -/
def execJdChget (a d : XReg) : State → Host.Outcome State Fault Refusal :=
  hartOp fun s c u h =>
    let v := h.getN a
    let k := s.core c
    if !selOk v then .exc s 25 v
    else match bits v 15 14 with
      | 0 => hartPut s c u d (k.entry (bits v 9 0) / 2 ^ (64 * bits v 11 10) % 2 ^ 64)
      | 1 => hartPut s c u d (k.hank (bits v 3 0) / 2 ^ (64 * bits v 10 10) % 2 ^ 64)
      | _ => .exc s 25 v
/-- R207: `jd.chen` and `jd.chdis`. -/
def hartChan (a d : XReg) (on : Bool) : State → Host.Outcome State Fault Refusal :=
  hartOp fun s c u h =>
    let v := h.getN a
    let k := s.core c
    if v ≥ 1024 || !k.mayChange u v then .exc s 25 v
    else hartPut (s.setCore c (k.setE v on)) c u d (b01 (entE (k.entry v)))
def execJdChen (a d : XReg) : State → Host.Outcome State Fault Refusal := hartChan a d true
def execJdChdis (a d : XReg) : State → Host.Outcome State Fault Refusal := hartChan a d false

/-! ### The Skimmer (R213) -/

/-- R213: `jd.skm`. A put that has arrived goes before a take or a configuration (R212). -/
def execJdSkm (b a d : XReg) : State → Host.Outcome State Fault Refusal :=
  hartOp fun s c u h =>
    let v := h.getN a
    let op := bits v 1 0
    let box := bits v 5 2
    let n := if op = 2 then 32 else 16
    if v ≥ 2 ^ 15 || op = 3 then .exc s 25 v
    else if op ≠ 2 && s.skReady c then .stall s
    else match s.hartSpad c u (h.getN b) n (if op = 1 then permW else permR) with
      | .error (cause, t) => .exc s cause t
      | .ok o =>
        let x := ofBytes (s.readAt (.spad c o) n)
        if op = 1 then
          let (k, e, cnt) := (s.core c).skTake box (bits v 13 6) (bit v 14)
          let s1 := s.setCore c k
          let s2 := match e with | some y => s1.storeAt (.spad c o) (bytesOf y.bits 16) none | none => s1
          hartPut s2 c u d (b01 e.isSome * 2 ^ 32 + cnt)
        else match s.spadPoison c o n with
          | some t => .exc s 26 t
          | none =>
            if op = 0 then
              let (k, ok) := (s.core c).skConfig box (x % 2 ^ 128)
              hartPut (s.setCore c k) c u d (b01 !ok)
            else
              let w := x % 2 ^ 64
              if bits x 127 64 ≠ 0 then .exc s 25 (bits x 127 64)
              else if !descOk' w 4 || descPlen w != 1 then .exc s 25 w
              else
                let (s1, r) := s.hartSend c w (bytesOf (x / 2 ^ 128) 16)
                hartPut s1 c u d r

/-! ### Names and counters (R219, R248) -/

/-- R154: the Skein that a handle operand names for a hart. -/
def Core.handleOf (k : Core) (u : Bool) (v : Nat) : Option Skein :=
  if v ≥ 16 then none
  else match k.skeins.toList.getD v none with
    | some sk => if sk.urgent == u then some sk else none
    | none => none
/-- Replaces a Skein. -/
def Core.setSkein (k : Core) (i : Nat) (sk : Option Skein) : Core :=
  if h : i < 16 then { k with skeins := k.skeins.set i sk } else k

/-- R219: `jd.name`: the name the Skein has, or a stall until the launch agent's answer; a second execution joins the
request that is under way. -/
def execJdName (a d : XReg) : State → Host.Outcome State Fault Refusal :=
  hartOp fun s c u h =>
    let v := h.getN a
    match (s.core c).handleOf u v with
    | none => .exc s 25 v
    | some sk =>
      if sk.name ≠ 0 then hartPut s c u d sk.name
      else
        let q : NameReq := { core := c, ctx := none, handle := some v, urgent := u }
        let asked := s.agent.nameReqs.any fun r => r.core == c && r.handle == some v
        let s1 := if asked then s else { s with agent := { s.agent with nameReqs := s.agent.nameReqs ++ [q] } }
        .hold (s1.updHart c u fun h => { h with naming := true, pendRd := d })

/-- R248: `jd.cnt`. -/
def execJdCnt (a d : XReg) : State → Host.Outcome State Fault Refusal :=
  hartOp fun s c u h =>
    let k := s.core c
    match h.getN a with
    | 0 => hartPut s c u d (if u then k.sentU else k.sentN)
    | 1 => hartPut s c u d (if u then k.recvU else k.recvN)
    | 2 => hartPut s c u d (s.entriesUsed c)
    | 3 => hartPut s c u d (k.held u)
    | 4 => hartPut s c u d (2048 - k.poolUsed)
    | 5 => hartPut s c u d k.transients
    | v => .exc s 25 v

end Sys2Proof.Machine
end

