-- ==== Sys2Proof/Machine/Spindle.lean ====
section
/-! DEFINITION. The block, Skein and context instructions of the harts (R153 to R160). -/

namespace Sys2Proof.Machine

/-! ### Skeins (R154 to R156) -/

/-- An instruction of a hart on one of its Skeins, by the handle in register a. -/
def skeinOp (a : XReg) (body : State → Nat → Bool → Hart → Nat → Skein → HIssue) : State → Host.Outcome State Fault Refusal :=
  hartOp fun s c u h =>
    match (s.core c).handleOf u (h.getN a) with
    | none => .exc s 25 (h.getN a)
    | some sk => body s c u h (h.getN a) sk

/-- A register written from outside the Fibre: it is PRESENT, and no failed read is recorded against it any more. -/
def Ctx.poke (x : Ctx) (r v : Nat) (tag : Bool) : Ctx :=
  let fs := (x.flaws.map fun f => { f with regs := f.regs.filter (· != r) }).filter fun f => !f.regs.isEmpty
  ({ x with flaws := fs }).setV r v tag

/-- R155: `jd.skalloc`. -/
def execJdSkalloc (a d : XReg) : State → Host.Outcome State Fault Refusal :=
  hartOp fun s c u h =>
    let v := h.getN a
    let n := v % 64
    let k := s.core c
    if v ≥ 256 || n = 0 || n > 32 then .exc s 25 v
    else
      let regs := 16 * (bits v 7 6 + 1)
      let free := ((List.range 32).filter fun i => (k.ctx i).st == .free).take n
      match (List.range 16).find? fun i => (k.skeins.toList.getD i none).isNone with
      | some g =>
        if k.canCreate u (List.replicate n regs) then
          let k1 := free.zipIdx.foldl (fun k p =>
            (k.createCtx p.1 u regs .stopped).updCtx p.1 fun x => { x with mbr := true, handle := some g, rank := p.2 }) k
          let sk : Skein := { urgent := u, members := free, code := bits v 7 6 }
          hartPut (s.setCore c (k1.setSkein g (some sk))) c u d g
        else hartPut s c u d (2 ^ 63 + 1)
      | none => hartPut s c u d (2 ^ 63 + 1)

/-- Whether every member is STOPPED with nothing outstanding. -/
def State.memberDone (s : State) (c i : Nat) : Bool := (s.ctx c i).st == .stopped && !s.outstanding c i
/-- Whether a member of a Skein is in a state. -/
def State.memberIn (s : State) (c : Nat) (sk : Skein) (st : CtxSt) : Bool := sk.members.any fun i => (s.ctx c i).st == st

/-- R156: a member as `jd.skstart` starts it. -/
def Ctx.start (x : Ctx) (n arg pos : Nat) : Ctx :=
  let y := (x.poke 0 (lanes4 x.rank n (arg % 2 ^ 32) (arg / 2 ^ 32)) false).poke 4 spadCap true
  { y with st := .ready, bmode := true, pcOff := 0, streamPos := pos, slot0 := {}, slot1 := {} }

/-- R156, R160: `jd.skstart`; as a release it stalls until the earlier accesses of the hart are performed
(notes/assumptions/47.md). -/
def execJdSkstart (b a d : XReg) : State → Host.Outcome State Fault Refusal :=
  skeinOp a fun s c u h g sk =>
    if s.memberIn c sk .faulted then hartPut s c u d 2
    else if !sk.members.all (s.memberDone c) then hartPut s c u d 3
    else if !(s.hartIds c u).isEmpty then .stall s
    else
      let tail := sk.basePos + sk.stream.length
      let k := sk.members.foldl (fun k i => k.updCtx i fun x => x.start sk.members.length (h.getN b) tail) (s.core c)
      let k1 := (k.setSkein g (some { sk with started := true, opened := true, stream := [], basePos := tail })).dropBlocks
      hartPut (s.setCore c k1) c u d 0
/-- R156, R138: `jd.skstop` closes the stream; members at its tail enter STOPPED. -/
def execJdSkstop (a d : XReg) : State → Host.Outcome State Fault Refusal :=
  skeinOp a fun s c u _ g sk =>
    let k := (s.core c).setSkein g (some { sk with opened := false })
    hartPut (s.setCore c (sk.members.foldl Core.stopAtTail k)) c u d 0
/-- R156, R217, R221: `jd.skfree`. -/
def execJdSkfree (a d : XReg) : State → Host.Outcome State Fault Refusal :=
  skeinOp a fun s c u _ g sk =>
    if !(sk.members.all fun i => s.memberDone c i || (s.ctx c i).st == .faulted) then hartPut s c u d 3
    else
      let k := s.core c
      let joined := (List.range 32).filter fun i => sk.name != 0 && (k.ctx i).joined && (k.ctx i).skein == sk.name
      let k1 := joined.foldl Core.leaveSkein k
      let k2 := (sk.members.foldl Core.freeCtx k1).setSkein g none
      let k3 := { k2 with residents := k2.residents.filter fun r => r.name != sk.name || sk.name == 0 }
      let s1 := s.setCore c k3.dropBlocks
      hartPut (if sk.name = 0 then s1 else s1.exitName sk.name) c u d 0

/-! ### Broadcasts (R157) -/

/-- R135: the blocks that streams hold, each once: a block has one entry, whichever positions it stands at. -/
def Core.streamBlocks (k : Core) : List Nat := (k.skeins.toList.flatMap fun g => g.elim [] Skein.stream).foldl setAdd []
/-- R135, R157: whether the buffer has an entry for a stream block: streams hold it already, or they hold fewer than 32 entries
and it has an entry or can take one. -/
def Core.streamRoom (k : Core) (b : Nat) : Bool :=
  k.streamBlocks.contains b || (k.streamBlocks.length < 32 && ((k.findBlock b).isSome || k.prefetchRoom))
/-- R157: the status of a broadcast. -/
def State.bcastStatus (s : State) (c : Nat) (sk : Skein) (b : Nat) : Nat :=
  if !sk.opened || !sk.started || s.memberIn c sk .stopped then 3
  else if s.memberIn c sk .faulted then 2
  else if sk.stream.length ≥ 8 || !(s.core c).streamRoom b then 1
  else 0
/-- R157: the fetch of a block starts. -/
def State.startFetch (s : State) (c : Nat) (u : Bool) (b : Nat) : State :=
  match s.fetchBlock c u b with
  | .wait s1 => s1
  | .miss va => s.updCore c fun k => k.addMiss va .fetch
  | _ => s
/-- R157, R160: `jd.bcast` and `jd.bcastw`; as a release it stalls until the earlier accesses of the hart are performed
(notes/assumptions/47.md). -/
def bcastOp (waits : Bool) (b a d : XReg) : State → Host.Outcome State Fault Refusal :=
  skeinOp a fun s c u h g sk =>
    let t := h.getN b
    if t % 64 ≠ 0 || !(s.core c).inWindow u t then .exc s 25 t
    else match s.bcastStatus c sk t with
      | 0 =>
        if !(s.hartIds c u).isEmpty then .stall s
        else
          let s1 := s.updCore c fun k => k.setSkein g (some { sk with stream := sk.stream ++ [t] })
          hartPut (s1.startFetch c u t) c u d 0
      | 1 => if waits then .stall (s.updHart c u fun h => { h with st := .waiting, wait := .bcastw }) else hartPut s c u d 1
      | r => hartPut s c u d r
def execJdBcast (b a d : XReg) : State → Host.Outcome State Fault Refusal := bcastOp false b a d
def execJdBcastw (b a d : XReg) : State → Host.Outcome State Fault Refusal := bcastOp true b a d

/-! ### Waiting and status (R158) -/

/-- R158, R160: whether a member keeps `jd.skwait` waiting; for a FAULTED one its writes are waited for
(notes/assumptions/47.md). -/
def State.memberBusy (s : State) (c i : Nat) : Bool :=
  match (s.ctx c i).st with
  | .dispatching => true | .ready => true | .running => true | .waiting => true | .translating => true
  | .stopped => s.outstanding c i
  | .faulted => (s.ctxReqs c i).any fun r => r.isWrite && r.stage != .performed
  | _ => false
/-- R158: `jd.skwait`. -/
def execJdSkwait (a d : XReg) : State → Host.Outcome State Fault Refusal :=
  skeinOp a fun s c u _ _ sk =>
    if sk.members.any (s.memberBusy c) then .stall (s.updHart c u fun h => { h with st := .waiting, wait := .skwait })
    else
      hartPut s c u d ((sk.members.map fun i => let x := s.ctx c i; b01 (x.st == .faulted) * 2 ^ x.rank).foldl (· + ·) 0)
/-- R158: `jd.skq`. -/
def execJdSkq (a d : XReg) : State → Host.Outcome State Fault Refusal :=
  skeinOp a fun s c u _ _ sk =>
    let count (p : Ctx → Bool) : Nat := (sk.members.filter fun i => p (s.ctx c i)).length
    let stopped := count fun x => x.st == .stopped
    let faulted := count fun x => x.st == .faulted
    let running := count fun x => !x.bmode && x.st != .stopped && x.st != .faulted
    hartPut s c u d (sk.members.length + sk.code * 2 ^ 6 + b01 u * 2 ^ 8 + b01 sk.opened * 2 ^ 9 + stopped * 2 ^ 10 +
      faulted * 2 ^ 16 + running * 2 ^ 22 + sk.stream.length * 2 ^ 28 +
      (sk.members.map fun i => 2 ^ (32 + i)).foldl (· + ·) 0)

/-! ### Reading and writing a Fibre (R159) -/

/-- R159: whether a selector is assigned, with its unused bits zero. -/
def fselOk (v : Nat) : Bool :=
  let kind := bits v 7 6
  let i := bits v 13 8
  !bit v 5 && v < 2 ^ 15 && (kind == 0 || !bit v 14) &&
  (match kind with
   | 0 => true
   | 1 => i < 8
   | 2 => i < 4 || i == 8 || i == 9
   | _ => i < 3)
/-- R159: whether a selector fails for a context that exists. -/
def Ctx.fselBad (x : Ctx) (u : Bool) (v : Nat) : Bool := x.lvl != u || (bits v 7 6 == 0 && bits v 13 8 ≥ x.nreg)
/-- R159: whether an index holds a SAVED normal context, of the other level for hart U. -/
def Core.savedOther (k : Core) (u : Bool) (i : Nat) : Bool := u && (k.ctx i).st == .free && (k.savedAt i).isSome
/-- R159: the value that a selector names in context i. R371: what a signed block holds is not seen. -/
def Ctx.fpeek (c : Ctx) (i v : Nat) : Nat :=
  let x := match c.signed with | some g => { c with r := g.entry } | none => c
  let n := bits v 13 8
  match bits v 7 6 with
  | 0 => if bit v 14 then hi64 (x.v n) else lo64 (x.v n)
  | 1 => x.ext n
  | 2 => if n < 4 then x.mask (BitVec.ofNat 2 n) else if n = 8 then x.r.flags.toNat else x.r.srseq.toNat
  | _ => if n = 0 then x.status i else if n = 1 then x.faultAddr else x.faultPc
/-- R159: the context after a write. -/
def Ctx.fpoke (x : Ctx) (v w : Nat) : Ctx :=
  let n := bits v 13 8
  match bits v 7 6 with
  | 0 => x.poke n (setBits (x.v n) (if bit v 14 then 64 else 0) 64 w) false
  | 1 => x.setExt n w
  | _ => if n < 4 then x.setMask (BitVec.ofNat 2 n) w else { x with r := { x.r with flags := BitVec.ofNat 5 w } }

/-- R159: `jd.fpeek`. -/
def execJdFpeek (a d : XReg) : State → Host.Outcome State Fault Refusal :=
  hartOp fun s c u h =>
    let v := h.getN a
    let x := s.ctx c (v % 32)
    if !fselOk v || (s.core c).savedOther u (v % 32) then .exc s 25 v
    else if x.st == .free || x.st == .dispatching then hartPut s c u d 0
    else if x.fselBad u v then .exc s 25 v
    else hartPut s c u d (x.fpeek (v % 32) v)
/-- R159: `jd.fpoke`. -/
def execJdFpoke (b a d : XReg) : State → Host.Outcome State Fault Refusal :=
  hartOp fun s c u h =>
    let v := h.getN a
    let x := s.ctx c (v % 32)
    if !fselOk v || bits v 7 6 == 3 || (bits v 7 6 == 2 && bits v 13 8 == 9) || (s.core c).savedOther u (v % 32) then .exc s 25 v
    else if x.st == .free || x.st == .dispatching then hartPut s c u d 3
    else if x.fselBad u v then .exc s 25 v
    else if x.st != .stopped && x.st != .faulted then hartPut s c u d 3
    else hartPut (s.setCtx c (v % 32) (x.fpoke v (h.getN b))) c u d 0

end Sys2Proof.Machine
end

