-- ==== Sys2Proof/Machine/Twister.lean ====
section
/-! DEFINITION. Engine commands and their completions (R295 to R297), and the Twister: operands (R300, R301), issue checks
(R303, R311), schedule (R304), accumulators (R305, R306, R50), latches and rotation (R307 to R309), checksum and epilogue
(R310, R311), status, save and restore (R312, R313). -/

namespace Sys2Proof.Machine

/-! ### Engine commands and completions (R295, R296) -/

/-- R296: whether a reply channel may be named by a party of a level. -/
def Core.replyOk (k : Core) (u : Bool) (ch : Nat) : Bool :=
  ch == 0 || (ch ≤ 511 && entReply (k.entry ch) && entLvl (k.entry ch) == u && entTarget (k.entry ch) ≤ 2)
/-- R296: whether a command with a reply channel finds an entry and a slot. -/
def State.canCommand (s : State) (c : Nat) (u : Bool) (ch : Nat) : Bool := ch == 0 || s.canSend c u true
/-- R296: reserves the entry and slot of a command with a reply channel; its seq, 0 for channel 0. -/
def State.reserve (s : State) (c : Nat) (u : Bool) (ch : Nat) : Nat × State :=
  if ch = 0 then (0, s)
  else
    let k := s.core c
    let (seq, k1) := k.nextSeq
    let e : Entry := { x := k.freeEntry, id := s.nextReq, seq := seq, lvl := u, slot := true, ans := .channel ch }
    (seq, { s.setCore c { k1 with table := k1.table ++ [e] } with nextReq := s.nextReq + 1 })
/-- R296: the payload of a completion. -/
def completion (status engine op flags count : Nat) (r1 r2 info : Nat) : List Byte :=
  bytesOf status 1 ++ bytesOf engine 1 ++ bytesOf op 1 ++ bytesOf flags 1 ++ bytesOf count 4 ++ bytesOf r1 8 ++
  bytesOf r2 8 ++ bytesOf info 8
/-- R296: an engine posts a completion to its own core. -/
def State.complete (s : State) (c : Nat) (u : Bool) (ch seq : Nat) (p : List Byte) : State :=
  if ch = 0 then s
  else s.post c { seq := seq, tenant := (s.core c).tenant, rcore := s.addrOf c, plen := 2, prio := u, answer := true
                  chan := ch, dest := s.addrOf c, payload := p }
/-- R274: sets the poison of the scratchpad granules that n bytes at an offset touch. -/
def State.poisonSpad (s : State) (c o n : Nat) : State :=
  s.updCore c fun k => { k with spad := { k.spad with poison := (granules o n 16).foldl setAdd k.spad.poison } }
/-- The poisoned 16-byte granules of n bytes of scratchpad, counted from the first. -/
def State.badGranules (s : State) (c o n : Nat) : List Nat :=
  (List.range (ceilDiv n 16)).filter fun j => s.poisonedAt (.spad c (o + 16 * j)) 16

/-! ### Types and shapes (R300 to R302) -/

def twFmt (ty : Nat) : Fmt :=
  match ty with
  | 0 => fmtB16 | 1 => fmt16 | 2 => fmtE4m3 | 3 => fmtE5m2 | 4 => fmtE4m3 | _ => fmtE2m1
/-- K per cycle. -/
def twRate (ty : Nat) : Nat := if ty ≤ 1 then 2 else if ty = 5 then 8 else 4
/-- Whether elements share scales. -/
def twMx (ty : Nat) : Bool := ty == 4 || ty == 5
/-- The K-group size of R50. -/
def twGroup (ty : Nat) : Nat := if ty ≤ 1 then 2 else if twMx ty then 32 else 4
/-- Bytes of n elements. -/
def twBytes (ty n : Nat) : Nat := if ty ≤ 1 then 2 * n else if ty = 5 then n / 2 else n

/-- R302: the shape word of a command. -/
structure TwShape where
  m : Nat
  n : Nat
  k : Nat
  ty : Nat
  back : Bool
  zf : Bool
  rblk : Nat
  cblk : Nat
  cnt : Nat
  bmm : Bool

/-- R302: reads a shape word. -/
def twShape (f7 w : Nat) : TwShape :=
  { m := 16 * (bits w 2 0 + 1), n := 16 * (bits w 5 3 + 1), k := 16 * (bits w 13 6 + 1), ty := bits w 16 14
    back := bit w 17, zf := bit w 18, rblk := bits w 21 19, cblk := bits w 24 22, cnt := bits w 28 25, bmm := f7 == 3 }

/-- R301: element bytes, scale bytes and size of an operand of some rows. -/
def TwShape.elems (h : TwShape) (rows : Nat) : Nat := twBytes h.ty (rows * h.k)
def TwShape.scales (h : TwShape) (rows : Nat) : Nat := if twMx h.ty then rows * h.k / 32 else 0
def TwShape.size (h : TwShape) (rows : Nat) : Nat :=
  if twMx h.ty then roundUp (h.elems rows) 16 + roundUp (h.scales rows) 16 else h.elems rows
/-- R306: the origin in C of product p. -/
def TwShape.origin (h : TwShape) (p : Nat) : Nat × Nat :=
  if h.bmm then (p / (128 / h.n) * h.m, p % (128 / h.n) * h.n) else (16 * h.rblk, 16 * h.cblk)
/-- R304: tiles of a product, of the command, and the array cycles of a tile. -/
def TwShape.tiles (h : TwShape) : Nat := ceilDiv h.m 32 * ceilDiv h.n 32
def TwShape.total (h : TwShape) : Nat := (h.cnt + 1) * h.tiles
def TwShape.cycles (h : TwShape) : Nat := h.k / twRate h.ty
/-- The rows of the region. -/
def TwShape.rows (h : TwShape) : List Nat :=
  if h.bmm then List.range ((h.cnt / (128 / h.n) + 1) * h.m) else (List.range h.m).map (16 * h.rblk + ·)

/-- The rows of operand A or B. -/
def TwShape.side (h : TwShape) (isB : Bool) : Nat := if isB then h.n else h.m
/-- R301: the source field of A or B in an operand word. -/
def twSource (rs1 : Nat) (isB : Bool) : Nat := if isB then bits rs1 41 21 else bits rs1 20 0
def srcKind (f : Nat) : Nat := bits f 20 19

/-! ### Values (R50, R305) -/

/-- The code of element k of a row. -/
def twCode (ty : Nat) (o : LatchBuf) (kk row k : Nat) : Nat :=
  let e := row * kk + k
  let at_ (i : Nat) : Nat := (o.elems.getD i 0#8).toNat
  if ty ≤ 1 then at_ (2 * e) + 256 * at_ (2 * e + 1)
  else if ty = 5 then (if e % 2 = 0 then at_ (e / 2) % 16 else at_ (e / 2) / 16)
  else at_ e
/-- The value of element k of a row, with its block's scale. -/
def twVal (ty : Nat) (o : LatchBuf) (kk row k : Nat) : FVal :=
  let x := twCode ty o kk row k
  if ty = 6 then .ofInt (sext x 8)
  else if twMx ty then mxValue (twFmt ty) (o.scales.getD (row * (kk / 32) + k / 32) 0#8).toNat x
  else fval (twFmt ty) x

/-- R50: one K-group into an accumulator. -/
def twAdd (ty : Nat) (a b : LatchBuf) (kk i j k0 : Nat) (acc fl : Nat) : Nat × Nat :=
  let ks := (List.range (twGroup ty)).map (k0 + ·)
  if ty = 6 then
    let sum := ks.foldl (fun (s : Int) k => s + sext (twCode ty a kk i k) 8 * sext (twCode ty b kk j k) 8) 0
    (trunc (satS (sext acc 32 + sum) 32) 32, fl)
  else
    let ps := ks.map fun k => (twVal ty a kk i k, twVal ty b kk j k)
    let ts := fval fmt32 acc :: ps.map fun p => fmulX p.1 p.2
    let x := fsumX ts .rne
    let y := fround fmt32 .rne false 0 x
    (y.1, fl ||| nvIf x.isNan ||| y.2)

/-- R310: one K-group into the checksum of a row and a block of 16 columns from column j0 of the product. -/
def twCheck (ty : Nat) (a b : LatchBuf) (kk i j0 k0 : Nat) (cs : Nat) : Nat :=
  let ks := (List.range (twGroup ty)).map (k0 + ·)
  let ts := fval fmt32 cs :: ks.map fun k =>
    fmulX (twVal ty a kk i k) (fsumX ((List.range 16).map fun j => twVal ty b kk (j0 + j) k) .rne)
  (fround fmt32 .rne false 0 (fsumX ts .rne)).1

/-- Sets an element of a table whose unlisted elements are zero. -/
def zput (t : Tab (BitVec 32)) (k v : Nat) : Tab (BitVec 32) :=
  if v % 2 ^ 32 = 0 then tabErase t k else tabSet t k (BitVec.ofNat 32 v)
/-- Reads one. -/
def zget (t : Tab (BitVec 32)) (k : Nat) : Nat := ((tabGet t k).getD 0#32).toNat

/-- R304, R306: K positions k0 to k0 + n of tile t of the product at (ro, co). -/
def twTile (h : TwShape) (a b : LatchBuf) (ro co t k0 n : Nat) (bank : Bank) (fl : Nat) : Bank × Nat :=
  let wide := ceilDiv h.n 32
  let i0 := t / wide * 32
  let j0 := t % wide * 32
  let is := (List.range (min 32 (h.m - i0))).map (i0 + ·)
  let js := (List.range (min 32 (h.n - j0))).map (j0 + ·)
  let gs := (List.range (n / twGroup h.ty)).map fun g => k0 + g * twGroup h.ty
  let fresh := h.zf && k0 == 0
  let r := is.foldl (fun r i => js.foldl (fun (r : Bank × Nat) j =>
    let key := 128 * (ro + i) + co + j
    let acc := if fresh then 0 else zget r.1.acc key
    let x := gs.foldl (fun (x : Nat × Nat) k => twAdd h.ty a b h.k i j k x.1 x.2) (acc, r.2)
    ({ r.1 with acc := zput r.1.acc key x.1 }, x.2)) r) (bank, fl)
  let bank1 := is.foldl (fun bk i => (js.filter fun j => j % 16 == 0).foldl (fun (bk : Bank) j =>
    let key := 8 * (ro + i) + (co + j) / 16
    let cs := if fresh then 0 else zget bk.cs key
    let v := gs.foldl (fun cs k => twCheck h.ty a b h.k i j k cs) cs
    { bk with cs := zput bk.cs key v, ints := setPut bk.ints key (h.ty == 6) }) bk) r.1
  (bank1, r.2)

/-! ### Banks (R305) -/

/-- The physical bank that a bank field selects. -/
def Twister.bank (t : Twister) (back : Bool) : Bank := if t.front != back then t.bank1 else t.bank0
def Twister.setBank (t : Twister) (back : Bool) (b : Bank) : Twister :=
  if t.front != back then { t with bank1 := b } else { t with bank0 := b }
/-- R305: the rows of an operand of `rows` rows that poisoned granules affect. -/
def TwShape.badRows (h : TwShape) (o : LatchBuf) (rows : Nat) : List Nat :=
  let rb := h.elems 1
  let rs := h.scales 1
  (List.range rows).filter fun i =>
    (o.bad.any fun g => decide (16 * g < (i + 1) * rb) && decide (i * rb < 16 * g + 16)) ||
    (o.badScales.any fun g => decide (16 * g < (i + 1) * rs) && decide (i * rs < 16 * g + 16))

/-! ### Latches and operands (R307) -/

def Twister.latch (t : Twister) (isB : Bool) : Latch := if isB then t.b else t.a
def Twister.setLatch (t : Twister) (isB : Bool) (l : Latch) : Twister := if isB then { t with b := l } else { t with a := l }
/-- R307: a batch opens or closes, a restore or a save. -/
def Twister.clearLatches (t : Twister) : Twister := { t with a := {}, b := {} }
/-- R301: an operand from its bytes and poisoned granules. -/
def TwShape.operand (h : TwShape) (rows : Nat) (d : List Byte) (bad : List Nat) : LatchBuf :=
  let e := h.elems rows
  let at_ := roundUp e 16
  { elems := d.take e, scales := (d.drop at_).take (h.scales rows), bad := bad.filter fun g => 16 * g < at_
    badScales := (bad.filter fun g => 16 * g ≥ at_).map fun g => g - at_ / 16 }
/-- R307: the prefix of a latched operand in a command's own form. -/
def TwShape.prefixOf (h : TwShape) (rows : Nat) (o : LatchBuf) : LatchBuf :=
  { elems := o.elems.take (h.elems rows), scales := o.scales.take (h.scales rows)
    bad := o.bad.filter fun g => 16 * g < h.elems rows, badScales := o.badScales.filter fun g => 16 * g < h.scales rows }
/-- R307: whether a buffer has enough bytes. -/
def TwShape.enough (h : TwShape) (rows : Nat) (o : LatchBuf) : Bool :=
  h.elems rows ≤ o.elems.length && h.scales rows ≤ o.scales.length
/-- R307: whether a latch source is absent or too short; an awaited operand is not absent. -/
def TwShape.latchBad (h : TwShape) (rows : Nat) (l : Latch) : Bool :=
  if l.e then l.o == .full && !h.enough rows l.other else !(l.v && h.enough rows l.cur)
/-- R307: a latch is loaded from the scratchpad or a hank. -/
def Latch.load (_ : Latch) (o : LatchBuf) : Latch :=
  if o.elems.length ≤ 32768 then { cur := o, v := true } else {}

/-- What an attempt to read an operand comes to. -/
inductive TwGet where
  | got (k : Core) (o : LatchBuf)
  | wait (k : Core)
  | fail (status : Nat)

/-- The running command, changed. -/
def Core.updCmd (k : Core) (f : TwCmd → TwCmd) : Core := { k with tw := { k.tw with cmd := k.tw.cmd.map f } }
/-- What has been read from a hank source. -/
def TwCmd.part (x : TwCmd) (isB : Bool) : List Byte × List Nat := if isB then (x.partB, x.badB) else (x.partA, x.badA)
def TwCmd.setPart (x : TwCmd) (isB : Bool) (d : List Byte) (bad : List Nat) : TwCmd :=
  if isB then { x with partB := d, badB := bad } else { x with partA := d, badA := bad }

/-- R301: takes filled slots of hank i until n bytes have been read; each is freed once read. -/
def Core.takeSlots (k : Core) (i n : Nat) (d : List Byte) (bad : List Nat) : Nat → Core × List Byte × List Nat
  | 0 => (k, d, bad)
  | fuel + 1 =>
    if n ≤ d.length then (k, d, bad)
    else match hkApply .cons (k.hank i) 1 with
      | .ok (h1, some slot) =>
        let e := hkElem (k.hank i)
        let h2 := match hkApply .free h1 1 with | .ok (h, _) => h | .error _ => h1
        let b := (List.range (e / 16)).filter fun j => setHas k.spad.poison (slot / 16 + j)
        (k.setHank i h2).takeSlots i n (d ++ k.spad.read slot e) (bad ++ b.map (d.length / 16 + ·)) fuel
      | _ => (k, d, bad)

/-- R301, R307: reads the operand A or B of product p of the running command. -/
def State.twGet (s : State) (c : Nat) (x : TwCmd) (isB : Bool) (p : Nat) : TwGet :=
  let k := s.core c
  let h := twShape x.f7 x.rs2
  let f := twSource x.rs1 isB
  let rows := h.side isB
  let size := h.size rows
  let l := k.tw.latch isB
  let load (k : Core) (o : LatchBuf) : TwGet := .got { k with tw := k.tw.setLatch isB (l.load o) } o
  match srcKind f with
  | 0 =>
    let o := bits f 18 0 + p * size
    if l.o == .filling then .wait k
    else load k (h.operand rows (s.readAt (.spad c o) size) (s.badGranules c o size))
  | 1 =>
    let i := bits f 3 0
    if !hkValid (k.hank i) || hkLel (k.hank i) != (if isB then x.lelB else x.lelA) then .fail 7
    else if l.o == .filling then .wait k
    else
      let q := x.part isB
      let (k1, d, bad) := k.takeSlots i size q.1 q.2 (size / 16)
      if d.length < size then .wait (k1.updCmd fun x => x.setPart isB d bad)
      else load (k1.updCmd fun x => x.setPart isB [] []) (h.operand rows d bad)
  | _ =>
    if l.e then
      if l.o == .full then
        .got { k with tw := k.tw.setLatch isB { cur := l.other, v := true } } (h.prefixOf rows l.other)
      else .wait k
    else .got k (h.prefixOf rows l.cur)

/-! ### Rotation (R308, R309) -/

/-- R309: the latches that a rotation command sends. -/
def twSends (f7 : Nat) (isB : Bool) : Bool := f7 == 1 || (f7 == 2 && isB)
/-- R308: the fields of a domain. -/
def domX (d : Nat) : Nat := bits d 5 0
def domY (d : Nat) : Nat := bits d 11 6
def domW (d : Nat) : Nat := bits d 17 12 + 1
def domH (d : Nat) : Nat := bits d 23 18 + 1
def domEast (d : Nat) : Bool := bit d 24
/-- R308: the neighbour that takes what a core sends: A to the west, B to the west or the north. -/
def twDown (d c : Nat) (isB : Bool) : Nat :=
  let x := coreX c
  let y := coreY c
  if isB && !domEast d then (if y = domY d then domY d + domH d - 1 else y - 1) * 48 + x
  else y * 48 + (if x = domX d then domX d + domW d - 1 else x - 1)
/-- R308, R347: the direction and the number of the hops to that neighbour. A wrap of a domain as wide as the package is one
hop; that of a narrower one goes back through the cores between (notes/assumptions/99.md). -/
def twPath (d c : Nat) (isB : Bool) : Dir × Nat :=
  if isB && !domEast d then
    if coreY c = domY d && domH d < 48 then (.south, domH d - 1) else (.north, 1)
  else if coreX c = domX d && domW d < 48 then (.east, domW d - 1) else (.west, 1)
/-- R309: the sends of a credited command start. -/
def State.twSend (s : State) (c : Nat) (x : TwCmd) : State :=
  let t := (s.core c).tw
  let one (isB : Bool) : List Rotated :=
    let p := twPath t.dom c isB
    if twSends x.f7 isB then
      [{ src := c, dst := twDown t.dom c isB, isB := isB, buf := (t.latch isB).cur, dir := p.1, crossed := List.replicate p.2 0 }]
    else []
  { s with rotated := s.rotated ++ one false ++ one true }
/-- R309, R345: the beats of a rotated operand; its scales and poison bits ride with them. -/
def Rotated.beats (r : Rotated) : Nat := max 1 (ceilDiv r.buf.elems.length 64)
/-- The core before link h of its path. -/
def Rotated.node (r : Rotated) : Nat → Nat
  | 0 => r.src
  | h + 1 => neighbour (r.node h) r.dir
/-- The beats that have reached the core before link h; for the number of links, those that have reached the latch. -/
def Rotated.reached (r : Rotated) (h : Nat) : Nat := if h = 0 then r.beats else r.crossed.getD (h - 1) 0
/-- The link in a direction that a beat waits to cross at core c. -/
def Rotated.hopAt (r : Rotated) (c : Nat) (d : Dir) : Option Nat :=
  if r.dir = d then (List.range r.crossed.length).find? fun h => r.node h == c && decide (r.crossed.getD h 0 < r.reached h) else none
/-- R345: port credits return to the sender of a link in a direction. -/
def State.portCredit (s : State) (c : Nat) (d : Dir) (n : Int) : State := s.updCore c fun k => { k with side := k.side.addCredit d n }
/-- R345: the link before h is freed of n beats; none before the first. -/
def Rotated.freePort (r : Rotated) (h : Nat) (n : Int) (s : State) : State :=
  if h = 0 then s else s.portCredit (r.node (h - 1)) r.dir n
/-- R345, R347: a beat crosses link h of its path. -/
def State.crossBeat (s : State) (r : Rotated) (h : Nat) : State :=
  let s1 := r.freePort h 1 (s.portCredit (r.node h) r.dir (-1))
  { s1 with rotated := s1.rotated.map fun q => if q == r then { r with crossed := r.crossed.set h (r.crossed.getD h 0 + 1) } else q }
/-- R367: a rotated operand is dropped; its beats free their ports. -/
def State.dropRotated (s : State) (r : Rotated) : State :=
  let after (h : Nat) : Nat := if h = r.crossed.length then r.taken else r.crossed.getD h 0
  let s1 := (List.range (r.crossed.length + 1)).foldl (fun s h => r.freePort h ((r.reached h : Int) - after h) s) s
  { s1 with rotated := s1.rotated.filter fun q => q != r }

/-! ### The epilogue (R310, R311) -/

/-- The value of an FP32 code as an integer times 2^-149. -/
def f32Scaled (x : Nat) : Int :=
  match fval fmt32 x with
  | .fin n m e _ => let v : Int := m <<< (e + 149).toNat; if n then -v else v
  | _ => 0
def f32Finite (x : Nat) : Bool := bits x 30 23 != 255
/-- R310: whether a block of a row passes. -/
def Bank.blockOk (b : Bank) (row blk : Nat) : Bool :=
  let key := 8 * row + blk
  let xs := (List.range 16).map fun j => zget b.acc (128 * row + 16 * blk + j)
  let cs := zget b.cs key
  setHas b.ints key || !(f32Finite cs && xs.all f32Finite) ||
    (let sum := xs.foldl (fun (a : Int) x => a + f32Scaled x) 0
     let abs := xs.foldl (fun a x => a + (f32Scaled x).natAbs) 0
     decide ((sum - f32Scaled cs).natAbs * 4096 ≤ abs))

/-- R311: the output type of a code. -/
def epiType (n : Nat) : TyCode :=
  match n with
  | 0 => .f32 | 1 => .f16 | 2 => .bf16 | 3 => .e4m3 | 4 => .e5m2 | _ => .s8
def rmOf (n : Nat) : Rm := match n with | 0 => .rne | 1 => .rtz | 2 => .rup | 3 => .rdn | _ => .rna
/-- R311: the fields of an epilogue. -/
structure Epi where
  m : Nat
  n : Nat
  rblk : Nat
  cblk : Nat
  back : Bool
  ot : Nat
  rm : Nat
  sat : Bool
  act : Nat
  par : Bool
  doff : Nat
  poff : Nat
  pitch : Nat
def epiOf (r1 r2 : Nat) : Epi :=
  { m := 16 * (bits r2 2 0 + 1), n := 16 * (bits r2 5 3 + 1), rblk := bits r2 8 6, cblk := bits r2 11 9, back := bit r2 12
    ot := bits r2 15 13, rm := bits r2 18 16, sat := bit r2 19, act := bits r2 21 20, par := bit r2 22
    doff := bits r1 18 0, poff := bits r1 37 19, pitch := 16 * bits r1 63 48 }
def Epi.osize (e : Epi) : Nat := (epiType e.ot).bitsN / 8

/-- R311: one element of the output, and its flags. -/
def Epi.elem (e : Epi) (c : FVal) (sc bi : Nat) : Nat × Nat :=
  let x := fval fmt32 sc
  let y := fval fmt32 bi
  let sum := fsumX [fmulX c x, y] .rne
  let z := fround fmt32 .rne false 0 sum
  let w := match e.act with
    | 0 => (z.1, 0)
    | 1 => (if fmt32.neg z.1 && !fmt32.isNan z.1 then 0 else z.1, 0)
    | _ => spLane .tanh .f32 z.1
  let o := cvtElem (epiType e.ot) .f32 (rmOf e.rm) e.sat 0 w.1
  (o.1, nvIf sum.isNan ||| z.2 ||| w.2 ||| o.2)

/-- R311: writes the rows that are left; the failure of R310 ends it. -/
def State.epiRows (s : State) (c : Nat) (e : Epi) (bad : Bool) (ps : List (Nat × Nat)) (fl : Nat) : List Nat → State × Nat × Option (Nat × Nat)
  | [] => (s, fl, none)
  | i :: rest =>
    let b := (s.core c).tw.bank e.back
    let row := 16 * e.rblk + i
    match (List.range (e.n / 16)).find? fun j => !b.blockOk row (e.cblk + j) with
    | some j =>
      let s1 := (List.range i).foldl (fun s r => s.poisonSpad c (e.doff + e.pitch * r) (e.n * e.osize)) s
      (s1, fl, some (row, e.cblk + j))
    | none =>
      let out := (List.range e.n).map fun j =>
        let code := zget b.acc (128 * row + 16 * e.cblk + j)
        let isInt := setHas b.ints (8 * row + e.cblk + j / 16)
        let p := ps.getD j (0x3F800000, 0)
        if isInt then e.elem (.ofInt (sext code 32)) p.1 p.2 else e.elem (fval fmt32 code) p.1 p.2
      let o := e.doff + e.pitch * i
      let s1 := s.storeAt (.spad c o) (out.flatMap fun x => bytesOf x.1 e.osize) none
      let s2 := if bad || setHas b.poison row then s1.poisonSpad c o (e.n * e.osize) else s1
      s2.epiRows c e bad ps (out.foldl (fun f x => f ||| x.2) fl) rest

/-- R311: an epilogue: the state, flags, whether parameters were poisoned, and the failing row and block. -/
def State.epilogue (s : State) (c : Nat) (r1 r2 : Nat) : State × Nat × Bool × Option (Nat × Nat) :=
  let e := epiOf r1 r2
  let ps := if e.par then (List.range e.n).map fun j =>
      ((s.core c).spad.num (e.poff + 4 * j) 4, (s.core c).spad.num (e.poff + 4 * e.n + 4 * j) 4) else []
  let bad := e.par && s.poisonedAt (.spad c e.poff) (8 * e.n)
  let (s1, fl, f) := s.epiRows c e bad ps 0 (List.range e.m)
  (s1, fl, bad, f)

/-! ### Running a command (R304) -/

/-- What a run of a command comes to. -/
inductive TwEnd where
  | blocked
  | paused
  | ended (status info : Nat)

/-- R304, R306: array cycles of the current product, tile by tile, at most `budget`; the cycles run. -/
def twProduct (h : TwShape) (a b : LatchBuf) (ro co last : Nat) (x : TwCmd) (bank : Bank) (budget : Nat) :
    Nat → TwCmd × Bank × Nat
  | 0 => (x, bank, 0)
  | fuel + 1 =>
    let left := h.cycles - 16 * x.kpos / twRate h.ty
    let n := min left budget
    if x.tiles ≥ last || n = 0 then (x, bank, 0)
    else
      let (bk, fl) := twTile h a b ro co (x.tiles % h.tiles) (16 * x.kpos) (n * twRate h.ty) bank x.flags
      let x1 := { x with flags := fl }
      let x2 := if n = left then { x1 with tiles := x.tiles + 1, kpos := 0 }
        else { x1 with kpos := x.kpos + n * twRate h.ty / 16 }
      let r := twProduct h a b ro co last x2 bk (budget - n) fuel
      (r.1, r.2.1, n + r.2.2)

/-- R305, R306: the current product with its operands. -/
def Core.twCompute (k : Core) (x : TwCmd) (a b : LatchBuf) (budget : Nat) : Core × Nat :=
  let h := twShape x.f7 x.rs2
  let p := x.tiles / h.tiles
  let (ro, co) := h.origin p
  let b0 := k.tw.bank h.back
  let b1 := if h.zf && x.tiles == 0 && x.kpos == 0 then { b0 with poison := h.rows.foldl setDel b0.poison } else b0
  let rowsB := if b.bad.isEmpty && b.badScales.isEmpty then [] else List.range h.m
  let marks := (h.badRows a h.m ++ rowsB).map (ro + ·)
  let b2 := { b1 with poison := marks.foldl setAdd b1.poison }
  let (x1, b3, n) := twProduct h a b ro co ((p + 1) * h.tiles) { x with poison := x.poison || !marks.isEmpty } b2 budget 17
  let done := x1.tiles == (p + 1) * h.tiles
  let keep (isB : Bool) (o : Option LatchBuf) : Option LatchBuf :=
    if done && srcKind (twSource x.rs1 isB) != 2 then none else o
  ({ k with tw := { k.tw.setBank h.back b3 with cmd := some { x1 with opA := keep false x1.opA, opB := keep true x1.opB } } }, n)

/-- One stage of a command: its operands, its credits, or array work; none where it goes no further. -/
def State.twStage (s : State) (c : Nat) (x : TwCmd) (budget : Nat) : State × Nat × Option TwEnd :=
  let h := twShape x.f7 x.rs2
  let k := s.core c
  let rotating := x.f7 == 1 || x.f7 == 2
  let bad (isB : Bool) : Bool := srcKind (twSource x.rs1 isB) == 2 && h.latchBad (h.side isB) (k.tw.latch isB)
  let get (isB : Bool) : State × Nat × Option TwEnd :=
    if bad isB then (s, 0, some (.ended 5 0))
    else match s.twGet c x isB (x.tiles / h.tiles) with
    | .got k1 o => (s.setCore c (k1.updCmd fun x => if isB then { x with opB := some o } else { x with opA := some o }), 0, none)
    | .wait k1 => (s.setCore c k1, 0, some .blocked)
    | .fail st => (s, 0, some (.ended st 0))
  if x.f7 = 4 then
    if budget = 0 then (s, 0, some .paused)
    else
      let (s1, fl, bad, f) := s.epilogue c x.rs1 x.rs2
      let s2 := s1.updCore c fun k => k.updCmd fun x => { x with flags := fl }
      match f with
      | some (row, blk) => (s2, 1, some (.ended 3 (row + 256 * blk)))
      | none => (s2, 1, some (.ended (if bad then 4 else 0) 0))
  else if x.tiles ≥ h.total then
    if rotating && (s.rotated.any fun r => r.src == c) then (s, 0, some .blocked)
    else (s, 0, some (.ended (if x.poison then 4 else 0) 0))
  else if x.opA.isNone && x.opB.isNone && (bad false || bad true) then (s, 0, some (.ended 5 0))
  else match x.opA, x.opB with
    | none, _ => get false
    | _, none => get true
    | some a, some b =>
      if budget = 0 then (s, 0, some .paused)
      else if rotating && !x.credited then
        if (!twSends x.f7 false || x.credA) && x.credB then
          ((s.twSend c x).updCore c fun k => k.updCmd fun x => { x with credited := true }, 0, none)
        else (s, 0, some .blocked)
      else
        let (k1, n) := k.twCompute x a b budget
        (s.setCore c k1, n, none)

/-- Runs the command of a core's Twister for at most `budget` array cycles; the cycles run. -/
def State.twLoop (s : State) (c budget : Nat) : Nat → State × Nat × TwEnd
  | 0 => (s, 0, .blocked)
  | fuel + 1 =>
    match (s.core c).tw.cmd with
    | none => (s, 0, .blocked)
    | some x =>
      match s.twStage c x budget with
      | (s1, n, some e) => (s1, n, e)
      | (s1, n, none) =>
        let r := s1.twLoop c (budget - n) fuel
        (r.1, n + r.2.1, r.2.2)

/-- R295 to R297, R309: a command ends; R307: one that ends with LATCH changes no latch. -/
def State.twFinish (s : State) (c : Nat) (status info : Nat) : State :=
  match (s.core c).tw.cmd with
  | none => s
  | some x =>
    let t := (s.core c).tw
    let expect (isB : Bool) (l : Latch) : Latch := if x.credited && twSends x.f7 isB && status ≠ 5 then { l with e := true } else l
    let s1 := s.updCore c fun k => { k with tw := { t with cmd := none, a := expect false t.a, b := expect true t.b } }
    s1.complete c t.ownerU x.chan x.seq (completion status 0 x.f7 x.flags x.steps x.rs1 x.rs2 info)

/-- R304: the command of a core's Twister runs until it ends, waits, or has run `budget` array cycles. -/
def State.twRun (s : State) (c budget : Nat) : State :=
  match (s.core c).tw.cmd with
  | none => s
  | some x =>
    if s.anyPending c x.after || (s.core c).tw.saving.isSome then s
    else
      let (s1, n, e) := s.twLoop c budget 128
      let s2 := s1.updCore c fun k => k.updCmd fun x => { x with steps := x.steps + ceilDiv n 1024 }
      match e with
      | .ended st info => s2.twFinish c st info
      | _ => s2

/-- R304: the array cycles of any command. -/
def twAll : Nat := 2 ^ 32

/-- R296: a Twister command runs on, and ends with its completion once nothing is left. That of a halted level is
stopped (R162). -/
def execTwisterCommandEnd : State → Host.Outcome State Fault Refusal := fun s =>
  let k := s.core s.ev.core
  if !k.tw.ownerU && k.level != .live then .next s else .next (s.twRun s.ev.core twAll)

/-- R304, R309: a halt or a save stops the running command at a step boundary (notes/assumptions/38.md). -/
def State.twStop (s : State) (c : Nat) : State :=
  match (s.core c).tw.cmd with
  | none => s
  | some _ =>
    let (n, s1) := s.takeFree
    s1.twRun c (1024 * n)

/-- R307, R309: a credit of the neighbour in a direction reaches a core. -/
def execLatchCredit : State → Host.Outcome State Fault Refusal := fun s =>
  let c := s.ev.core
  let t := (s.core c).tw
  match t.cmd with
  | none => .next s
  | some x =>
    let grant (isB : Bool) : Bool :=
      let d := twDown t.dom c isB
      let n := (s.core d).tw
      t.dom != 0 && twSends x.f7 isB && (s.ev.dir == (if isB && !domEast t.dom then Dir.north else .west)) &&
        n.dom == t.dom && (n.latch isB).o == .free && !(s.rotated.any fun r => r.dst == d && r.isB == isB)
    .next (s.updCore c fun k => k.updCmd fun x => { x with credA := x.credA || grant false, credB := x.credB || grant true })

/-- R307: a rotated flit reaches a latch and frees its port; the first begins to fill it, and the last makes it FULL. -/
def execLatchFlitArrival : State → Host.Outcome State Fault Refusal := fun s =>
  let c := s.ev.core
  let isB := s.ev.b
  match s.rotated.find? fun r => r.dst == c && r.isB == isB with
  | none => .next s
  | some r =>
    let l := (s.core c).tw.latch isB
    let put (s : State) (l : Latch) : State := s.updCore c fun k => { k with tw := k.tw.setLatch isB l }
    let n := r.taken + 1
    if r.reached r.crossed.length < n then .next s
    else
      let s1 := r.freePort r.crossed.length 1 s
      let begun := r.taken ≠ 0 || l.o == .free
      let l1 : Latch := if r.taken = 0 && l.o == .free then { l with o := .filling } else l
      if n < r.beats then
        .next (put { s1 with rotated := s1.rotated.map fun q => if q == r then { r with taken := n } else q } l1)
      else
        .next (put { s1 with rotated := s1.rotated.filter fun q => q != r }
          (if begun && l1.o == .filling then { l1 with o := .full, other := r.buf } else l1))

/-! ### Issue (R299, R303, R311) -/

/-- R299, R313: whether the Twister is at work: it runs a command, or an image is being written. -/
def Twister.busy (t : Twister) : Bool := t.cmd.isSome || t.saving.isSome
/-- R299: whether a hart holds the open batch. -/
def Twister.heldBy (t : Twister) (u : Bool) : Bool := t.openB && t.ownerU == u

/-- R303: the source check of A or B: an unassigned kind or a bit that no field uses. -/
def srcOk (f : Nat) : Bool :=
  match srcKind f with
  | 0 => true
  | 1 => bits f 18 4 == 0
  | 2 => bits f 18 0 == 0
  | _ => false

/-- R303: the operand that fails the first failing check of a compute command. -/
def Core.twBad (k : Core) (u : Bool) (f7 r1 r2 : Nat) : Option Nat :=
  let h := twShape f7 r2
  let t := k.tw
  let src (isB : Bool) : Nat := twSource r1 isB
  let both (p : Bool → Bool) : Bool := p false || p true
  let hank (isB : Bool) : Nat := k.hank (bits (src isB) 3 0)
  if !t.heldBy u then some r1
  else if bits r1 63 52 ≠ 0 || both fun b => !srcOk (src b) then some r1
  else if bits r2 63 29 ≠ 0 || h.ty = 7 || (h.bmm && (h.rblk ≠ 0 || h.cblk ≠ 0)) || (!h.bmm && h.cnt ≠ 0) then some r2
  else if twMx h.ty && h.k % 32 ≠ 0 then some r2
  else if (if h.bmm then (h.cnt / (128 / h.n) + 1) * h.m > 128 else 16 * h.rblk + h.m > 128 || 16 * h.cblk + h.n > 128) then some r2
  else if (both fun b => srcKind (src b) == 0 &&
      (src b % 16 != 0 || decide (bits (src b) 18 0 + (h.cnt + 1) * h.size (h.side b) > 524288))) then some r1
  else if (both fun b => srcKind (src b) == 1 && (!hkValid (hank b) || h.size (h.side b) % hkElem (hank b) != 0)) then some r1
  else if f7 = 1 && ((both fun b => srcKind (src b) == 1) || t.dom == 0 || domEast t.dom) then some r1
  else if f7 = 1 && both fun b => decide (h.elems (h.side b) > 32768) then some r2
  else if f7 = 2 && (srcKind (src true) == 1 || t.dom == 0) then some r1
  else if f7 = 2 && h.elems h.n > 32768 then some r2
  else if !k.replyOk u (bits r1 51 42) then some r1
  else none

/-- R303, R311: the same for an epilogue. -/
def Core.epiBad (k : Core) (u : Bool) (r1 r2 : Nat) : Option Nat :=
  let e := epiOf r1 r2
  if !k.tw.heldBy u then some r1
  else if e.act = 3 || e.ot ≥ 6 || e.rm > 4 || (e.sat && e.ot ≠ 3 && e.ot ≠ 4) then some r2
  else if bits r2 63 23 ≠ 0 then some r2
  else if !k.replyOk u (bits r1 47 38) then some r1
  else if 16 * e.rblk + e.m > 128 || 16 * e.cblk + e.n > 128 then some r2
  else if e.pitch < e.n * e.osize then some r1
  else if e.doff % 16 ≠ 0 || (e.par && e.poff % 16 ≠ 0) then some r1
  else if e.doff + e.pitch * (e.m - 1) + e.n * e.osize > 524288 || (e.par && e.poff + 8 * e.n > 524288) then some r1
  else none

/-- R295, R296, R299: issues a command whose checks have passed. -/
def State.twAccept (s : State) (c : Nat) (u : Bool) (f7 r1 r2 ch : Nat) (d : XReg) : HIssue :=
  let k := s.core c
  if k.tw.busy || !s.canCommand c u ch then .stall s
  else
    let after := s.hartIds c u
    let (seq, s1) := s.reserve c u ch
    let lel (isB : Bool) : Nat := hkLel (k.hank (bits (twSource r1 isB) 3 0))
    let x : TwCmd := { f7 := f7, rs1 := r1, rs2 := r2, seq := seq, chan := ch, after := after, lelA := lel false, lelB := lel true }
    .retire (s1.updCore c fun k =>
      { k.setHart u ((k.hart u).setN d seq) with tw := { k.tw with cmd := some x, seq := seq } })

/-- R303: a compute command. -/
def twCommand (f7 : Nat) (b a d : XReg) : State → Host.Outcome State Fault Refusal :=
  hartOp fun s c u h =>
    match (s.core c).twBad u f7 (h.getN a) (h.getN b) with
    | some v => .exc s 25 v
    | none => s.twAccept c u f7 (h.getN a) (h.getN b) (bits (h.getN a) 51 42) d
def execJdTwmma (b a d : XReg) : State → Host.Outcome State Fault Refusal := twCommand 0 b a d
def execJdTwrot (b a d : XReg) : State → Host.Outcome State Fault Refusal := twCommand 1 b a d
def execJdTwring (b a d : XReg) : State → Host.Outcome State Fault Refusal := twCommand 2 b a d
def execJdTwbmm (b a d : XReg) : State → Host.Outcome State Fault Refusal := twCommand 3 b a d
/-- R311: `jd.twepi`. -/
def execJdTwepi (b a d : XReg) : State → Host.Outcome State Fault Refusal :=
  hartOp fun s c u h =>
    match (s.core c).epiBad u (h.getN a) (h.getN b) with
    | some v => .exc s 25 v
    | none => s.twAccept c u 4 (h.getN a) (h.getN b) (bits (h.getN a) 47 38) d

/-- R299, R305: a command that takes effect when the Twister accepts it. -/
def twDirect (a d : XReg) (bad : Core → Bool → Nat → Bool) (act : Twister → Nat → Twister) : State → Host.Outcome State Fault Refusal :=
  hartOp fun s c u h =>
    let k := s.core c
    let v := h.getN a
    if !k.tw.heldBy u || bad k u v then .exc s 25 v
    else if k.tw.busy then .stall s
    else .retire (s.updCore c fun k => { k.setHart u ((k.hart u).setN d 0) with tw := act k.tw v })
/-- R305: `jd.twclr`. -/
def execJdTwclr (a d : XReg) : State → Host.Outcome State Fault Refusal :=
  twDirect a d (fun _ _ v => v ≥ 2) fun t v => t.setBank (v == 1) {}
/-- R305: `jd.twswp`. -/
def execJdTwswp (d : XReg) : State → Host.Outcome State Fault Refusal :=
  twDirect 0#5 d (fun _ _ _ => false) fun t _ => { t with front := !t.front }

/-- R308: whether a domain word is refused for core c. -/
def Core.domBad (k : Core) (c : Nat) (u : Bool) (v : Nat) : Bool :=
  let i := k.ident u
  let px := coreX c - i.x
  let py := coreY c - i.y
  bits v 63 26 != 0 || (!bit v 25 && v != 0) ||
  (bit v 25 && !(decide (domX v ≤ coreX c) && decide (coreX c < domX v + domW v) && decide (domY v ≤ coreY c) &&
    decide (coreY c < domY v + domH v) && decide (px ≤ domX v) && decide (domX v + domW v ≤ px + i.w) &&
    decide (py ≤ domY v) && decide (domY v + domH v ≤ py + i.h)))
/-- R308: `jd.twdom`. -/
def execJdTwdom (a d : XReg) : State → Host.Outcome State Fault Refusal := fun s =>
  match s.cur with
  | .hart c _ => twDirect a d (fun k u v => k.domBad c u v) (fun t v => { t with dom := v }) s
  | _ => hartOp (fun s _ _ _ => illegalWord s) s

/-- R299: `jd.twclaim`. -/
def execJdTwclaim (a d : XReg) : State → Host.Outcome State Fault Refusal :=
  hartOp fun s c u h =>
    let k := s.core c
    let t := k.tw
    let v := h.getN a
    let kern := (k.ident u).kernel
    if v ≥ 2 then .exc s 25 v
    else if v = 0 then
      if t.heldBy u then hartPut s c u d 0
      else if t.openB then hartPut s c u d 3
      else
        let t1 := if t.lastKernel = kern then t else { t with bank0 := {}, bank1 := {} }
        hartPut (s.updCore c fun k => { k with tw := { t1.clearLatches with openB := true, ownerU := u, lastKernel := kern } }) c u d 0
    else if !t.heldBy u then hartPut s c u d 3
    else if t.busy then .stall s
    else hartPut (s.updCore c fun k => { k with tw := { t.clearLatches with openB := false, ownerU := false } }) c u d 0

/-- R312: the code of a latch in the state word. -/
def Latch.code (l : Latch) : Nat := if l.e then (if l.o == .full then 3 else 2) else b01 l.v
/-- R312: the state word. -/
def Twister.word (t : Twister) : Nat :=
  t.seq * 2 ^ 42 + t.dom * 2 ^ 16 + t.b.code * 2 ^ 6 + t.a.code * 2 ^ 4 + b01 t.front * 8 + b01 t.cmd.isSome * 4 +
  b01 t.ownerU * 2 + b01 t.openB
/-- R312: `jd.twq`. -/
def execJdTwq (a d : XReg) : State → Host.Outcome State Fault Refusal :=
  hartOp fun s c u h =>
    let t := (s.core c).tw
    let v := h.getN a
    if v ≥ 2 then .exc s 25 v
    else if v = 1 && t.busy then .stall s
    else hartPut s c u d t.word

/-! ### Save and restore (R313, R314) -/

/-- A bank as bytes. -/
def Bank.bytes (b : Bank) : List Byte := (List.range 16384).flatMap fun i => bytesOf (zget b.acc i) 4
/-- Row poison as a number. -/
def rowBits (l : List Nat) : Nat := l.foldl (fun x i => x + 2 ^ i) 0
/-- R313: the Twister image. -/
def Twister.image (t : Twister) : List Byte :=
  let x := t.cmd
  let num (f : TwCmd → Nat) : Nat := (x.map f).getD 0
  bytesOf (num (·.rs1)) 8 ++ bytesOf (num (·.rs2)) 8 ++ bytesOf ((x.map (·.f7)).getD 0xFF) 1 ++
  bytesOf (b01 t.openB + 2 * b01 t.ownerU + 4 * b01 t.front + 8 * b01 x.isSome) 1 ++ bytesOf (num (·.tiles)) 2 ++
  bytesOf (num (·.kpos)) 2 ++ bytesOf (num (·.seq)) 2 ++ bytesOf (num (·.flags)) 1 ++ bytesOf (num fun x => 4 * b01 x.poison) 1 ++
  bytesOf (domX t.dom) 1 ++ bytesOf (domY t.dom) 1 ++ bytesOf (bits t.dom 17 12) 1 ++
  bytesOf (bits t.dom 23 18 + 64 * b01 (bit t.dom 25) + 128 * b01 (domEast t.dom)) 1 ++ bytesOf 0 2 ++
  bytesOf (rowBits t.bank0.poison) 16 ++ bytesOf (rowBits t.bank1.poison) 16 ++ t.bank0.bytes ++ t.bank1.bytes

/-- R313: a bank from its bytes and row poison; each checksum is the rounded sum of its accumulators, and `ints` says
whether the restored elements count as .s32 (notes/assumptions/37.md). -/
def bankOf (d : List Byte) (poison : Nat) (isInt : Bool) : Bank :=
  let words := (List.range 16384).map fun i => ofBytes ((d.drop (4 * i)).take 4)
  let acc : Tab (BitVec 32) := (words.zipIdx.filter fun p => p.1 != 0).map fun p => (p.2, BitVec.ofNat 32 p.1)
  let cs := (List.range 1024).map fun b =>
    (b, (fround fmt32 .rne false 0 (fsumX (((words.drop (16 * b)).take 16).map (fval fmt32)) .rne)).1)
  { acc := acc, cs := (cs.filter fun p => p.2 % 2 ^ 32 != 0).map fun p => (p.1, BitVec.ofNat 32 p.2)
    poison := (List.range 128).filter poison.testBit, ints := if isInt then List.range 1024 else [] }

/-- R313: the Twister after the restore of an image; the last batch is one of the kernel of its owner (R299). `free` decides
how restored elements count. R309: a rotation command that has run has made its sends. -/
def Core.twRestore (k : Core) (d : List Byte) (free : Nat) : Core :=
  let num (o n : Nat) : Nat := Sys2Proof.ofBytes ((d.drop o).take n)
  let r1 := num 0 8
  let f7 := num 16 1
  let ch := if f7 = 4 then bits r1 47 38 else bits r1 51 42
  let lel (isB : Bool) : Nat := hkLel (k.hank (bits (twSource r1 isB) 3 0))
  let x : TwCmd := { f7 := f7, rs1 := r1, rs2 := num 8 8, seq := num 22 2, chan := ch, tiles := num 18 2, kpos := num 20 2
                     flags := num 24 1, poison := num 25 1 == 4, lelA := lel false, lelB := lel true
                     credited := (f7 == 1 || f7 == 2) && (num 18 2 != 0 || num 20 2 != 0) }
  let b29 := num 29 1
  let dom := num 26 1 % 64 + num 27 1 % 64 * 2 ^ 6 + num 28 1 % 64 * 2 ^ 12 + b29 % 64 * 2 ^ 18 + bits b29 7 7 * 2 ^ 24 + bits b29 6 6 * 2 ^ 25
  let b17 := num 17 1
  { k with tw := { openB := true, ownerU := bit b17 1, lastKernel := (k.ident (bit b17 1)).kernel, front := bit b17 2
                   bank0 := bankOf ((d.drop 64).take 65536) (num 32 16) (bit free 0)
                   bank1 := bankOf ((d.drop 65600).take 65536) (num 48 16) (bit free 1)
                   dom := dom, cmd := if bit b17 3 then some x else none, seq := x.seq } }

/-- R313: the pieces of the image area, or the exception or miss that the first bad one gives; the hart's own earlier accesses to
it come first (R291, R295). -/
def State.twArea (s : State) (c : Nat) (u : Bool) (a : Nat) (write : Bool) : Nat → Except HIssue (List (Nat × Loc))
  | 0 => .ok []
  | n + 1 =>
    match s.twArea c u a write n with
    | .error e => .error e
    | .ok l =>
      let va := a + 64 * n
      let stop := if write then 7 else 5
      let put (x : Loc) : Except HIssue (List (Nat × Loc)) :=
        if !s.ownerOk (s.core c).tenant x then .error (.exc s (if write then 15 else 13) va)
        else if (write && s.frozen x) || !(s.hartOverlap c u x 64).isEmpty then .error (.stall s)
        else if !write && s.poisonedAt x 64 then .error (.exc s 26 va)
        else .ok ((va, x) :: l)
      if va.testBit 59 then
        if va + 64 ≤ spadBase + spadSize then put (.spad c (va - spadBase)) else .error (.exc s stop va)
      else match (s.core c).translate va (if write then .write else .read) with
        | .hit x => put x
        | .miss => .error (.miss va (if write then .write else .read))
        | .refused => .error (.exc s (if write then 15 else 13) va)

/-- R313: whether the address of an image is refused. -/
def Core.twAddrBad (k : Core) (u : Bool) (a pm : Nat) : Bool := a % 64 != 0 || !k.ambient u a 131136 pm

/-- R313: writes the image; bytes whose home is outside the package are posted. -/
def State.twWrite (s : State) (c : Nat) (u : Bool) (img : List Byte) (a : Nat) (ps : List (Nat × Loc)) : State :=
  ps.foldr (fun p s =>
    let d := (img.drop (p.1 - a)).take 64
    if p.2.isLocal then s.storeAt p.2 d none
    else s.addReq { hartReq s c u (.write d none) p.1 p.2 true [] with entry := false }) s

/-- R313: `jd.twsave`. The stopped command and the batch stay until every byte has been performed; then the batch closes. -/
def execJdTwsave (b a d : XReg) : State → Host.Outcome State Fault Refusal :=
  hartOp fun s c u h =>
    let k := s.core c
    let t := k.tw
    let v := h.getN a
    let w := h.getN b
    let other := (k.hart (!u)).st
    if t.saving = some u then
      if (s.hartIds c u).isEmpty then
        hartPut (s.updCore c fun k =>
          { k with tw := { k.tw.clearLatches with openB := false, ownerU := false, cmd := none, saving := none } }) c u d 0
      else .stall s
    else if w = 0 && !t.heldBy u then .exc s 25 v
    else if w ≥ 2 then .exc s 25 w
    else if k.twAddrBad u v permW then .exc s 25 v
    else if w = 1 && !(t.openB && t.ownerU != u && (other == .faulted || other == .waiting)) then hartPut s c u d 3
    else match s.twArea c u v true 2049 with
      | .error e => e
      | .ok ps =>
        let s1 := s.twStop c
        let s2 := s1.twWrite c u (s1.core c).tw.image v ps
        .hold (s2.updCore c fun k => { k with tw := { k.tw with saving := some u } })

/-- R313: `jd.twrest`. Bytes whose home is outside the package are free values (notes/assumptions/12.md). -/
def execJdTwrest (a d : XReg) : State → Host.Outcome State Fault Refusal :=
  hartOp fun s c u h =>
    let k := s.core c
    let v := h.getN a
    if k.twAddrBad u v permW then .exc s 25 v
    else if k.tw.openB then hartPut s c u d 3
    else match s.twArea c u v false 2049 with
      | .error e => e
      | .ok ps =>
        let (x, s1) := s.takeFree
        let (free, s2) := s1.takeFree
        let img := ps.foldl (fun l p =>
          (if p.2.isLocal then s.readAt p.2 64 else bytesOf (x / 2 ^ (8 * (p.1 - v))) 64) ++ l) []
        if ofBytes ((img.drop 30).take 2) ≠ 0 then hartPut s2 c u d 3
        else hartPut (s2.updCore c fun k => k.twRestore img free) c u d 0

end Sys2Proof.Machine
end

