-- ==== Sys2Proof/Machine/Carder.lean ====
section
/-! DEFINITION. The Carder: layout records and their checks (R316, R317, R324), traversal (R318), issue by Fibres (R319,
R320), harts (R327) and messages (R329), transfers (R321 to R326), and their ends. -/

namespace Sys2Proof.Machine

/-! ### The layout record (R316) and the command word (R319) -/

/-- A signed field. -/
def sbits (x l n : Nat) : Int := sext (bits x (l + n - 1) l) n
def CdCmd.d (x : CdCmd) (i : Nat) : Nat := bits x.record (159 + 32 * i) (128 + 32 * i)
def CdCmd.s (x : CdCmd) (i : Nat) : Int := sbits x.record (288 + 36 * i) 36
def CdCmd.w (x : CdCmd) (i : Nat) : Nat := bits x.record (483 + 16 * i) (468 + 16 * i)
def CdCmd.o (x : CdCmd) (i : Nat) : Int := sbits x.record (548 + 32 * i) 32
def CdCmd.base (x : CdCmd) : Nat := bits x.record 59 0
def CdCmd.rank (x : CdCmd) : Nat := min 5 (bits x.record 66 64 + 1)
def CdCmd.fill (x : CdCmd) : Bool := bit x.record 67
def CdCmd.cnv (x : CdCmd) : Bool := bit x.record 68
def CdCmd.trn (x : CdCmd) : Bool := bit x.record 69
def CdCmd.tagp (x : CdCmd) : Bool := bit x.record 70
def CdCmd.mode (x : CdCmd) : Nat := bits x.record 77 75
def CdCmd.fillv (x : CdCmd) : Nat := bits x.record 739 708
def CdCmd.sbank (x : CdCmd) : Nat := bits x.record 747 740
def CdCmd.bstr (x : CdCmd) : Nat := bits x.record 755 748
def CdCmd.off (x : CdCmd) : Nat := bits x.word 18 0
def CdCmd.chan (x : CdCmd) : Nat := bits x.word 28 19
def CdCmd.ctype (x : CdCmd) : Nat := bits x.word 32 29
def CdCmd.rm (x : CdCmd) : Nat := bits x.word 35 33
def CdCmd.sat (x : CdCmd) : Bool := bit x.word 36
def CdCmd.flg (x : CdCmd) : Bool := bit x.word 37

/-- R28: a type from its code; the codes of no type read as .z8. -/
def tyOf (n : Nat) : TyCode := (TyCode.ofBits (BitVec.ofNat 4 n)).getD .z8
/-- The record's type, and its byte width. -/
def CdCmd.ty (x : CdCmd) : TyCode := tyOf (bits x.record 63 60)
def CdCmd.esz (x : CdCmd) : Nat := x.ty.bitsN / 8
/-- R318: the type of the scratchpad side, and its byte width. -/
def CdCmd.sty (x : CdCmd) : TyCode := if x.cnv then tyOf x.ctype else x.ty
def CdCmd.es (x : CdCmd) : Nat := x.sty.bitsN / 8

/-! ### Traversal (R318, R323) -/

/-- R318: the dimension along a scratchpad row. -/
def CdCmd.ja (x : CdCmd) : Nat := if x.trn then 1 else 0
/-- The other dimensions, fastest first. -/
def CdCmd.others (x : CdCmd) : List Nat := ([if x.trn then 0 else 1, 2, 3, 4]).filter (· < x.rank)
def CdCmd.rowLen (x : CdCmd) : Nat := x.w x.ja
def CdCmd.rows (x : CdCmd) : Nat := x.others.foldl (fun p i => p * x.w i) 1
/-- Words of a scratchpad row. -/
def CdCmd.wordsRow (x : CdCmd) : Nat := ceilDiv (x.rowLen * x.es) 16
/-- R323: the bytes of a packed block. -/
def CdCmd.blkBytes (x : CdCmd) : Nat := if x.ctype = 0xE then 16 else 32
def CdCmd.blocks (x : CdCmd) : Nat := x.rows * (x.w 0 / 32)
/-- The bytes of the stream. -/
def CdCmd.stream (x : CdCmd) : Nat :=
  match x.op with
  | 3 => x.rows * x.rowLen * x.esz
  | 4 => x.blocks * x.blkBytes + roundUp x.blocks 16
  | _ => 16 * x.rows * x.wordsRow
/-- R318: place(n). -/
def CdCmd.place (x : CdCmd) (n : Nat) : Nat :=
  if x.mode = 1 then x.off + 4096 * (n / 256) + 16 * ((x.sbank + n * x.bstr) % 256) else x.off + 16 * n
/-- R318: the end of the scratchpad span. -/
def CdCmd.spanEnd (x : CdCmd) : Nat :=
  if x.mode = 1 then x.off + 4096 * ceilDiv x.stream 4096 else x.off + x.stream

/-- The coordinates of row R over the dimensions given. -/
def CdCmd.digits (x : CdCmd) : List Nat → Nat → List (Nat × Nat)
  | [], _ => []
  | i :: r, n => (i, n % x.w i) :: x.digits r (n / x.w i)
/-- R318: the memory address of element (R, t), where it is in bounds. -/
def CdCmd.elemAddr (x : CdCmd) (R t : Nat) : Option Nat :=
  let cs := ((x.ja, t) :: x.digits x.others R).map fun p => (p.1, x.o p.1 + p.2)
  if cs.all fun p => decide (0 ≤ p.2) && decide (p.2 < x.d p.1) then
    some ((x.base : Int) + cs.foldl (fun a p => a + p.2 * x.s p.1) 0).toNat
  else none

/-- R318: the footprint: its first byte and the byte after its last; none with no element in bounds. -/
def CdCmd.footprint (x : CdCmd) : Option (Int × Int) :=
  (List.range x.rank).foldl (fun f i =>
    let lo := max 0 (x.o i)
    let hi := min (x.d i : Int) (x.o i + x.w i) - 1
    match f with
    | none => none
    | some (a, b) =>
      if hi < lo then none
      else some (a + min (lo * x.s i) (hi * x.s i), b + max (lo * x.s i) (hi * x.s i)))
    (some ((x.base : Int), (x.base : Int) + x.esz))

/-! ### The checks of R317 -/

/-- R324: the fields of a pattern word. -/
def dealB (p : Nat) : Nat := 16 * bits p 11 0
def dealX (p : Nat) : Nat := bits p 17 12
def dealY (p : Nat) : Nat := bits p 23 18
def dealW (p : Nat) : Nat := bits p 29 24 + 1
def dealH (p : Nat) : Nat := bits p 35 30 + 1
/-- R324: the target core of block k. -/
def dealCore (p k : Nat) : Nat :=
  let m := k % (dealW p * dealH p)
  if bit p 36 then (dealY p + m % dealH p) * 48 + dealX p + m / dealH p
  else (dealY p + m / dealW p) * 48 + dealX p + m % dealW p
/-- R324: the byte after the highest one that lands. -/
def CdCmd.landEnd (x : CdCmd) : Nat :=
  let b := dealB x.pattern
  let last := ceilDiv x.stream b - 1
  let n := dealW x.pattern * dealH x.pattern
  max (x.off + last / n * b + (x.stream - last * b)) (if last = 0 then 0 else x.off + (last - 1) / n * b + b)
/-- R324: whether a rectangle leaves the placement of a level's kernel. -/
def Core.rectBad (k : Core) (c : Nat) (u : Bool) (p : Nat) : Bool :=
  let i := k.ident u
  let px := coreX c - i.x
  let py := coreY c - i.y
  !(decide (px ≤ dealX p) && decide (dealX p + dealW p ≤ px + i.w) && decide (py ≤ dealY p) && decide (dealY p + dealH p ≤ py + i.h))

/-- R120, R317: whether the conversion of a command is assigned. -/
def CdCmd.cvtOk (x : CdCmd) : Bool :=
  let c := tyOf x.ctype
  let (t, s) := if x.op = 2 then (x.ty, c) else (c, x.ty)
  x.ctype ≤ 13 && cvtAssigned t s (rmOf x.rm) && (!x.sat || t == .e4m3 || t == .e5m2)

/-- R317: the rules of the record by bit index, each with whether it holds. -/
def CdCmd.recordRules (x : CdCmd) : List (Nat × Bool) :=
  let r := x.rank
  let code := bits x.record 63 60
  let dims (at_ step : Nat) (f : Nat → Bool) (z : Nat → Bool) : List (Nat × Bool) :=
    (List.range 5).map fun i => (at_ + step * i, if i < r then f i else z i)
  [(0, x.base % x.esz == 0), (60, code ≤ 13 && (x.op != 4 || code == 9)), (64, bits x.record 66 64 ≤ 4),
   (67, (x.op != 2 || !x.fill) && (x.op != 3 || x.fill)), (68, if x.op = 4 then x.cnv else !(x.op == 3 || x.op == 1) || !x.cnv),
   (69, !x.trn || (2 ≤ r && x.op != 4)),
   (70, !x.tagp || (r == 1 && x.s 0 == x.esz && !x.cnv && !x.trn && !x.fill && x.mode == 0 && x.base % 16 == 0 &&
     x.off % 16 == 0 && x.w 0 * x.esz % 16 == 0)),
   (71, bits x.record 74 71 == 0), (75, if x.op = 4 || x.op = 1 then x.mode == 0 else x.mode ≤ 1),
   (78, bits x.record 127 78 == 0)] ++
  dims 128 32 (fun i => 1 ≤ x.d i) (fun i => x.d i == 0) ++
  dims 288 36 (fun i => x.s i % x.esz == 0) (fun i => x.s i == 0) ++
  dims 468 16 (fun i => 1 ≤ x.w i && (i != 0 || ((x.op != 4 || x.w 0 % 32 == 0) && x.stream ≤ 2 ^ 32))) (fun i => x.w i == 0) ++
  dims 548 32 (fun _ => true) (fun i => x.o i == 0) ++
  [(708, !x.fill || decide (x.fillv < 2 ^ x.ty.bitsN)), (740, x.mode != 0 || x.sbank == 0),
   (748, if x.mode = 0 then x.bstr == 0 else x.bstr % 2 == 1), (756, bits x.record 767 756 == 0)]
/-- R317: the rules of the command word; `chOk` is that of R296. -/
def CdCmd.wordRules (x : CdCmd) (chOk : Bool) : List (Nat × Bool) :=
  [(768, x.off % 16 == 0 && (x.mode != 1 || x.off % 4096 == 0) && (x.op != 3 || x.off == 0) &&
      (x.op == 3 || x.op == 1 || decide (x.spanEnd ≤ spadSize))),
   (787, chOk),
   (797, if x.op = 4 then x.ctype == 0xC || x.ctype == 0xE else if x.cnv then x.cvtOk else x.ctype == 0),
   (801, x.rm ≤ 4), (804, !x.sat || (x.op != 4 && (x.ctype == 12 || x.ctype == 13))), (805, !x.flg || x.op == 2),
   (806, bits x.word 63 38 == 0)]
/-- R317, R324: the rules of the pattern word of a deal. -/
def CdCmd.patternRules (x : CdCmd) (k : Core) (c : Nat) : List (Nat × Bool) :=
  if x.op != 1 then []
  else [(832, 1 ≤ bits x.pattern 11 0 && bits x.pattern 11 0 ≤ 256 && x.landEnd ≤ k.footprint),
        (844, !k.rectBad c x.lvl x.pattern), (869, bits x.pattern 63 37 == 0)]
/-- R317: the bit index of the first breaking field; `vw` is bits [127:64] of a Fibre's command word register. -/
def CdCmd.layoutBad (x : CdCmd) (k : Core) (c : Nat) (chOk : Bool) (vw : Nat) : Option Nat :=
  match (x.recordRules ++ x.wordRules chOk ++ x.patternRules k c).find? fun p => !p.2 with
  | some p => some p.1
  | none => ((List.range 64).find? vw.testBit).map (896 + ·)

/-! ### Issue (R320, R327) -/

/-- R319: the permissions on the memory side. -/
def CdCmd.perms (x : CdCmd) : Nat := if x.op = 2 || x.op = 3 then permW + permC else permR + permC
def CdCmd.kind (x : CdCmd) : AccKind := if x.op = 2 || x.op = 3 then .cwrite else .cread

/-- R320 steps 3 and 4: the fault of a capability check, if any. A footprint that begins below address 0 begins at an
address that is not canonical. -/
def CdCmd.capBad (x : CdCmd) (k : Core) (c cap : Nat) (tag : Bool) : Option (Nat × Nat) :=
  let chk (a n al pm : Nat) : Option (Nat × Nat) :=
    match accessCheck k c cap tag a n al pm x.kind false with
    | .fault cause at_ => some (cause, at_)
    | _ => none
  let foot := match x.footprint with
    | none => none
    | some (lo, hi) => if lo < 0 then some (if tag then cNONCANON else cCAPTAG, trunc lo 64) else chk lo.toNat (hi - lo).toNat x.esz x.perms
  match foot with
  | some e => some e
  | none => if x.op = 2 && x.flg then chk x.flagAddr 8 8 (permW + permC) else none

/-- The commands of a level. -/
def Core.cdQueue (k : Core) (u : Bool) : List CdCmd := if u then k.carderU else k.carderN
def Core.setCdQueue (k : Core) (u : Bool) (l : List CdCmd) : Core := if u then { k with carderU := l } else { k with carderN := l }

/-- R320 step 5, R327: the Carder accepts a command. -/
def State.cdAccept (s : State) (c : Nat) (x : CdCmd) : Nat × State :=
  let (seq, s1) := s.reserve c x.lvl x.chan
  let y := { x with id := s1.nextReq, seq := seq }
  let s2 := { s1 with nextReq := s1.nextReq + 1 }
  (seq, s2.updCore c fun k => k.setCdQueue x.lvl (k.cdQueue x.lvl ++ [y]))

/-- R319, R320: a Carder instruction of a Fibre. -/
def cdrOp (op : Nat) (w r v : VReg) : State → Host.Outcome State Fault Refusal :=
  fibreOp 2 .writeOp (v.toNat :: w.toNat :: regSpan r.toNat 6) [] [(r.toNat, 8)] fun s c i y =>
    let k := s.core c
    let x : CdCmd := { id := 0, op := op, record := packLanes 128 ((regSpan r.toNat 6).map y.v), word := y.vlo w.toNat
                       flagAddr := y.ext 0, flagVal := y.ext 1, pattern := y.ext 2, lvl := y.lvl
                       after := s.ctxIds c i }
    match x.layoutBad k c (k.replyOk x.lvl x.chan) (y.v w.toNat / 2 ^ 64) with
    | some b => .fault cLAYOUT b
    | none =>
      match x.capBad k c (y.v v.toNat) (y.vtag v.toNat) with
      | some e => .fault e.1 e.2
      | none =>
        if !k.cdFree x.lvl || !s.canCommand c x.lvl x.chan then .stall s
        else .retire (s.cdAccept c x).2
def execCdrCpy (w r c : VReg) : State → Host.Outcome State Fault Refusal := cdrOp 0 w r c
def execCdrDeal (w r c : VReg) : State → Host.Outcome State Fault Refusal := cdrOp 1 w r c
def execCdrPut (w r c : VReg) : State → Host.Outcome State Fault Refusal := cdrOp 2 w r c
def execCdrFill (w r c : VReg) : State → Host.Outcome State Fault Refusal := cdrOp 3 w r c
def execCdrCvt (w r c : VReg) : State → Host.Outcome State Fault Refusal := cdrOp 4 w r c

/-- R327: a command from the 128 bytes of a record. -/
def cdOfRecord (op d : Nat) (u : Bool) : CdCmd :=
  { id := 0, op := op, record := d % 2 ^ 768, word := bits d 831 768, flagAddr := bits d 895 832, flagVal := bits d 959 896
    pattern := bits d 1023 960, lvl := u }

/-- R327: the first byte of a range that no ambient capability with the permission covers with what lies below it; none
where one capability covers the range. -/
def Core.ambientEnd (k : Core) (u : Bool) (a n pm : Nat) : Option Nat :=
  if k.ambient u a n pm then none
  else
    let d := k.ident u
    let top (cap : Nat) : Nat := if capCovers cap a 1 pm then (capDecode cap).2.1 else a
    some (max (top d.amb0.toNat) (top d.amb1.toNat))
/-- R327 step 3: the exception of a footprint or flag outside the ambient capabilities. -/
def CdCmd.ambientBad (x : CdCmd) (k : Core) : Option (Nat × Nat) :=
  let w := x.op = 2 || x.op = 3
  let foot := match x.footprint with
    | none => none
    | some (lo, hi) =>
      if lo < 0 then some (trunc lo 64)
      else k.ambientEnd x.lvl lo.toNat (hi - lo).toNat (if w then permW else permR)
  match foot with
  | some a => some (if w then 7 else 5, a)
  | none =>
    if x.op = 2 && x.flg then (k.ambientEnd x.lvl x.flagAddr 8 permW).map fun a => (7, a) else none

/-- R327: `jd.cdr`. -/
def execJdCdr (b a d : XReg) : State → Host.Outcome State Fault Refusal :=
  hartOp fun s c u h =>
    let k := s.core c
    let op := h.getN b
    match s.hartSpad c u (h.getN a) 128 permR with
    | .error (cause, t) => if cause ≠ 25 && op > 4 then .exc s 25 op else .exc s cause t
    | .ok o =>
      if op > 4 then .exc s 25 op
      else match s.spadPoison c o 128 with
        | some t => .exc s 26 t
        | none =>
          let x := { cdOfRecord op (ofBytes (s.readAt (.spad c o) 128)) u with byHart := true, after := s.hartIds c u }
          match x.layoutBad k c (k.replyOk u x.chan) 0 with
          | some i => .exc s 25 i
          | none =>
            match x.ambientBad k with
            | some e => .exc s e.1 e.2
            | none =>
              if !k.cdFree u || !s.canCommand c u x.chan then hartPut s c u d 1
              else
                let (seq, s1) := s.cdAccept c x
                hartPut s1 c u d (if x.chan = 0 then 0 else seq * 2 ^ 32)

/-! ### Commands by message (R329) -/

/-- R329, R296, R370: the answer of a command that came by message; one that repeats bytes of a poisoned message is poisoned. -/
def State.cdAnswer (s : State) (c : Nat) (x : CdCmd) (p : List Byte) (bad : Bool := false) : State :=
  if x.rchan = 0 then s
  else s.post c { seq := x.seq, tenant := (s.core c).tenant, rcore := s.addrOf c, plen := 2, prio := x.lvl, answer := true
                  chan := x.rchan, dest := x.rcore, payload := p, flags := b01 bad * 2 ^ flagPoison }

/-- R329: the Carder takes the command message at the head of a queue. A root whose RT is 0 fails step 3; with no footprint
the rejection names the record's base (notes/assumptions/100.md). -/
def execCarderCommandMessage : State → Host.Outcome State Fault Refusal := fun s =>
  let c := s.ev.core
  match (s.core c).nextHead with
  | none => .next s
  | some (q, m) =>
    let k := s.core c
    let e := k.entry m.chan
    if c ≥ numCores || entTarget e ≠ 4 || k.isFaultAnswer m then .next s
    else
      let (s1, _) := (s.setCore c ((k.popHead q).endChan m)).placeHank c m
      -- the slot is consumed and freed at once, as the record is copied here
      let h := s1.core c |>.hank (entHank e)
      let h1 := match hkApply .cons h 1 with
        | .ok (g, _) => (match hkApply .free g 1 with | .ok (g2, _) => g2 | .error _ => g)
        | .error _ => h
      let s2 := s1.updCore c fun k => (if m.plen ≤ 4 then k else k.setHank (entHank e) h1).dispatched m.chan
      let s3 := if m.rchan = 0 then s2.post c (m.acceptance s2 c) else s2
      let op := m.num 128 1
      let x := { cdOfRecord op (m.num 0 128) (entLvl e) with byMsg := true, rcore := m.rcore, rchan := m.rchan, seq := m.seq }
      let reject (s : State) (info : Nat) : State :=
        s.cdAnswer c x (completion 6 1 op 0 0 x.base x.word info) (m.flag flagPoison)
      if m.plen ≠ 9 || op > 4 || m.num 129 15 ≠ 0 || m.flag flagPoison then
        let (f, s4) := s3.takeFree
        .next (reject s4 f)
      else match x.layoutBad k c (x.chan == 0) 0 with
        | some i => .next (reject s3 i)
        | none => match if x.footprint.isNone && !entRT e then some (cCAPTAG, x.base) else x.capBad k c (entRoot e) (entRT e) with
          | some f => .next (reject s3 f.2)
          | none =>
            .next ({ s3 with nextReq := s3.nextReq + 1 }.updCore c fun k =>
              k.setCdQueue x.lvl (k.cdQueue x.lvl ++ [{ x with id := s3.nextReq }]))

/-! ### Moving data (R321, R325, R326) -/

/-- Why a command does not go on. -/
inductive CdStop where
  | miss (va : Nat)
  | busy
  | fail (status addr : Nat)

/-- R326: where n bytes at an address of the memory side live; a page whose translation was refused gives NOMAP. The event's `n` says what a home outside the package
answers: 1 poison, 2 BUSY, 5 FENCED. -/
def State.cdLoc (s : State) (c : Nat) (x : CdCmd) (va n : Nat) (kind : AccKind) : Except CdStop Loc :=
  if va.testBit 59 then
    if va + n ≤ spadBase + spadSize then .ok (.spad c (va - spadBase)) else .error (.fail 1 va)
  else if x.refused.any fun r => r / 2 ^ 16 == va / 2 ^ 16 then .error (.fail 1 va)
  else match (s.core c).translate va kind with
    | .miss => .error (.miss va)
    | .refused => .error (.fail 1 va)
    | .hit l =>
      if !s.ownerOk (s.core c).tenant l then .error (.fail 2 va)
      else if kind == .cwrite && s.frozen l then .error .busy
      else if !l.isLocal && s.ev.n == 2 then .error .busy
      else if !l.isLocal && s.ev.n == 5 then .error (.fail 2 va)
      else .ok l

/-- The tag of the granule at a location. -/
def State.tagAt (s : State) (l : Loc) : Bool :=
  match s.memOf l with
  | some (m, _, true, o) => setHas m.tags (o / 16)
  | _ => false
/-- R325: sets the poison of the granules that n bytes at a location touch. -/
def State.poisonAt (s : State) (l : Loc) (n : Nat) : State :=
  match l with
  | .spad c o => s.poisonSpad c o n
  | .pma a => { s with mem := { s.mem with poison := (granules a n 32).foldl setAdd s.mem.poison } }
  | .host a => { s with host := { s.host with poison := (granules a n 64).foldl setAdd s.host.poison } }
  | _ => s
/-- R274: clears the poison of the granule at a location. -/
def State.unpoisonAt (s : State) (l : Loc) : State :=
  match l with
  | .spad c o => s.updCore c fun k => { k with spad := { k.spad with poison := setDel k.spad.poison (o / 16) } }
  | .pma a => { s with mem := { s.mem with poison := setDel s.mem.poison (a / 32) } }
  | .host a => { s with host := { s.host with poison := setDel s.host.poison (a / 64) } }
  | _ => s

/-- What one element gives. -/
structure CdElem where
  val : Nat
  bad : Bool := false
  tag : Bool := false

/-- Reads an element of the memory side; data from outside the package are free values. -/
def State.cdRead (s : State) (c : Nat) (x : CdCmd) (va : Nat) : Except CdStop (CdElem × State) :=
  match s.cdLoc c x va x.esz .cread with
  | .error e => .error e
  | .ok l =>
    if l.isLocal then
      .ok ({ val := ofBytes (s.readAt l x.esz), bad := s.poisonedAt l x.esz, tag := s.tagAt l }, s)
    else
      let (f, s1) := s.takeFree
      .ok ({ val := f % 2 ^ (8 * x.esz), bad := s.ev.n == 1 }, s1)

/-- R321: element (R, t) of the memory side, or the fill value; none where it is skipped. -/
def State.cdElem (s : State) (c : Nat) (x : CdCmd) (R t : Nat) : Except CdStop (Option CdElem × State) :=
  match x.elemAddr R t with
  | some va => match s.cdRead c x va with
    | .ok (e, s1) => .ok (some e, s1)
    | .error e => .error e
  | none => .ok (if x.fill then some { val := x.fillv } else none, s)

/-- R121, R325: an element as the scratchpad side holds it, and its flags. -/
def CdCmd.toPad (x : CdCmd) (e : CdElem) : Nat × Nat :=
  if x.cnv then cvtElem x.sty x.ty (rmOf x.rm) x.sat 0 (if e.bad then 0 else e.val) else (e.val, 0)

/-- The word being assembled: its bytes in order, its flags, and what stopped it before its end. -/
structure CdAcc where
  word : CdWord := { bytes := [] }
  flags : Nat := 0
  stop : Option CdStop := none

/-- R318, R321: word n of the stream of a copy or a deal, from the elements t that are left. R326: after an error the elements
before it stay. -/
def State.cdGather (s : State) (c : Nat) (x : CdCmd) (R : Nat) (a : CdAcc) : List Nat → CdAcc × State
  | [] => (a, s)
  | t :: rest =>
    let add (b : List (Option Byte)) (bad : Bool) : CdWord := { a.word with bytes := a.word.bytes ++ b, bad := a.word.bad || bad }
    if t ≥ x.rowLen then s.cdGather c x R { a with word := add (List.replicate x.es (some 0#8)) false } rest
    else match s.cdElem c x R t with
      | .error e => ({ a with stop := some e, word := add (List.replicate (16 - a.word.bytes.length) none) false }, s)
      | .ok (none, s1) => s1.cdGather c x R { a with word := add (List.replicate x.es none) false } rest
      | .ok (some e, s1) =>
        let v := x.toPad e
        let w := add ((bytesOf v.1 x.es).map some) e.bad
        s1.cdGather c x R { a with word := { w with tag := w.tag || (x.tagp && e.tag) }, flags := a.flags ||| v.2 } rest
/-- The elements of word q of a row. -/
def CdCmd.slots (x : CdCmd) (q : Nat) : List Nat := (List.range (16 / x.es)).map (q * (16 / x.es) + ·)
def State.cdWord (s : State) (c : Nat) (x : CdCmd) (n : Nat) : CdAcc × State :=
  s.cdGather c x (n / x.wordsRow) {} (x.slots (n % x.wordsRow))

/-- R274, R325: writes a word at a 16-byte aligned address of a memory with poison granule g; whether it was dropped. -/
def Mem.putWord (m : Mem) (g a : Nat) (w : CdWord) : Mem × Bool :=
  let whole := g == 16 && w.bytes.all Option.isSome
  if w.bytes.all Option.isNone then (m, false)
  else if setHas m.poison (a / g) && !whole && !w.bad then (m, true)
  else
    let b := w.bytes.zipIdx.foldl (fun t p => match p.1 with | some v => cellSet t (a + p.2) v | none => t) m.bytes
    ({ m with bytes := b, tags := setPut m.tags (a / 16) w.tag
              poison := if w.bad then setAdd m.poison (a / g) else if whole then setDel m.poison (a / g) else m.poison }, false)
/-- Writes a word at an offset of a scratchpad. -/
def State.putWord (s : State) (c o : Nat) (w : CdWord) : State :=
  let r := (s.core c).spad.putWord 16 o w
  let s1 := (s.clearResvs (.spad c o) 16).updCore c fun k => { k with spad := r.1 }
  if r.2 then s1.count 4 else s1

/-- R321: elements of a word of a put are written to memory, in order; R326: those before an error stay. -/
def State.cdPut (s : State) (c : Nat) (x : CdCmd) (R o fl : Nat) : List Nat → Nat × State × Option CdStop
  | [] => (fl, s, none)
  | t :: rest =>
    match (if t < x.rowLen then x.elemAddr R t else none) with
    | none => s.cdPut c x R o fl rest
    | some va =>
      let at_ := o + x.es * t % 16
      let l0 := Loc.spad c at_
      let bad := s.poisonedAt l0 x.es
      let v0 := if bad && x.cnv then 0 else ofBytes (s.readAt l0 x.es)
      let v := if x.cnv then cvtElem x.ty x.sty (rmOf x.rm) x.sat 0 v0 else (v0, 0)
      match s.cdLoc c x va x.esz .cwrite with
      | .error e => (fl, s, some e)
      | .ok l =>
        let tag := x.tagp && s.tagAt l0
        let s1 := s.storeAt l (bytesOf v.1 x.esz) none
        let s2 := if bad then s1.poisonAt l x.esz else s1
        -- with tag-preserve, the last element of a granule gives it its tag
        let s3 := if tag && (va + x.esz) % 16 == 0 then
            match l with
            | .spad d a => s2.updCore d fun k => { k with spad := { k.spad with tags := setAdd k.spad.tags (a / 16) } }
            | .pma a => { s2 with mem := { s2.mem with tags := setAdd s2.mem.tags (a / 16) } }
            | _ => s2
          else s2
        s3.cdPut c x R o (fl ||| v.2) rest

/-- R325: whether the elements of a fill cover a granule of g bytes at an address wholly. -/
def CdCmd.covers (x : CdCmd) (a g : Nat) : Bool :=
  (List.range (g / x.esz)).all fun j =>
    (List.range x.rows).any fun R => (List.range x.rowLen).any fun t => x.elemAddr R t == some (a / g * g + j * x.esz)
/-- R321, R325: element e of a fill. -/
def State.cdFill (s : State) (c : Nat) (x : CdCmd) (e : Nat) : Except CdStop State :=
  match x.elemAddr (e / x.rowLen) (e % x.rowLen) with
  | none => .ok s
  | some va =>
    match s.cdLoc c x va x.esz .cwrite with
    | .error e => .error e
    | .ok l =>
      let g := match l with | .spad .. => 16 | .host _ => 64 | _ => 32
      let s1 := if s.poisonedAt l x.esz && x.covers va g then s.unpoisonAt l else s
      .ok (s1.storeAt l (bytesOf x.fillv x.esz) none)

/-! ### Packing (R323) -/

/-- Reads the 32 elements of a block. -/
def State.cdBlock (s : State) (c : Nat) (x : CdCmd) (R : Nat) (acc : List (Option CdElem)) :
    List Nat → Except CdStop (List (Option CdElem) × State)
  | [] => .ok (acc, s)
  | t :: rest =>
    match s.cdElem c x R t with
    | .error e => .error e
    | .ok (e, s1) => s1.cdBlock c x R (acc ++ [e]) rest
/-- What packing a block gives: its elements, scale code, codes and flags. -/
structure CdPacked where
  elems : List (Option CdElem)
  scale : Nat
  codes : List Nat
  flags : Nat
  bad : Bool
/-- R36, R323: packs block b; a skipped element counts as zero, and a poisoned one converts as zero. -/
def State.cdPack (s : State) (c : Nat) (x : CdCmd) (b : Nat) : Except CdStop (CdPacked × State) :=
  let perRow := x.w 0 / 32
  match s.cdBlock c x (b / perRow) [] ((List.range 32).map (b % perRow * 32 + ·)) with
  | .error e => .error e
  | .ok (es, s1) =>
    let codes := es.map fun e => match e with | some y => if y.bad then 0 else y.val | none => 0
    let r := packMx (if x.ctype = 0xE then fmtE2m1 else fmtE4m3) (codes.map (fval fmtB16)) (codes.any fmtB16.isSnan)
    .ok ({ elems := es, scale := r.1, codes := r.2.1, flags := r.2.2
           bad := es.any fun e => match e with | some y => y.bad | none => false }, s1)

/-- The element bytes of a packed block; skipped elements keep what the scratchpad holds. -/
def CdCmd.packedBytes (x : CdCmd) (p : CdPacked) (old : List Byte) : List (Option Byte) :=
  let put (i : Nat) : Option Nat := match p.elems.getD i none with | some _ => some (p.codes.getD i 0) | none => none
  if x.ctype = 0xE then
    (List.range 16).map fun j =>
      let o := (old.getD j 0#8).toNat
      match put (2 * j), put (2 * j + 1) with
      | none, none => none
      | a, b => some (BitVec.ofNat 8 (a.getD (o % 16) + 16 * b.getD (o / 16)))
  else (List.range 32).map fun j => (put j).map (BitVec.ofNat 8 ·)
/-- Writes the words of a packed block at an offset. -/
def State.putBlock (s : State) (c o : Nat) (x : CdCmd) (p : CdPacked) : State :=
  let bs := x.packedBytes p (s.readAt (.spad c o) x.blkBytes)
  let per := if x.ctype = 0xE then 32 else 16
  (List.range (x.blkBytes / 16)).foldl (fun s j =>
    let bad := ((p.elems.drop (per * j)).take per).any fun e => match e with | some y => y.bad | none => false
    s.putWord c (o + 16 * j) { bytes := (bs.drop (16 * j)).take 16, bad := bad }) s
/-- The scale codes from block b on; one that is not kept is packed again. -/
def State.cdScales (s : State) (c : Nat) (x : CdCmd) (acc : List Nat) : List Nat → Except CdStop (List Nat × State)
  | [] => .ok (acc, s)
  | b :: rest =>
    if b ≥ x.blocks then s.cdScales c x (acc ++ [0]) rest
    else match tabGet x.scales b with
      | some v => s.cdScales c x (acc ++ [v]) rest
      | none => match s.cdPack c x b with
        | .error e => .error e
        | .ok (p, s1) => s1.cdScales c x (acc ++ [p.scale + 256 * b01 p.bad]) rest

/-! ### The stream (R315, R321 to R324) -/

/-- R324: the words of a deal block. -/
def State.cdWords (s : State) (c : Nat) (x : CdCmd) (acc : List CdWord) : List Nat → Except CdStop (List CdWord × State)
  | [] => .ok (acc, s)
  | n :: rest =>
    match s.cdWord c x n with
    | (a, s1) => match a.stop with
      | some e => .error e
      | none => s1.cdWords c x (acc ++ [a.word]) rest

/-- One unit of the stream: a word, an element of a fill, a packed block, or a deal block, which goes in two parts where a
chunk ends within it (notes/assumptions/101.md). R326: what a unit has written before an error stays; of a packed block
nothing is known before its last element. -/
def State.cdUnit (s : State) (c : Nat) (x : CdCmd) : Except (CdStop × State × CdCmd) (State × CdCmd) :=
  let n := x.pos / 16
  match x.op with
  | 0 =>
    let (a, s1) := s.cdWord c x n
    let s2 := s1.putWord c (x.place n) a.word
    let y := { x with flags := x.flags ||| a.flags }
    match a.stop with
    | some e => .error (e, s2, y)
    | none => .ok (s2, { y with pos := x.pos + 16 })
  | 1 =>
    let b := dealB x.pattern
    let k := x.pos / b
    let len := min (min (b - x.pos % b) (4096 - x.pos % 4096)) (x.stream - x.pos)
    match s.cdWords c x [] ((List.range (len / 16)).map (n + ·)) with
    | .error e => .error (e, s, x)
    | .ok (ws, s1) =>
      let d : Deal := { src := c, lvl := x.lvl, cmd := x.id, dst := dealCore x.pattern k, words := ws
                        off := x.off + k / (dealW x.pattern * dealH x.pattern) * b + x.pos % b }
      .ok ({ s1 with deals := s1.deals ++ [d] }, { x with pos := x.pos + len, deals := x.deals + 1 })
  | 2 =>
    let (f, s1, stop) := s.cdPut c x (n / x.wordsRow) (x.place n) 0 (x.slots (n % x.wordsRow))
    let y := { x with flags := x.flags ||| f }
    match stop with
    | some e => .error (e, s1, y)
    | none => .ok (s1, { y with pos := x.pos + 16 })
  | 3 => match s.cdFill c x (x.pos / x.esz) with
    | .error e => .error (e, s, x)
    | .ok s1 => .ok (s1, { x with pos := x.pos + x.esz })
  | _ =>
    let data := x.blocks * x.blkBytes
    if x.pos < data then
      let b := x.pos / x.blkBytes
      match s.cdPack c x b with
      | .error e => .error (e, s, x)
      | .ok (p, s1) =>
        .ok (s1.putBlock c (x.off + x.pos) x p,
          { x with pos := x.pos + x.blkBytes, flags := x.flags ||| p.flags, scales := tabSet x.scales b (p.scale + 256 * b01 p.bad) })
    else match s.cdScales c x [] ((List.range 16).map (x.pos - data + ·)) with
      | .error e => .error (e, s, x)
      | .ok (l, s1) =>
        .ok (s1.putWord c (x.off + x.pos) { bytes := l.map fun v => some (BitVec.ofNat 8 v), bad := l.any (· ≥ 256) },
          { x with pos := x.pos + 16 })

/-- R315, R326: units of one chunk, at most `fuel`. A unit that awaits a translation or meets BUSY is done again whole. -/
def State.cdRun (s : State) (c : Nat) (x : CdCmd) : Nat → State × CdCmd
  | 0 => (s, x)
  | fuel + 1 =>
    if x.pos ≥ x.stream || x.ended.isSome then (s, x)
    else match s.cdUnit c x with
      | .ok (s1, y) => if y.pos / 4096 ≠ x.pos / 4096 then (s1, y) else s1.cdRun c y fuel
      | .error (.miss va, _, _) => (s.updCore c fun k => k.addMiss va x.kind, { x with missVa := some va })
      | .error (.busy, _, _) => (s, x)
      | .error (.fail st a, s1, y) => (s1, { y with ended := some (st, a) })

/-- R322, R326: the flag of a put whose data have been written. -/
def State.cdFlag (s : State) (c : Nat) (x : CdCmd) : State × CdCmd :=
  if x.op = 2 && x.flg && x.ended.isNone && x.pos ≥ x.stream then
    match s.cdLoc c x x.flagAddr 8 .cwrite with
    | .ok l => (s.storeAt l (bytesOf x.flagVal 8) none, { x with ended := some (0, 0) })
    | .error (.miss va) => (s.updCore c fun k => k.addMiss va .cwrite, { x with missVa := some va })
    | .error .busy => (s, x)
    | .error (.fail st a) => (s, { x with ended := some (st, a) })
  else if x.pos ≥ x.stream && x.ended.isNone then (s, { x with ended := some (0, 0) })
  else (s, x)

/-- R296, R327: the chunks completed. -/
def CdCmd.chunks (x : CdCmd) : Nat := if x.pos ≥ x.stream then ceilDiv x.stream 4096 else x.pos / 4096
/-- R296: the payload of a command's completion. -/
def CdCmd.completion (x : CdCmd) (status addr : Nat) : List Byte :=
  Machine.completion status 1 x.op x.flags x.chunks x.base x.word addr
/-- R296, R329: an ended command whose deal blocks are all acknowledged leaves the Carder. -/
def State.cdFinish (s : State) (c : Nat) (x : CdCmd) : State :=
  match x.ended with
  | some (st, a) =>
    if x.deals ≠ 0 then s
    else
      let s1 := s.updCore c fun k => k.setCdQueue x.lvl ((k.cdQueue x.lvl).filter fun y => y.id != x.id)
      if x.byMsg then s1.cdAnswer c x (x.completion st a)
      else s1.complete c x.lvl x.chan x.seq (x.completion st a)
  | none => s

/-- R315: whether a command is in the middle of a chunk. -/
def CdCmd.midChunk (x : CdCmd) : Bool := x.pos % 4096 != 0 && decide (x.pos < x.stream) && x.ended.isNone
/-- R315, R295: the head command of a level that can go on. -/
def State.cdHead (s : State) (c : Nat) (u : Bool) : Option CdCmd :=
  let k := s.core c
  if !u && k.level != .live then none
  else match (k.cdQueue u).head? with
    | some x =>
      if s.anyPending c x.after || (x.ended.isSome && x.deals != 0) || (match x.missVa with
        | some va => k.tlb.misses.any fun m => m.va / 2 ^ 16 == va / 2 ^ 16
        | none => false) then none else some x
    | none => none

/-- R315: the command that the Carder works on: one in the middle of a chunk, which keeps the Carder while it waits too, else
an urgent one, else a normal one. -/
def State.cdPick (s : State) (c : Nat) : Option CdCmd :=
  let mid (u : Bool) : Bool := ((s.core c).cdQueue u).head?.any CdCmd.midChunk && (u || (s.core c).level == .live)
  if mid false then s.cdHead c false
  else if mid true then s.cdHead c true
  else match s.cdHead c true with
    | some a => some a
    | none => s.cdHead c false

/-- R321: the Carder of a core runs on, through a free number of units of one chunk; its command ends when nothing is left
(notes/assumptions/39.md). -/
def execCarderCommandEnd : State → Host.Outcome State Fault Refusal := fun s =>
  let c := s.ev.core
  match s.cdPick c with
  | none => .next s
  | some x =>
    let (f, s0) := s.takeFree
    let (s1, y) := s0.cdRun c { x with missVa := none } (f % 4096 + 1)
    let (s2, z) := s1.cdFlag c y
    let s3 := s2.updCore c fun k => k.setCdQueue x.lvl ((k.cdQueue x.lvl).map fun q => if q.id = x.id then z else q)
    .next (s3.cdFinish c z)

/-! ### Deal blocks (R324) -/

/-- R324: whether a deal block is refused as fenced. -/
def State.dealFenced (s : State) (d : Deal) : Bool :=
  s.coreFenced d.dst || (s.core d.dst).tenant != (s.core d.src).tenant ||
  (s.coreFenced d.src && (match s.fenceOf d.src with | some f => !f.holds d.dst | none => d.dst != d.src))
/-- R324: a word into the scratchpad section of a save image. -/
def State.putImage (s : State) (area o : Nat) (w : CdWord) : State :=
  let a := area + imgTwister + s.peek (area + 40) 4 + o
  let r := s.mem.putWord 32 a w
  let s1 := { s with mem := r.1 }
  if r.2 then s1.count 4 else s1
/-- R324: the k-th deal block on its way reaches its target, which writes and acknowledges it. -/
def execDealBlockArrival : State → Host.Outcome State Fault Refusal := fun s =>
  match s.deals[s.ev.k]? with
  | none => .next s
  | some d =>
    let k := s.core d.dst
    if !d.lvl && k.level == .restoring then .next s
    else
      let s0 := { s with deals := s.deals.eraseIdx s.ev.k }
      let fenced := s.dealFenced d
      let s1 :=
        if fenced then s0
        else match (if d.lvl then none else if k.level == .saved then k.saveArea else none) with
          | some a => (d.words.zipIdx.foldl (fun s p => s.putImage a (d.off + 16 * p.2) p.1) s0).sealImage a
          | none => d.words.zipIdx.foldl (fun s p => s.putWord d.dst (d.off + 16 * p.2) p.1) s0
      let ack (x : CdCmd) : CdCmd :=
        if x.id = d.cmd then
          { x with deals := x.deals - 1, ended := if fenced && x.ended.all (·.1 == 0) then some (2, spadBase + d.off) else x.ended }
        else x
      let s2 := s1.updCore d.src fun k => k.setCdQueue d.lvl ((k.cdQueue d.lvl).map ack)
      .next s2

/-! ### Halt and resumption (R327, R328) -/

/-- R328: the saved form of a stopped command, 128 bytes. Its count of chunks has 20 bits: of 2^20 chunks the last is done
again. -/
def CdCmd.saved (x : CdCmd) : List Byte :=
  let w0 := x.word % 2 ^ 38 + x.op * 2 ^ 38 + min x.chunks (2 ^ 20 - 1) * 2 ^ 42 + b01 x.byHart * 2 ^ 62 + b01 x.byMsg * 2 ^ 63
  let w := if x.byMsg then setBits w0 19 10 x.rchan else w0
  let r := if x.byMsg then x.record + x.rcore % 2 ^ 20 * 2 ^ 78 + x.seq * 2 ^ 98 + b01 x.lvl * 2 ^ 114 else x.record
  bytesOf r 96 ++ bytesOf w 8 ++ bytesOf x.flagAddr 8 ++ bytesOf x.flagVal 8 ++ bytesOf x.pattern 8
/-- R328, R329: a command from its saved form; it goes on at the first chunk that was not completed. -/
def cdOfSaved (d : Nat) (id seq : Nat) : CdCmd :=
  let w := bits d 831 768
  let msg := bit w 63
  let x := cdOfRecord (bits w 41 38) d false
  let word := w % 2 ^ 38
  { x with id := id, pos := 4096 * bits w 61 42, byHart := bit w 62, byMsg := msg, seq := if msg then bits d 113 98 else seq
           word := if msg then setBits word 19 10 0 else word
           record := if msg then setBits x.record 78 37 0 else x.record
           rcore := if msg then bits d 97 78 else 0, rchan := if msg then bits word 28 19 else 0 }

end Sys2Proof.Machine
end

