-- ==== Sys2Proof/Machine/Deposit.lean ====
section
/-! DEFINITION. Deposits at their cores, name servers and side links (R216, R227 to R230, R345, R346), name caches, and the
allocation and answer of Skein names (R215, R217, R219, R220). -/

namespace Sys2Proof.Machine

/-! ### Applying a deposit (R228, R230) -/

/-- R226: the fields of a deposit's address word. -/
def depRank (w : Nat) : Nat := bits w 4 0
def depReg (w : Nat) : Nat := bits w 13 8
def depCount (w : Nat) : Nat := if bit w 16 then 4 else 1
/-- R228 steps 2 and 3. -/
def Msg.depositBad (m : Msg) : Option Nat :=
  let w := m.num 0 16
  if m.chan ≠ 0 || bits w 7 5 ≠ 0 || bits w 15 14 ≠ 0 || w ≥ 2 ^ 18 then some rReserved
  else if m.plen ≠ 2 + 3 * bits w 16 16 then some rSize
  else none
/-- The data of register j of a deposit. -/
def Msg.depData (m : Msg) (j : Nat) : Nat := m.num (16 + 16 * j) 16

/-- R176, R227: the inbox of core c, or its service core for it, refuses a deposit; R247: a message that firmware refuses
counts at neither. -/
def State.depRefuse (s : State) (c : Nat) (svc : Bool) (reason : Nat) (m : Msg) : State :=
  if svc then
    let p := serviceEndpoint (coreCluster c)
    s.postFrom p.x p.y (Msg.refusal s.firmwareAddr reason m) 1
  else (s.updCore c (Core.countRecv · m.prio)).refuse c reason m
/-- R176, R227, R247: an applied deposit counts as received at core c, and is answered. -/
def State.depAccept (s : State) (c : Nat) (m : Msg) : State := (s.updCore c (Core.countRecv · m.prio)).post c (m.acceptance s c)

/-- R229 steps 1 and 4: whether a deposit of this cycle finds a register HELD: it is, and no `hold` of this cycle made it. -/
def Core.takesDeposit (k : Core) (x : Ctx) (r : Nat) : Bool :=
  (x.r.cell r).pres == .held && !(match x.heldAt with | some (t, rs) => t == k.counter && rs.contains r | none => false)
/-- R228 steps 5 to 7, R229: applies a deposit to the registers of a resident Skein at the end of a cycle; `svc` where the
service core does (R230). -/
def State.applyDeposit (s : State) (c : Nat) (svc : Bool) (m : Msg) : State :=
  let w := m.num 0 16
  let k := s.core c
  match (k.members m.dest).find? fun i => (k.ctx i).rank == depRank w with
  | none => s.depRefuse c svc rNoSuchGroup m
  | some i =>
    let x := k.ctx i
    let rs := regSpan (depReg w) (depCount w)
    if depReg w + depCount w > x.nreg || !rs.all (k.takesDeposit x) then s.depRefuse c svc rNotHeld m
    else
      let set (y : Ctx) : Ctx := (List.range (depCount w)).foldl (fun y j => y.setV (depReg w + j) (m.depData j)) y
      let y := x.land s.nextReq set
      -- R132: a deposit of the halt cycle is recorded
      let z := if k.level == .halting && !x.lvl then { y with pendingSet := y.pendingSet ||| 1 } else y
      (s.setCore c ((k.setCtx i z).wake)).depAccept c m

/-- R230: applies a deposit to the save image of core c. -/
def State.applyDepositImage (s : State) (c : Nat) (m : Msg) : State :=
  let w := m.num 0 16
  let k := s.core c
  match k.saveArea, k.saved.find? fun e => e.name == m.dest && e.rank == depRank w with
  | some a, some e =>
    match s.recordOf a e.idx with
    | none => s.depRefuse c true rNoSuchGroup m
    | some r =>
      let rs := regSpan (depReg w) (depCount w)
      if depReg w + depCount w > 16 * s.peek (r + 2) 1 || !(rs.all fun i => s.recPres r i == 2) then s.depRefuse c true rNotHeld m
      else
        let s1 := (List.range (depCount w)).foldl (fun s j => s.recSetReg r (depReg w + j) (m.depData j)) s
        (s1.sealImage a).depAccept c m
  | _, _ => s.depRefuse c true rNoSuchGroup m

/-- R218, R230, R367: the deposits that are held for Skeins in migration, of those that `p` chooses, are refused at the new core. -/
def State.refuseHeld (s : State) (p : Migration → Bool) (svc : Bool) (reason : Nat) : State :=
  let s1 := { s with agent := { s.agent with migrations := s.agent.migrations.map fun g => if p g then { g with held := [] } else g } }
  (s.agent.migrations.filter p).foldl (fun s g => g.held.foldl (fun s m => s.depRefuse g.dst svc reason m) s) s1
/-- R230: the deposits that a service core holds for a level that ends without a restore are refused. -/
def State.refuseLate (s : State) (c : Nat) : State :=
  let late := (s.core c).inbox.late
  late.foldl (fun s m => s.depRefuse c true rNoSuchGroup m) (s.updCore c fun k => { k with inbox := { k.inbox with late := [] } })

/-- R228, R230: a checked deposit for a Skein that resides on core c. In the halt cycle it lands in the registers; until
the image is written, and during a restore, it is held. -/
def State.depositHere (s : State) (c : Nat) (m : Msg) (lvl : Bool) : State :=
  let k := s.core c
  if lvl || k.level == .live || (k.level == .halting && k.counter == k.haltCycle) then s.applyDeposit c false m
  else if k.level == .saved then s.applyDepositImage c m
  else s.updCore c fun k => { k with inbox := { k.inbox with late := k.inbox.late ++ [m] } }

/-- R229: the deposits that the inbox took in the cycle that ends take effect. -/
def State.landDeposits (s : State) (c : Nat) : State :=
  let l := (s.core c).inbox.landing
  if l.isEmpty then s
  else l.foldl (fun s p => s.depositHere c p.1 p.2) (s.updCore c fun k => { k with inbox := { k.inbox with landing := [] } })

/-- R228: a deposit at the core that may apply it: refused, forwarded, held for a migration, or applied at the end of the
cycle. -/
def State.takeDeposit (s : State) (c : Nat) (m : Msg) : State :=
  let k := s.core c
  -- R218: a drained core forwards as well
  match k.forwarding.find? fun f => f.1 == m.dest with
  | some (_, n, _) => s.inject (coreX c) (coreY c) (coreEndpoint n) m
  | none =>
    if m.rsvd ≠ 0 then s.depRefuse c false rReserved m
    else if s.coreFenced c || m.tenant ≠ k.tenant then s.depRefuse c false rFenced m
    else match m.depositBad with
      | some r => s.depRefuse c false r m
      | none =>
        match s.agent.migrations.find? fun g => g.name == m.dest && g.dst == c && !g.installed with
        | some g =>
          { s with agent := { s.agent with migrations := s.agent.migrations.map fun h =>
              if h.name = g.name then { h with held := h.held ++ [m] } else h } }
        | none =>
          match k.residents.find? fun r => r.name == m.dest with
          | some r => s.updCore c fun k => { k with inbox := { k.inbox with landing := k.inbox.landing ++ [(m, r.lvl)] } }
          | none => s.inject (coreX c) (coreY c) (s.route (coreX c) (coreY c) m) m

/-- R346: the beats of a deposit on a side link. -/
def Msg.beats (m : Msg) : Nat := ceilDiv (16 + 16 * m.plen) 64

/-- R227, R228, R346: the k-th deposit that waits at core c is taken: one a cycle, and none of the side links while one
of the Reel waits. -/
def execDepositArrival : State → Host.Outcome State Fault Refusal := fun s =>
  let c := s.ev.core
  let k := s.core c
  let n := k.inbox.deposits.length
  if !k.inbox.landing.isEmpty then .next s
  else match k.inbox.deposits[s.ev.k]? with
  | some m =>
    .next ((s.updCore c fun k => { k with inbox := { k.inbox with deposits := k.inbox.deposits.eraseIdx s.ev.k } }).tookOrdered m |>.takeDeposit c m)
  | none =>
    if 0 < n then .next s
    else match k.side.inbound[s.ev.k]? with
      | none => .next s
      | some (d, m) =>
        let s1 := s.updCore c fun k => { k with side := { k.side with inbound := k.side.inbound.eraseIdx s.ev.k } }
        let s2 := s1.updCore (neighbour c d) fun k => { k with side := k.side.addCredit (Dir.opposite d) m.beats }
        .next (s2.takeDeposit c m)

/-- R345, R346: a beat of the i-th deposit on its way out crosses; with its last beat the deposit is in the port buffer of
the neighbour. -/
def State.depositBeat (s : State) (c : Nat) (d : Dir) (i : Nat) (m : Msg) : State :=
  let p := (s.core c).side.addCredit d (-1)
  if p.sentAt d + 1 < m.beats then s.updCore c fun k => { k with side := (p.setSent d (p.sentAt d + 1)).setTurned d false }
  else
    let s1 := s.updCore c fun k => { k with side := { (p.setSent d 0).setTurned d false with outbound := p.outbound.eraseIdx i } }
    s1.updCore (neighbour c d) fun k => { k with side := { k.side with inbound := k.side.inbound ++ [(Dir.opposite d, m)] } }
/-- R345 to R347: a beat leaves core c in a direction, under a credit of the link: of its first deposit there or of a rotated
operand, in alternation where both wait; R366: at the edge of a fenced rectangle the deposit is refused. -/
def execSideLinkBeat : State → Host.Outcome State Fault Refusal := fun s =>
  let c := s.ev.core
  let d := s.ev.dir
  let p := (s.core c).side
  let dep : Option (Nat × Msg) := (p.outbound.zipIdx.find? fun o => o.1.1 == d).map fun o => (o.2, o.1.2)
  let turn : Option (Rotated × Nat) := s.rotated.findSome? fun r => (r.hopAt c d).map fun h => (r, h)
  let fenced := s.coreFenced c && !((s.fenceOf c).any fun f => f.holds (neighbour c d))
  match dep, turn with
  | some (i, m), t =>
    if fenced then
      .next ((s.updCore c fun k => { k with side := { (k.side.addCredit d (p.sentAt d)).setSent d 0 with
        outbound := k.side.outbound.eraseIdx i } }).fenceRefuse c m)
    else if p.credit d = 0 then .next s
    else match if p.turnedAt d then none else t with
      | some (r, h) => .next ((s.crossBeat r h).updCore c fun k => { k with side := k.side.setTurned d true })
      | none => .next (s.depositBeat c d i m)
  | none, some (r, h) =>
    if p.credit d = 0 then .next s
    else .next ((s.crossBeat r h).updCore c fun k => { k with side := k.side.setTurned d true })
  | none, none => .next s

/-! ### Name servers and name caches (R216, R230) -/

/-- R216: how the name server knows the cache of a sender: by core index in this package, by 2^20 + core address in
another. -/
def State.cacheOf (s : State) (rcore : Nat) : Nat := if rcore / 4096 = s.pkg then rcore % 4096 else 2 ^ 20 + rcore
/-- R216: the resolution of a name goes to a cache. -/
def State.tellCache (s : State) (c name holder : Nat) (ack : Bool) : State :=
  { s with agent := { s.agent with cacheUpdates := s.agent.cacheUpdates ++ [(c, name, holder, ack)] } }
/-- R215: records that a cache holds an entry, or no longer does. -/
def State.noteCache (s : State) (c name : Nat) : State :=
  match s.nameEntry name with
  | some e => s.setName (nameIndex name) { e with caches := setAdd e.caches c }
  | none => s
def State.dropCache (s : State) (c name : Nat) : State :=
  match s.nameEntry name with
  | some e => s.setName (nameIndex name) { e with caches := e.caches.filter (· != c) }
  | none => s

/-- R216, R230: the k-th deposit at the name servers is forwarded, applied to an image, or refused. -/
def execNameServerDeposit : State → Host.Outcome State Fault Refusal := fun s =>
  match s.agent.nsDeposits[s.ev.k]? with
  | none => .next s
  | some m =>
    let s0 := { s with agent := { s.agent with nsDeposits := s.agent.nsDeposits.eraseIdx s.ev.k } }
    let p := serviceEndpoint (nameIndex m.dest % 144)
    let refuse (r : Nat) : State := s0.postFrom p.x p.y (Msg.refusal s.firmwareAddr r m) 1
    match s.nameEntry m.dest with
    | none => .next (refuse rNoSuchGroup)
    | some e =>
      if e.st == .exited then .next (refuse rNoSuchGroup)
      else
        let from_ := s.cacheOf m.rcore
        let s1 := (s0.tellCache from_ m.dest e.core false).noteCache from_ m.dest
        if m.tenant ≠ e.tenant then .next (s1.postFrom p.x p.y (Msg.refusal s.firmwareAddr rFenced m) 1)
        else if e.st == .preempted then
          match m.depositBad with
          | some r => .next (s1.depRefuse e.core true r m)
          | none => .next (s1.depositHere e.core m false)
        else .next (s1.inject p.x p.y (coreEndpoint e.core) m 1)

/-- R216: a name cache of 32 entries takes a resolution; the least recently used entry is its last. -/
def State.cacheName (s : State) (c n h : Nat) : State :=
  let l := (n, h) :: (s.core c).nameCache.filter fun e => e.1 != n
  let s1 := (s.updCore c fun k => { k with nameCache := l.take 32 }).noteCache c n
  (l.drop 32).foldl (fun s e => s.dropCache c e.1) s1
/-- R216: the k-th resolution reaches a name cache; a cache of another package answers as its own does. With the event's `b` it is
the resolution of a name of another package, from the name server there: name `n` and core address `m`
(notes/assumptions/63.md). -/
def execNameCacheUpdate : State → Host.Outcome State Fault Refusal := fun s =>
  if s.ev.b then
    if s.ev.core < numCores && bits s.ev.n 31 24 != s.pkg && s.ev.n < 2 ^ 32 then .next (s.cacheName s.ev.core s.ev.n (farHolder + s.ev.m % 2 ^ 20))
    else .next s
  else match s.agent.cacheUpdates[s.ev.k]? with
  | none => .next s
  | some (c, n, h, ack) =>
    let a := { s.agent with cacheUpdates := s.agent.cacheUpdates.eraseIdx s.ev.k
                            forwardAcks := if ack then s.agent.forwardAcks ++ [(c, n)] else s.agent.forwardAcks }
    let s1 := { s with agent := a }
    if c ≥ numCores then .next s1 else .next (s1.cacheName c n h)

/-! ### Names (R215, R217, R219, R220) -/

/-- R215: takes the index of a tenant's range that was released longest ago. -/
def takeIndex (tenant : Nat) : List NameRange → Option (Nat × List NameRange)
  | [] => none
  | r :: rest =>
    if r.tenant = tenant then
      match r.free with
      | i :: f => some (i, { r with free := f } :: rest)
      | [] => (takeIndex tenant rest).map fun p => (p.1, r :: p.2)
    else (takeIndex tenant rest).map fun p => (p.1, r :: p.2)

/-- R220: whether a core, context and incarnation has been given a name. -/
def State.hadName (s : State) (o : Nat × Nat × Nat) : Bool := tabGet s.agent.named (32 * o.1 + o.2.1) == some o.2.2
/-- R220: records that it has; an earlier incarnation of the context no longer asks. -/
def Agent.noteNamed (a : Agent) (o : Nat × Nat × Nat) : Tab Nat := tabSet a.named (32 * o.1 + o.2.1) o.2.2
/-- R215: the launch agent allocates a name for the k-th request and has it recorded. R220: one name for each core, context and
incarnation: a context that holds one already is given that one, and one whose name is EXITED gets none
(notes/assumptions/49.md). -/
def execNameAllocation : State → Host.Outcome State Fault Refusal := fun s =>
  match s.agent.nameReqs[s.ev.k]? with
  | none => .next s
  | some q =>
    if q.answer.isSome then .next s
    else
      let put (a : Option Nat) (s : State) : State :=
        { s with agent := { s.agent with nameReqs := s.agent.nameReqs.set s.ev.k { q with answer := some a } } }
      let t := (s.core q.core).tenant
      let owner := q.ctx.map fun i => (q.core, i, q.inc)
      match s.agent.names.find? fun e => owner.isSome && e.2.owner == owner && e.2.st != .exited && e.2.st != .free with
      | some (i, e) => .next (put (some (s.nameOf i e)) s)
      | none => if owner.any s.hadName then .next (put none s) else match takeIndex t s.agent.ranges with
      | none => .next (put none s)
      | some (i, rs) =>
        let gen := (((tabGet s.agent.names i).map (·.gen)).getD 0 + 1) % 256
        let e : NameEntry := { st := .live, gen := gen, core := q.core, lvl := q.urgent, tenant := t, owner := owner }
        let s1 := { s with agent := { s.agent with ranges := rs, named := owner.elim s.agent.named (s.agent.noteNamed ·) } }.setName i e
        .next (put (some (s.nameOf i e)) s1)

/-- R217, R219: the answer to `jd.name`: the Skein and its members take the name, and the hart goes on. -/
def State.answerHandle (s : State) (q : NameReq) (g : Nat) (a : Option Nat) : State :=
  let c := q.core
  let s1 : State := match (s.core c).handleOf q.urgent g, a with
    | some sk, some n =>
      let k := (s.core c).setSkein g (some { sk with name := n })
      let name (x : Ctx) : Ctx := if x.handle == some g && x.st != .free then { x with skein := n } else x
      let rename (e : SavedCtx) : SavedCtx := if e.handle == some g && !q.urgent then { e with name := n } else e
      let k1 := sk.members.foldl (fun k i => Core.updCtx k i name) k
      let saved := k1.saved.map rename
      s.setCore c { k1 with saved := saved, residents := k1.residents ++ [{ name := n, lvl := q.urgent, handle := some g }] }
    | _, _ => s
  s1.updHart c q.urgent fun h =>
    if h.naming then ({ h.setN h.pendRd (a.getD (2 ^ 63 + 1)) with naming := false } : Hart).retireTo (h.pc + 4#64) else h

/-- R220: the answer to a `join` with operand zero lands in a context; one that names the Skein it is a member of by then
changes nothing but its register (notes/assumptions/49.md). -/
def State.answerJoin (s : State) (c i rd : Nat) (lvl : Bool) (a : Option Nat) : State :=
  match a with
  | none => s.updCtx c i fun x => x.land s.nextReq fun y => y.setV rd (lanes4 0 0 1 0)
  | some n =>
    let x := s.ctx c i
    let s1 := if x.joined && x.skein != n then (s.updCore c fun k => k.leaveSkein i).exitGone (s.core c).residents c else s
    let k := s1.core c
    let there := k.residents.any fun r => r.name == n
    let r := if !there then 0 else if x.joined && x.skein == n then x.rank else k.vacantRank n
    let s2 := if there then s1 else s1.setCore c { k with residents := k.residents ++ [{ name := n, lvl := lvl, handle := none }] }
    s2.updCtx c i fun x => { x with skein := n, rank := r, joined := true }.land s.nextReq fun y => y.setV rd (lanes4 n r 0 0)
/-- R184, R220: the same for a saved context. -/
def State.answerJoinSaved (s : State) (c i rd : Nat) (a : Option Nat) : State :=
  match (s.core c).saveArea with
  | none => s
  | some area =>
    match s.recordOf area i with
    | none => s
    | some r =>
      match a with
      | none => (s.recSetReg r rd (lanes4 0 0 1 0)).sealImage area
      | some n =>
        match (s.core c).saved.find? fun e => e.idx == i && e.joined && e.name == n with
        | some e => (s.recSetReg r rd (lanes4 n e.rank 0 0)).sealImage area
        | none =>
          let s1 := (((s.recSetReg r rd (lanes4 n 0 0 0)).poke (r + 92) (bytesOf n 4))).sealImage area
          s1.updCore c fun k => { k with
            saved := k.saved.map fun e => if e.idx = i then { e with name := n, rank := 0, joined := true } else e
            residents := k.residents ++ [{ name := n, lvl := false, handle := none }] }

/-- R217, R219, R220: the answer to the k-th name request reaches its core. -/
def execNameAnswer : State → Host.Outcome State Fault Refusal := fun s =>
  match s.agent.nameReqs[s.ev.k]? with
  | none => .next s
  | some q =>
    match q.answer with
    | none => .next s
    | some a =>
      let c := q.core
      let k := s.core c
      let busy := !q.urgent && k.level != .live && k.level != .saved
      if busy then .next s
      else
        let s0 := { s with agent := { s.agent with nameReqs := s.agent.nameReqs.eraseIdx s.ev.k } }
        match q.ctx, q.handle with
        | some i, _ =>
          let mine (e : Entry) : Option Nat := match e.ans with
            | .join j n rd => if j = i && n = q.inc then some rd else none
            | _ => none
          let ent := k.table.find? fun e => (mine e).isSome
          let rd := ent.bind mine
          let s1 := match ent with
            | some e => s0.updCore c fun k => k.dropEntry e
            | none => s0
          let lost := match a with
            | some n => if k.residents.any fun r => r.name == n then s1 else s1.exitName n
            | none => s1
          if (a.map fun n => (s.nameEntry n).all fun e => e.st == .exited) == some true then
            .next { s with agent := { s.agent with nameReqs := s.agent.nameReqs.set s.ev.k { q with answer := none } } }
          else
          match rd with
          | none => .next lost
          | some d =>
            if !q.urgent && k.level == .saved then
              if k.saved.any fun e => e.idx == i then .next (s1.answerJoinSaved c i d a) else .next lost
            else if s.alive c i q.inc then .next ((s1.answerJoin c i d q.urgent a).wakeCore c)
            else .next lost
        | none, some g => .next (s0.answerHandle q g a)
        | none, none => .next s0

end Sys2Proof.Machine
end

