-- ==== Sys2Proof/Machine/Block.lean ====
section
/-! DEFINITION. Block fetches that complete (R135, R136), contexts that have drained (R131, R140), and signed blocks: entry
(R371) and the check at the marker (R70, R373). -/

namespace Sys2Proof.Machine

/-- R135, R136, R368: the k-th fetch in progress of core c completes with the block's 64 bytes, or fails. -/
def execBlockFetchComplete : State → Host.Outcome State Fault Refusal := fun s =>
  let c := s.ev.core
  let k := s.core c
  match (k.blocks.filter fun e => e.data.isNone && e.failed.isNone)[s.ev.k]? with
  | none => .next s
  | some e =>
    let done : BlkEntry :=
      if !s.ownerOk k.tenant e.loc then { e with failed := some cNOMAP }
      else if s.poisonedAt e.loc 64 then { e with failed := some cFETCH }
      else { e with data := some (s.readAt e.loc 64) }
    .next (s.setCore c { k with blocks := k.blocks.map fun f => if f.addr = e.addr then done else f })

/-- R131, R140: a STOPPED context that is no member enters FREE once nothing of it is outstanding. -/
def execContextDrainComplete : State → Host.Outcome State Fault Refusal := fun s =>
  let c := s.ev.core
  let i := s.ev.k
  let x := s.ctx c i
  if x.st == .stopped && !x.mbr && !s.outstanding c i then
    .next ((s.updCore c fun k => k.freeCtx i).exitGone (s.core c).residents c)
  else .next s

/-- R371: a Fibre at offset 0 of a signed block enters it once the signature checker is free. -/
def execSignedBlockEntry : State → Host.Outcome State Fault Refusal := fun s =>
  let c := s.ev.core
  let i := s.ev.k
  let k := s.core c
  let x := k.ctx i
  if x.st == .ready && x.signed.isNone && x.pcOff == 0 && k.checker.isNone && !k.stopped && (x.lvl || k.level == .live) then
    match k.currentBlock x with
    | none => .next s
    | some b =>
      match s.fetchBlock c x.lvl b with
      | .ready d =>
        if (markerOf d).isSome then
          .next (s.setCore c ({ k with checker := some i }.setCtx i { x with pcBlk := b, signed := some { blk := b, entry := x.r, slot0 := x.slot0, slot1 := x.slot1 } }))
        else .next s
      | _ => .next s
  else .next s

/-! ### The end of a signed block (R70, R373) -/

/-- R371: the held effects of context i on its core take effect; a request for a name goes out. -/
def State.commit (s : State) (c i : Nat) (es : List SigEffect) : State :=
  let s1 := (s.updCore c fun k => es.foldl (Core.sigApply i) k).exitGone (s.core c).residents c
  es.foldl (fun s e => match e with | .named d => s.askName c i d | _ => s) s1
/-- R280, R373: the held stores of a signed block are posted, each behind those that it overlaps and those that a `fence.rel`
puts before it; `ids` holds the requests of each store posted so far, and the result those of all. -/
def State.postHeld (s : State) (c i : Nat) (ids : List (List Nat)) : List HeldStore → State × List (List Nat)
  | [] => (s, ids)
  | h :: r =>
    let rs := storeReqs s c i h.va h.ps h.data (if h.tags.isEmpty then none else some h.tags) 0 0 ((ids.take h.fenced).flatten)
    ((rs.foldl (fun s q => s.addBehind c i q) s).postHeld c i (ids ++ [nextIds s rs.length])) r

/-- R373: the check at the signature marker. A marker reached outside the run of a signed block only ends the block
(notes/assumptions/24.md). -/
def execSignatureMarker : State → Host.Outcome State Fault Refusal :=
  fibreOp 1 .plain [] [] [] fun s c i x =>
    let leave (y : Ctx) : Ctx := y.advance (32 - y.pcOff)
    match x.signed with
    | none => .moved (s.setCtx c i (leave x))
    | some g =>
      let want := (((s.core c).findBlock x.pcBlk).bind (·.data)).map fun d =>
        parcelAt d (if g.taken then x.pcOff + 2 else x.pcOff + 1)
      if want == some (crc32c g.path % 2 ^ 16) then
        let names := (g.effects.filter fun e => match e with | .named _ => true | _ => false).length
        if s.entriesFree c ((g.stores.filter fun h => h.ps.any fun p => !p.2.2.isSpad).length + names) then
          let (s1, ids) := s.postHeld c i [] g.stores
          let y := leave { x with signed := none, flaws := x.flaws.map fun f => { f with run := false }, relHold := x.relHold ++ (ids.take g.fenced).flatten }
          .moved (((s1.setCtx c i y).updCore c fun k => { k with
            checker := none
            transients := if g.second then min (k.transients + 1) (2 ^ 64 - 1) else k.transients
            sigLog := if g.second then x.pcBlk :: k.sigLog else k.sigLog }).commit c i g.effects)
        else .stall s
      else if g.second then
        .moved ((s.takeFault c i cSIGFAIL x.pcBlk).drainCore c)
      else
        let y := x.discardSigned
        .moved ((s.setCtx c i { y with
          signed := some { blk := g.blk, entry := { g.entry with regs := y.r.regs }, slot0 := g.slot0, slot1 := g.slot1, second := true } }).discardLoads g.loads)

end Sys2Proof.Machine
end

