-- ==== Sys2Proof/Machine/Capability.lean ====
section
/-! DEFINITION. Capability instructions (R95 to R97) and tensor-index instructions (R98 to R101). -/

namespace Sys2Proof.Machine

/-- R95: vd := vs1 with its address replaced by x; the tag stays where the address is canonical and
representable. -/
def capMoved (v : Nat) (g : Bool) (x : Nat) : Nat × Bool :=
  (capWithAddr v x, g && canonical x && capRepresentable v (x % 2 ^ 60))

/-- R95: `cinc` by an exact integer. -/
def capInc (d a : VReg) (c : Ctx) (x : Int) : Ctx :=
  let v := c.v a.toNat
  let r := capMoved v (c.vtag a.toNat) (trunc ((lo64 v : Int) + x) 64)
  c.setV d.toNat r.1 r.2

def execCinc (b a d : VReg) : State → Host.Outcome State Fault Refusal :=
  pureOp 2 [a.toNat, b.toNat] [d.toNat] [] fun c => capInc d a c (sext (c.vlo b.toNat) 64)
def execCset (b a d : VReg) : State → Host.Outcome State Fault Refusal :=
  pureOp 2 [a.toNat, b.toNat] [d.toNat] [] fun c =>
    let r := capMoved (c.v a.toNat) (c.vtag a.toNat) (c.vlo b.toNat)
    c.setV d.toNat r.1 r.2
def execCincImm (i : BitVec 12) (a d : VReg) : State → Host.Outcome State Fault Refusal :=
  pureOp 2 [a.toNat] [d.toNat] [] fun c => capInc d a c i.toInt

/-- R96: `cbnd`: exact bounds of length x from the address. -/
def capNarrow (v : Nat) (g : Bool) (x : Nat) : Except (Nat × Nat) Nat :=
  let b := bits v 59 0
  if !g then .error (cCAPTAG, b)
  else
    let (b0, t0, _) := capDecode v
    let t := b + x
    if b < b0 || t > t0 then .error (cCAPBND, b)
    else match capExp b t with
      | none => .error (cCAPREP, b)
      | some e => .ok (capWithBounds v e b t)

/-- R96: `cbnd.r`: bounds rounded outward. -/
def capNarrowRound (v : Nat) (g : Bool) (x : Nat) : Except (Nat × Nat) Nat :=
  let b := bits v 59 0
  if !g then .error (cCAPTAG, b)
  else
    let (b0, t0, _) := capDecode v
    let t := b + x
    match capRoundExp b t with
    | none => .error (cCAPBND, b)
    | some e =>
      let b' := 2 ^ e * (b / 2 ^ e)
      let t' := roundUp t (2 ^ e)
      if b' < b0 || t' > t0 then .error (cCAPBND, b)
      else .ok (capWithBounds v ((capExp b' t').getD e) b' t')

def execCbnd (b a d : VReg) : State → Host.Outcome State Fault Refusal :=
  faultOp 2 [a.toNat, b.toNat] [d.toNat] [] fun c =>
    (capNarrow (c.v a.toNat) (c.vtag a.toNat) (c.vlo b.toNat)).map fun v => c.setV d.toNat v true
def execCbndR (b a d : VReg) : State → Host.Outcome State Fault Refusal :=
  faultOp 2 [a.toNat, b.toNat] [d.toNat] [] fun c =>
    (capNarrowRound (c.v a.toNat) (c.vtag a.toNat) (c.vlo b.toNat)).map fun v => c.setV d.toNat v true
def execCbndImm (i : BitVec 12) (a d : VReg) : State → Host.Outcome State Fault Refusal :=
  faultOp 2 [a.toNat] [d.toNat] [] fun c =>
    (capNarrow (c.v a.toNat) (c.vtag a.toNat) i.toNat).map fun v => c.setV d.toNat v true
/-- R95: `cperm`. -/
def execCperm (b a d : VReg) : State → Host.Outcome State Fault Refusal :=
  pureOp 2 [a.toNat, b.toNat] [d.toNat] [] fun c =>
    let v := c.v a.toNat
    c.setV d.toNat (setBits v 64 8 (bits v 71 64 &&& bits (c.v b.toNat) 7 0)) (c.vtag a.toNat)
def execCgetb (a d : VReg) : State → Host.Outcome State Fault Refusal :=
  pureOp 2 [a.toNat] [d.toNat] [] fun c => c.setV d.toNat (capDecode (c.v a.toNat)).1
def execCgetl (a d : VReg) : State → Host.Outcome State Fault Refusal :=
  pureOp 2 [a.toNat] [d.toNat] [] fun c =>
    let r := capDecode (c.v a.toNat)
    c.setV d.toNat (r.2.1 - r.1)
def execCgetp (a d : VReg) : State → Host.Outcome State Fault Refusal :=
  pureOp 2 [a.toNat] [d.toNat] [] fun c => c.setV d.toNat (capDecode (c.v a.toNat)).2.2
def execCtag (a d : VReg) : State → Host.Outcome State Fault Refusal :=
  pureOp 2 [a.toNat] [d.toNat] [] fun c => c.setV d.toNat (b01 (c.vtag a.toNat))
def execCclr (a d : VReg) : State → Host.Outcome State Fault Refusal :=
  pureOp 2 [a.toNat] [d.toNat] [] fun c => c.setV d.toNat (c.v a.toNat)

/-! ### Tensor indexing -/

/-- R98: the 64 bytes of shape entry n, as a number. -/
def Core.shapeEntry (k : Core) (n : Nat) : Nat :=
  ofBytes ((List.range 64).map fun j => (tabGet k.shape (64 * n + j)).getD 0#8)

/-- R98: rank, extent i, magic i and shift i of an entry. -/
def shapeRank (e : Nat) : Nat := min (bits e 162 160) 4 + 1
def shapeExtent (e i : Nat) : Nat := e / 2 ^ (32 * i) % 2 ^ 32
def shapeMagic (e i : Nat) : Nat := e / 2 ^ (192 + 64 * i) % 2 ^ 34
def shapeShift (e i : Nat) : Nat := e / 2 ^ (192 + 64 * i + 34) % 2 ^ 7

/-- R100: `shp` copies an entry into four registers. -/
def execShp (n : BitVec 6) (d : VReg) : State → Host.Outcome State Fault Refusal :=
  fibreOp 2 .plain [] [d.toNat, d.toNat + 1, d.toNat + 2, d.toNat + 3] [(d.toNat, 4)] fun s c i x =>
    let e := (s.core c).shapeEntry n.toNat
    .retire (s.setCtx c i ((List.range 4).foldl (fun x j => x.setV (d.toNat + j) (e / 2 ^ (128 * j) % 2 ^ 128)) x))

/-- R100: the coordinates of `tix` from dimension i on, with r - 1 - i divisions left. -/
def tixCoords (e : Nat) (l : Nat) (i : Nat) : Nat → List Int
  | 0 => [(l : Int)]
  | n + 1 =>
    let q := (l * shapeMagic e i) >>> shapeShift e i
    ((l : Int) - q * shapeExtent e i) :: tixCoords e q (i + 1) n

/-- R100: `tix`. -/
def execTix (b a d : VReg) : State → Host.Outcome State Fault Refusal :=
  pureOp 2 [a.toNat, b.toNat, b.toNat + 1, b.toNat + 2, b.toNat + 3] [d.toNat, d.toNat + 1]
    [(d.toNat, 2), (b.toNat, 4)] fun c =>
    let e := c.v b.toNat + 2 ^ 128 * c.v (b.toNat + 1) + 2 ^ 256 * c.v (b.toNat + 2) + 2 ^ 384 * c.v (b.toNat + 3)
    let cs := tixCoords e (c.vlo a.toNat % 2 ^ 32) 0 (shapeRank e - 1)
    c.setPair d.toNat (packLanes 32 (cs.map (trunc · 32)))

/-- R100: `tlin`. -/
def execTlin (b a d : VReg) : State → Host.Outcome State Fault Refusal :=
  pureOp 2 [a.toNat, a.toNat + 1, b.toNat, b.toNat + 1, b.toNat + 2] [d.toNat] [(a.toNat, 2), (b.toNat, 4)] fun c =>
    let p := c.v a.toNat + 2 ^ 128 * c.v (a.toNat + 1)
    let q := c.v b.toNat + 2 ^ 128 * c.v (b.toNat + 1) + 2 ^ 256 * c.v (b.toNat + 2)
    let y := (List.range 5).foldl (fun (y : Int) i => y + slane p 32 i * slane q 64 i) 0
    c.setV d.toNat (trunc y 64)

end Sys2Proof.Machine
end

