-- ==== Sys2Proof/Machine/Crypto.lean ====
section
/-! DEFINITION. The published standards that the spec names: the SM3 hash (R253, R380), AES-256, SM4 and their GCM (R363)
and XTS (R379), and SM2 signatures and decryption (R380, R388, R390). Their constants are the standards' (notes/assumptions/10.md). -/

namespace Sys2Proof.Machine

/-! ### Octet strings -/

/-- The number that an octet string gives, most significant byte first. -/
def beNum (d : List Byte) : Nat := d.foldl (fun a b => 256 * a + b.toNat) 0
/-- n octets of a number, most significant first. -/
def beBytes (x n : Nat) : List Byte := (List.range n).map fun i => BitVec.ofNat 8 (x >>> (8 * (n - 1 - i)))
/-- A string in pieces of n bytes. -/
def chunks (n : Nat) (d : List Byte) : List (List Byte) :=
  (List.range ((d.length + n - 1) / n)).map fun i => (d.drop (n * i)).take n
/-- A word of 32 bits rotated to the left. -/
def rol32 (x n : Nat) : Nat := ((x <<< (n % 32)) ||| (x >>> (32 - n % 32))) % 2 ^ 32
/-- The bitwise exclusive or of two strings, as long as the shorter. -/
def xorBytes (a b : List Byte) : List Byte := List.zipWith (· ^^^ ·) a b

/-! ### SM3 (GB/T 32905) -/

def sm3P0 (x : Nat) : Nat := x ^^^ rol32 x 9 ^^^ rol32 x 17
def sm3P1 (x : Nat) : Nat := x ^^^ rol32 x 15 ^^^ rol32 x 23
/-- One step of the message expansion: the words so far, latest first. -/
def sm3Expand (w : List Nat) : List Nat :=
  let g (i : Nat) : Nat := w.getD (i - 1) 0
  (sm3P1 (g 16 ^^^ g 9 ^^^ rol32 (g 3) 15) ^^^ rol32 (g 13) 7 ^^^ g 6) :: w
/-- One round on the words A to H. -/
def sm3Round (w : List Nat) (v : List Nat) (j : Nat) : List Nat :=
  let g (i : Nat) : Nat := v.getD i 0
  let t := if j < 16 then 0x79CC4519 else 0x7A879D8A
  let ss1 := rol32 ((rol32 (g 0) 12 + g 4 + rol32 t j) % 2 ^ 32) 7
  let ff := if j < 16 then g 0 ^^^ g 1 ^^^ g 2 else (g 0 &&& g 1) ||| (g 0 &&& g 2) ||| (g 1 &&& g 2)
  let gg := if j < 16 then g 4 ^^^ g 5 ^^^ g 6 else (g 4 &&& g 5) ||| ((2 ^ 32 - 1 - g 4) &&& g 6)
  let tt1 := (ff + g 3 + (ss1 ^^^ rol32 (g 0) 12) + (w.getD j 0 ^^^ w.getD (j + 4) 0)) % 2 ^ 32
  let tt2 := (gg + g 7 + ss1 + w.getD j 0) % 2 ^ 32
  [tt1, g 0, rol32 (g 1) 9, g 2, sm3P0 tt2, g 4, rol32 (g 5) 19, g 6]
/-- The compression of a block of 64 bytes. -/
def sm3Block (v : List Nat) (b : List Byte) : List Nat :=
  let w := (Nat.repeat sm3Expand 52 ((chunks 4 b).map beNum).reverse).reverse
  List.zipWith (· ^^^ ·) v ((List.range 64).foldl (sm3Round w) v)
/-- R253, R380: the SM3 hash: 32 bytes. -/
def sm3 (d : List Byte) : List Byte :=
  let z := (119 - d.length % 64) % 64
  let m := d ++ [0x80#8] ++ List.replicate z 0#8 ++ beBytes (8 * d.length) 8
  ((chunks 64 m).foldl sm3Block
    [0x7380166F, 0x4914B2B9, 0x172442D7, 0xDA8A0600, 0xA96F30BC, 0x163138AA, 0xE38DEE4D, 0xB0FB0E4E]).flatMap (beBytes · 4)

/-! ### Ciphers (FIPS 197, GB/T 32907) -/

/-- The product in the field of 256 elements with a polynomial of degree 8. -/
def gf8Mul (poly a b : Nat) : Nat :=
  (List.range 8).foldl (fun r i =>
    let d := (2 * r) ^^^ (if r.testBit 7 then poly else 0)
    d ^^^ (if b.testBit (7 - i) then a else 0)) 0
/-- The inverse in that field; 0 of 0. -/
def gf8Inv (poly a : Nat) : Nat := Nat.repeat (fun r => gf8Mul poly r a) 254 1
/-- A byte of 8 bits rotated to the left. -/
def rol8 (x n : Nat) : Nat := ((x <<< n) ||| (x >>> (8 - n))) % 256
/-- An AES S-box value. -/
def aesS (a : Nat) : Nat :=
  let x := gf8Inv 0x11B a
  x ^^^ rol8 x 1 ^^^ rol8 x 2 ^^^ rol8 x 3 ^^^ rol8 x 4 ^^^ 0x63
/-- The affine map of SM4's S-box. -/
def sm4Aff (x : Nat) : Nat :=
  (List.range 8).foldl (fun y i =>
    let m := x &&& rol8 0xA7 i
    y + ((List.range 8).foldl (fun p j => p ^^^ m / 2 ^ j % 2) 0) * 2 ^ i) 0 ^^^ 0xD3
/-- An SM4 S-box value. -/
def sm4S (a : Nat) : Nat := sm4Aff (gf8Inv 0x1F5 (sm4Aff a))
def aesBox : Array Nat := ((List.range 256).map aesS).toArray
def sm4Box : Array Nat := ((List.range 256).map sm4S).toArray
/-- A substitution in each byte of a word. -/
def subWord (box : Array Nat) (x : Nat) : Nat :=
  (List.range 4).foldl (fun y i => y + box.getD (x >>> (8 * i) % 256) 0 * 2 ^ (8 * i)) 0

/-- One step of the AES-256 key expansion: the words so far, latest first, and the round constant. -/
def aesExpand (box : Array Nat) (p : List Nat × Nat) (i : Nat) : List Nat × Nat :=
  let t := p.1.getD 0 0
  let u := if i % 8 = 0 then subWord box (rol32 t 8) ^^^ p.2 * 2 ^ 24 else if i % 8 = 4 then subWord box t else t
  ((p.1.getD 7 0 ^^^ u) :: p.1, if i % 8 = 0 then gf8Mul 0x11B p.2 2 else p.2)
/-- Adds the key of round r to a state of 16 bytes. -/
def aesAddKey (keys : List Nat) (r : Nat) (st : List Nat) : List Nat :=
  st.zipIdx.map fun x => x.1 ^^^ keys.getD (4 * r + x.2 / 4) 0 >>> (8 * (3 - x.2 % 4)) % 256
/-- One AES round on a state of 16 bytes in column order; the last has no mixing. -/
def aesRound (box : Array Nat) (keys : List Nat) (st : List Nat) (r : Nat) : List Nat :=
  let sub := st.map fun x => box.getD x 0
  let sh := (List.range 16).map fun i => sub.getD ((i + 4 * (i % 4)) % 16) 0
  let mixed := if r = 14 then sh else (List.range 16).map fun i =>
    let c := i - i % 4
    let g (k : Nat) : Nat := sh.getD (c + (i + k) % 4) 0
    gf8Mul 0x11B (g 0) 2 ^^^ gf8Mul 0x11B (g 1) 3 ^^^ g 2 ^^^ g 3
  aesAddKey keys r mixed
/-- The words of the AES-256 key expansion. -/
def aesKeys (key : List Byte) : List Nat :=
  (((List.range 52).map (· + 8)).foldl (aesExpand aesBox) (((chunks 4 key).map beNum).reverse, 1)).1.reverse
/-- AES-256: a block of 16 bytes under a key of 32. -/
def aesBlock (key b : List Byte) : List Byte :=
  let keys := aesKeys key
  (((List.range 14).map (· + 1)).foldl (aesRound aesBox keys) (aesAddKey keys 0 (b.map (·.toNat)))).map (BitVec.ofNat 8)
/-- A value of the inverse of the AES S-box. -/
def aesInvS (y : Nat) : Nat := gf8Inv 0x11B (rol8 y 1 ^^^ rol8 y 3 ^^^ rol8 y 6 ^^^ 0x05)
def aesInvBox : Array Nat := ((List.range 256).map aesInvS).toArray
/-- The inverse of an AES round. -/
def aesUnround (box : Array Nat) (keys : List Nat) (st : List Nat) (r : Nat) : List Nat :=
  let k := aesAddKey keys r st
  let u := if r = 14 then k else (List.range 16).map fun i =>
    let g (j : Nat) : Nat := k.getD (i - i % 4 + (i + j) % 4) 0
    gf8Mul 0x11B (g 0) 14 ^^^ gf8Mul 0x11B (g 1) 11 ^^^ gf8Mul 0x11B (g 2) 13 ^^^ gf8Mul 0x11B (g 3) 9
  (List.range 16).map fun i => box.getD (u.getD ((i + 12 * (i % 4)) % 16) 0) 0
/-- AES-256: the block that a block of 16 bytes is the encryption of. -/
def aesOpen (key b : List Byte) : List Byte :=
  let keys := aesKeys key
  (aesAddKey keys 0 (((List.range 14).map (14 - ·)).foldl (aesUnround aesInvBox keys) (b.map (·.toNat)))).map (BitVec.ofNat 8)

/-- SM4: the next word of four; `key` where it expands the key. -/
def sm4Step (box : Array Nat) (key : Bool) (x : List Nat) (k : Nat) : List Nat :=
  let b := subWord box (x.getD 1 0 ^^^ x.getD 2 0 ^^^ x.getD 3 0 ^^^ k)
  let l := if key then b ^^^ rol32 b 13 ^^^ rol32 b 23 else b ^^^ rol32 b 2 ^^^ rol32 b 10 ^^^ rol32 b 18 ^^^ rol32 b 24
  [x.getD 1 0, x.getD 2 0, x.getD 3 0, x.getD 0 0 ^^^ l]
/-- SM4's key constant i. -/
def sm4Ck (i : Nat) : Nat := (List.range 4).foldl (fun y j => 256 * y + (4 * i + j) * 7 % 256) 0
/-- The 32 round keys of SM4. -/
def sm4Keys (key : List Byte) : List Nat :=
  let k0 := List.zipWith (· ^^^ ·) ((chunks 4 key).map beNum) [0xA3B1BAC6, 0x56AA3350, 0x677D9197, 0xB27022DC]
  ((List.range 32).foldl (fun (p : List Nat × List Nat) i =>
    let x := sm4Step sm4Box true p.1 (sm4Ck i)
    (x, x.getD 3 0 :: p.2)) (k0, [])).2.reverse
/-- SM4's rounds on a block of 16 bytes. -/
def sm4With (ks : List Nat) (b : List Byte) : List Byte :=
  (ks.foldl (sm4Step sm4Box false) ((chunks 4 b).map beNum)).reverse.flatMap (beBytes · 4)
/-- SM4: a block of 16 bytes under a key of 16. -/
def sm4Block (key b : List Byte) : List Byte := sm4With (sm4Keys key) b
/-- SM4: the block that a block of 16 bytes is the encryption of. -/
def sm4Open (key b : List Byte) : List Byte := sm4With (sm4Keys key).reverse b

/-! ### GCM (NIST SP 800-38D, R363) -/

/-- R363: the block cipher of an algorithm: SM4 where `alg` holds, else AES-256. -/
def cipherBlock (alg : Bool) (key b : List Byte) : List Byte := if alg then sm4Block key b else aesBlock key b
/-- The product of GCM's field; bit 0 of a block is the most significant of the number. -/
def ghashMul (x y : Nat) : Nat :=
  ((List.range 128).foldl (fun (p : Nat × Nat) i =>
    (if x.testBit (127 - i) then p.1 ^^^ p.2 else p.1, p.2 >>> 1 ^^^ (if p.2.testBit 0 then 0xE1 * 2 ^ 120 else 0))) (0, y)).1
/-- A string filled with zeros to whole blocks of 16 bytes. -/
def pad16 (d : List Byte) : List Byte := d ++ List.replicate ((16 - d.length % 16) % 16) 0#8
/-- GHASH of additional data and ciphertext. -/
def ghash (h : Nat) (a c : List Byte) : Nat :=
  (chunks 16 (pad16 a ++ pad16 c ++ beBytes (8 * a.length) 8 ++ beBytes (8 * c.length) 8)).foldl
    (fun y b => ghashMul (y ^^^ beNum b) h) 0
/-- GCM's counter mode from counter 2. -/
def gcmStream (alg : Bool) (key nonce d : List Byte) : List Byte :=
  ((chunks 16 d).zipIdx.map fun b => xorBytes b.1 (cipherBlock alg key (nonce ++ beBytes (b.2 + 2) 4))).flatten
/-- The 16-byte tag of a ciphertext. -/
def gcmTag (alg : Bool) (key nonce aad c : List Byte) : List Byte :=
  let h := beNum (cipherBlock alg key (List.replicate 16 0#8))
  xorBytes (cipherBlock alg key (nonce ++ beBytes 1 4)) (beBytes (ghash h aad c) 16)
/-- R355, R363: seals a plaintext: the ciphertext, then the 16-byte tag. -/
def gcmSeal (alg : Bool) (key nonce aad d : List Byte) : List Byte :=
  let c := gcmStream alg key nonce d
  c ++ gcmTag alg key nonce aad c
/-- R363: opens a ciphertext with its tag; none where the check fails. -/
def gcmOpen (alg : Bool) (key nonce aad d : List Byte) : Option (List Byte) :=
  if d.length < 16 then none
  else
    let c := d.take (d.length - 16)
    if gcmTag alg key nonce aad c == d.drop (d.length - 16) then some (gcmStream alg key nonce c) else none

/-! ### XTS (IEEE 1619, R379) -/

/-- The inverse of an algorithm's block cipher. -/
def cipherOpen (alg : Bool) (key b : List Byte) : List Byte := if alg then sm4Open key b else aesOpen key b
/-- The next tweak: the product with the primitive element, on the little-endian number. -/
def xtsNext (t : Nat) : Nat := (2 * t) % 2 ^ 128 ^^^ (if t.testBit 127 then 0x87 else 0)
/-- R379: XTS over a data unit of whole blocks, with a cipher under the first half of the key and the tweak under the second. -/
def xtsWith (cipher : List Byte → List Byte → List Byte) (alg : Bool) (key : List Byte) (unit : Nat) (d : List Byte) : List Byte :=
  let half := key.length / 2
  let t0 := ofBytes (cipherBlock alg (key.drop half) (bytesOf unit 16))
  ((chunks 16 d).zipIdx.map fun b =>
    let t := bytesOf (Nat.repeat xtsNext b.2 t0) 16
    xorBytes (cipher (key.take half) (xorBytes b.1 t)) t).flatten
/-- R379: a data unit encrypted, and one decrypted. -/
def xtsSeal (alg : Bool) (key : List Byte) (unit : Nat) (d : List Byte) : List Byte := xtsWith (cipherBlock alg) alg key unit d
def xtsOpen (alg : Bool) (key : List Byte) (unit : Nat) (d : List Byte) : List Byte := xtsWith (cipherOpen alg) alg key unit d

/-! ### SM2 (GB/T 32918, R380, R388) -/

def sm2p : Nat := 0xFFFFFFFEFFFFFFFFFFFFFFFFFFFFFFFFFFFFFFFF00000000FFFFFFFFFFFFFFFF
def sm2b : Nat := 0x28E9FA9E9D9F5E344D5A9E4BCF6509A7F39789F515AB8F92DDBCBD414D940E93
def sm2n : Nat := 0xFFFFFFFEFFFFFFFFFFFFFFFFFFFFFFFF7203DF6B21C6052B53BBF40939D54123
def sm2gx : Nat := 0x32C4AE2C1F1981195F9904466A39C9948FE30BBFF2660BE1715A4589334C74C7
def sm2gy : Nat := 0xBC3736A2F4F6779C59BDCEE36B692153D0A9877CC62A474002DF32E52139F0A0
/-- x to the power e modulo m, for e below 2^256. -/
def powMod (x e m : Nat) : Nat :=
  (List.range 256).foldl (fun r i => let q := r * r % m; if e.testBit (255 - i) then q * x % m else q) 1
/-- The inverse modulo a prime. -/
def invMod (x m : Nat) : Nat := powMod x (m - 2) m
/-- A point of the curve; none is the point at infinity. -/
abbrev Point := Option (Nat × Nat)
/-- The sum of two points. -/
def ptAdd (a b : Point) : Point :=
  match a, b with
  | none, q => q
  | p, none => p
  | some (x1, y1), some (x2, y2) =>
    if x1 = x2 && (y1 + y2) % sm2p = 0 then none
    else
      let l := if x1 = x2 then (3 * x1 * x1 + (sm2p - 3)) * invMod (2 * y1 % sm2p) sm2p % sm2p
        else (y2 + sm2p - y1) * invMod ((x2 + sm2p - x1) % sm2p) sm2p % sm2p
      let x3 := (l * l + 2 * sm2p - x1 - x2) % sm2p
      some (x3, (l * (x1 + sm2p - x3) + sm2p - y1) % sm2p)
/-- A multiple of a point, for k below 2^256. -/
def ptMul (k : Nat) (p : Point) : Point :=
  (List.range 256).foldl (fun r i => let q := ptAdd r r; if k.testBit (255 - i) then ptAdd q p else q) none
/-- The base point. -/
def sm2G : Point := some (sm2gx, sm2gy)
/-- Whether coordinates name a point of the curve. -/
def onCurve (x y : Nat) : Bool := x < sm2p && y < sm2p && (y * y) % sm2p == (x * x * x + (sm2p - 3) * x + sm2b) % sm2p
/-- R380: the number that is signed for a message under a public key, with the default user identifier. -/
def sm2Digest (x y : Nat) (d : List Byte) : Nat :=
  let id := [0x31#8, 0x32#8, 0x33#8, 0x34#8, 0x35#8, 0x36#8, 0x37#8, 0x38#8]
  let z := sm3 (beBytes 128 2 ++ id ++ id ++ beBytes (sm2p - 3) 32 ++ beBytes sm2b 32 ++ beBytes sm2gx 32 ++ beBytes sm2gy 32 ++
    beBytes x 32 ++ beBytes y 32)
  beNum (sm3 (z ++ d))
/-- The coordinates of a 64-byte public key x‖y. -/
def keyPoint (k : List Byte) : Nat × Nat := (beNum (k.take 32), beNum ((k.drop 32).take 32))
/-- The 64-byte public key of a private key. -/
def sm2Public (d : Nat) : List Byte :=
  match ptMul d sm2G with
  | some (x, y) => beBytes x 32 ++ beBytes y 32
  | none => List.replicate 64 0#8
/-- R380: the signature of a string under a private key with the number k, r then s. -/
def sm2SignWith (d k : Nat) (m : List Byte) : List Byte :=
  let q := keyPoint (sm2Public d)
  let x1 := match ptMul k sm2G with | some p => p.1 | none => 0
  let r := (sm2Digest q.1 q.2 m + x1) % sm2n
  let s := invMod (1 + d) sm2n * (k + sm2n * sm2n - r * d) % sm2n
  beBytes r 32 ++ beBytes s 32
/-- R380: whether a signature of a string verifies under a public key. -/
def sm2Check (key m sig : List Byte) : Bool :=
  let q := keyPoint key
  let r := beNum (sig.take 32)
  let s := beNum ((sig.drop 32).take 32)
  let t := (r + s) % sm2n
  sig.length == 64 && onCurve q.1 q.2 && 1 ≤ r && r < sm2n && 1 ≤ s && s < sm2n && t != 0 &&
  (match ptAdd (ptMul s sm2G) (ptMul t (some q)) with
   | some p => (sm2Digest q.1 q.2 m + p.1) % sm2n == r
   | none => false)
/-- R380: the private key of the device. -/
def deviceKey : Nat := Config.deviceFuses % (sm2n - 2) + 1
/-- The key derivation of n bytes. -/
def sm2Kdf (z : List Byte) (n : Nat) : List Byte :=
  ((List.range ((n + 31) / 32)).flatMap fun i => sm3 (z ++ beBytes (i + 1) 4)).take n
/-- R388: the plaintext of C1‖C3‖C2, C1 an uncompressed point, under a private key; none where it fails. -/
def sm2Open (d : Nat) (c : List Byte) : Option (List Byte) :=
  let x := beNum ((c.drop 1).take 32)
  let y := beNum ((c.drop 33).take 32)
  let c3 := (c.drop 65).take 32
  let c2 := c.drop 97
  if c.length < 97 || c.head? != some 0x04#8 || !onCurve x y then none
  else match ptMul d (some (x, y)) with
    | none => none
    | some (x2, y2) =>
      let a := beBytes x2 32
      let b := beBytes y2 32
      let t := sm2Kdf (a ++ b) c2.length
      let m := xorBytes c2 t
      if t.all (· == 0#8) || sm3 (a ++ m ++ b) != c3 then none else some m

end Sys2Proof.Machine
end

