-- ==== Sys2Proof/Machine/Trans.lean ====
section
/-! DEFINITION. Replies to the host (R384, R385), misses, fills and refusals (R337, R344), shootdowns
(R339), memory keys (R378, R379) and page moves (R338, R340). -/

namespace Sys2Proof.Machine

/-! ### Replies to the host (R382, R385) -/

/-- R382: raises an MSI-X vector; one above 63 is counted. -/
def State.interruptHost (s : State) (vec : Nat) : State :=
  if vec < 64 then { s with msix := vec :: s.msix } else s.count 8
/-- R384: fields of a message header. -/
def hdrOp (h : Nat) : Nat := bits h 7 0
def hdrPlen (h : Nat) : Nat := bits h 23 16
def hdrTag (h : Nat) : Nat := bits h 63 32
def hdrV (h : Nat) : Bool := bit h 64
def hdrIrq (h : Nat) : Bool := bit h 71
def hdrVec (h : Nat) : Nat := bits h 79 72
/-- The number in the first 16 bytes of a slot. -/
def slotHeader (d : List Byte) : Nat := ofBytes (d.take 16)
/-- Replaces a slot of a window. -/
def setSlot (v : Vector (List Byte) 32) (i : Nat) (d : List Byte) : Vector (List Byte) 32 := if h : i < 32 then v.set i d else v
/-- R385: writes the reply to a command: a status and result bytes; no command runs any more. -/
def State.replyHost (s : State) (slot h status : Nat) (res : List Byte) : State :=
  let hd := hdrOp h + res.length * 2 ^ 16 + status * 2 ^ 24 + hdrTag h * 2 ^ 32 + 2 ^ 64
  let d := (bytesOf hd 16 ++ res ++ List.replicate 48 0#8).take 64
  let s1 := { s with agent := { s.agent with cmd := none, replySlots := setSlot s.agent.replySlots slot d } }
  if hdrIrq h then s1.interruptHost (hdrVec h) else s1
/-- R385: the command that firmware carries out ends. -/
def State.endCmd (s : State) (status : Nat) (res : List Byte) : State :=
  match s.agent.cmd with
  | some c => s.replyHost c.slot c.header status res
  | none => s

/-! ### Misses (R337, R344) -/

/-- R344: a miss that a walk resolves to a local frame is counted. -/
def State.hotMiss (s : State) (frame c : Nat) : State :=
  let h : Hot := (tabGet s.agent.hot frame).getD {}
  let h1 := if h.count + 1 ≥ 2 ^ 32 then { count := h.count / 2, sx := h.sx / 2, sy := h.sy / 2 } else h
  let h2 : Hot := { count := h1.count + 1, sx := h1.sx + coreX c, sy := h1.sy + coreY c }
  { s with agent := { s.agent with hot := tabSet s.agent.hot frame h2 } }
/-- The k-th outstanding miss of a core is changed. -/
def State.updMiss (s : State) (c k : Nat) (f : Miss → Miss) : State :=
  s.updCore c fun x => { x with tlb := { x.tlb with misses := x.tlb.misses.mapIdx fun i m => if i = k then f m else m } }

/-- R337, R335, R339: the service core walks the k-th miss of a core, of the first eight; it holds a miss to a page in
transition. -/
def execTranslationMiss : State → Host.Outcome State Fault Refusal := fun s =>
  let c := s.ev.core
  let k := s.core c
  match k.tlb.misses[s.ev.k]? with
  | none => .next s
  | some m =>
    if s.ev.k ≥ 8 || m.walked then .next s
    else
      let epoch := ((tabGet s.agent.roots k.tenant).map rootEpoch).getD 0
      let put (f : Option Nat) (s : State) : State := s.updMiss c s.ev.k fun m => { m with walked := true, fill := some f, epoch := epoch }
      match s.walk k.tenant m.va with
      | none => .next (put none s)
      | some (d, _) =>
        if descSt d = 2 || descSt d = 3 then .next s
        else
          if !leafAllows d (AccKind.ofCode m.kind) then .next (put none s)
          else .next (put (some d) (if descKind d = 0 then s.hotMiss (leafTarget d) c else s))

/-- The k-th miss of a core ends with its answer, or is sent again where the answer's epoch is old (R339). -/
def State.endMiss (s : State) (c k : Nat) (m : Miss) : Option State :=
  let t := (s.core c).tlb
  if m.epoch < t.epoch then none
  else some (s.updCore c fun x => { x with tlb := { x.tlb with misses := x.tlb.misses.eraseIdx k } })
/-- R339: a discarded answer's miss is sent again. -/
def Miss.again (m : Miss) : Miss := { m with walked := false, fill := none }

/-- Whether an address lies in the granule of a miss. -/
def Miss.covers (m : Miss) (va : Nat) : Bool := m.va / 2 ^ 16 == va / 2 ^ 16

/-- R337: a request that was to be sent again, and whose translation is refused. -/
def State.refuseRetry (s : State) (r : Req) : State := if r.asked && r.retries then s.setStage r.id .fenced else s
/-- R169, R337: restored load records, and requests to be sent again, whose translation a fill or a refusal decides. -/
def State.retranslate (s : State) (c : Nat) (m : Miss) (ok : Bool) : State :=
  s.reqs.foldl (fun s r =>
    match r.stage, r.who with
    | .untranslated, .fibre i _ =>
      if r.core = c && m.covers r.va then
        if !ok then s.landFlaw r i cNOMAP
        else match (s.core c).translate r.va .read with
          | .hit l => s.updReq r.id fun q => { q with loc := l, stage := .posted }
          | .refused => s.landFlaw r i cNOMAP
          | .miss => s.updCore c fun k => k.addMiss r.va .read
      else s
    | _, _ => if !ok && r.core = c && m.covers r.va then s.refuseRetry r else s) s

/-- R337, R131: a fill reaches a core: the entry is installed and the requesters issue again. -/
def execTranslationFill : State → Host.Outcome State Fault Refusal := fun s =>
  let c := s.ev.core
  match (s.core c).tlb.misses[s.ev.k]? with
  | some m =>
    match m.fill with
    | some (some d) =>
      match s.endMiss c s.ev.k m with
      | none => .next (s.updMiss c s.ev.k Miss.again)
      | some s1 =>
        .next ((s1.updCore c fun k =>
          let t := k.tlb
          let known := t.entries.any fun e => descMatches e.2 m.va && descSize e.2 == descSize d
          let t1 := if known then t else { t with entries := tabSet t.entries t.next d, next := (t.next + 1) % 128 }
          let ready (x : Ctx) : Ctx := if x.st == .translating && m.covers x.missVa then { x with st := .ready, missVa := 0 } else x
          let go (h : Hart) : Hart := if h.missVa.any m.covers then { h with missVa := none } else h
          { k with tlb := t1, ctxs := k.ctxs.map ready, hartU := go k.hartU, hartN := go k.hartN }).retranslate c m true)
    | _ => .next s
  | none => .next s

/-- R337: a hart whose access or fetch is refused. -/
def State.refuseHart (s : State) (c : Nat) (u : Bool) (m : Miss) : State :=
  let h := s.hart c u
  match h.missVa with
  | some va =>
    if m.covers va then
      (s.setHart c u { h with missVa := none }).takeException c u (if h.missKind = 1 then 15 else if h.missKind = 3 then 1 else 13) va
    else s
  | none => s

/-- R337: a refusal reaches a core: Fibres fault with NOMAP, harts take their exception, and Carder commands end
once they have written what comes before (R326). -/
def execTranslationRefusal : State → Host.Outcome State Fault Refusal := fun s =>
  let c := s.ev.core
  match (s.core c).tlb.misses[s.ev.k]? with
  | some m =>
    match m.fill with
    | some none =>
      match s.endMiss c s.ev.k m with
      | none => .next (s.updMiss c s.ev.k Miss.again)
      | some s1 =>
        let stop (x : CdCmd) : CdCmd := match x.missVa with
          | some va => if m.covers va then { x with missVa := none, refused := some va } else x
          | none => x
        let s2 := s1.updCore c fun k => { k with carderU := k.carderU.map stop, carderN := k.carderN.map stop }
        let s3 := (List.range 32).foldl (fun s i =>
          let x := s.ctx c i
          if x.st == .translating && m.covers x.missVa then s.takeFault c i cNOMAP x.missVa else s) s2
        .next (((s3.refuseHart c true m).refuseHart c false m).retranslate c m false)
    | _ => .next s
  | none => .next s

/-! ### Shootdowns (R339) -/

/-- R333, R339: firmware raises a tenant's epoch. -/
def State.raiseEpoch (s : State) (tenant : Nat) : State :=
  match tabGet s.agent.roots tenant with
  | some r => { s with agent := { s.agent with roots := tabSet s.agent.roots tenant (setBits r 32 32 (rootEpoch r + 1)) } }
  | none => s
/-- The cores of a tenant's fence rectangles. -/
def State.tenantCores (s : State) (tenant : Nat) : List Nat :=
  (List.range numCores).filter fun c => match s.fenceOf c with | some f => f.tenant == tenant | none => false
/-- R339 steps 1 and 2: a shootdown of a page begins; the gateways of IO0 and IO1 are numbered after the cores. -/
def State.startShoot (s : State) (l : Leaf) (size : Nat) (move : Bool) : State :=
  let s1 := s.raiseEpoch l.tenant
  let e := ((tabGet s1.agent.roots l.tenant).map rootEpoch).getD 0
  let q : Shoot := { leaf := l, size := size, epoch := e, await := s1.tenantCores l.tenant ++ [numCores, numCores + 1], move := move }
  { s1 with agent := { s1.agent with shoots := s1.agent.shoots ++ [q] } }

/-- Whether a buffer entry translates part of a page. -/
def Shoot.hits (q : Shoot) (d : Nat) : Bool :=
  let lo := descVtag d * 2 ^ 16
  q.leaf.va % 2 ^ 59 < lo + 2 ^ pageShift (descSize d) && lo < q.leaf.va % 2 ^ 59 + q.size
/-- R339 step 3: whether a load, atomic or fetch of a core that used the page's translation is outstanding; an operation
that its home has refused with BUSY is not, nor is one that R280 still holds back where the page moves: it goes to the
destination. -/
def State.usesPage (s : State) (c : Nat) (q : Shoot) : Bool :=
  let inPage (va : Nat) : Bool := q.leaf.va ≤ va && va < q.leaf.va + q.size
  (s.reqs.any fun r => r.core == c && inPage r.va &&
    (match r.op with | .write .. => false | .fe .. => false | .jc .. => false | _ => true) &&
    (match r.stage with | .busy _ => false | .waiter => false | .untranslated => false | .held => !q.move || s.onWay r | _ => true)) ||
  ((s.core c).blocks.any fun b => b.data.isNone && b.failed.isNone && inPage b.addr)
/-- R339 step 3: an invalidate reaches a gateway or a core, which removes the entries, records the epoch, and answers once nothing that
used them is outstanding. -/
def execShootdownInvalidate : State → Host.Outcome State Fault Refusal := fun s =>
  let c := s.ev.core
  match s.agent.shoots.find? fun q => q.await.contains c with
  | none => .next s
  | some q =>
    let clean (g : Gate) : Gate := { g with entries := g.entries.filter fun e => e.2.1 != q.leaf.tenant || !q.hits e.2.2 }
    let s1 := if c ≥ numCores then s.setGate (c - numCores) (clean (s.pod.gate (c - numCores))) else s.updCore c fun k =>
      { k with tlb := { k.tlb with entries := k.tlb.entries.filter fun e => !q.hits e.2, epoch := max k.tlb.epoch q.epoch } }
    if s1.usesPage c q then .next s1
    else
      .next { s1 with agent := { s1.agent with shoots := s1.agent.shoots.map fun p =>
        if p == q then { q with await := q.await.filter (· != c) } else p } }

/-- R339 step 4: a shootdown whose answers have all arrived is complete: its move goes on, or the removal is replied to. -/
def execShootdownComplete : State → Host.Outcome State Fault Refusal := fun s =>
  match s.agent.shoots.find? fun q => q.await.isEmpty with
  | none => .next s
  | some q =>
    let s1 := { s with agent := { s.agent with shoots := s.agent.shoots.filter fun p => p != q } }
    if q.move then
      .next { s1 with agent := { s1.agent with moves := s1.agent.moves.map fun m =>
        if m.leaf = q.leaf then { m with shot := true } else m } }
    else .next (s1.endCmd 0 [])

/-! ### Memory keys (R378, R379) -/

/-- R378: the first key slot that is loaded for a tenant (notes/assumptions/14.md). -/
def Agent.keySlot (a : Agent) (t : Nat) : Option Nat := (a.keys.find? fun k => k.2.ld && k.2.tenant == t).map (·.1)
/-- R379: the slot that encrypts the frame at a PMA; slot 0 where no tenant owns it. -/
def Agent.slotAt (a : Agent) (p : Nat) : Nat :=
  match a.frames.find? fun f => f.1 ≤ p && p < f.1 + 2 ^ pageShift f.2.size with
  | some f => f.2.slot
  | none => 0
/-- R378: a slot's algorithm and key; slot 0 holds the firmware key. -/
def Agent.dataKey (a : Agent) (n : Nat) : Bool × List Byte :=
  if n = 0 then Config.firmwareKey else
    let k := (tabGet a.keys n).getD {}
    (k.alg, k.key)
/-- R379: how the bytes of a data unit read once the keys of `new` hold, where they read d under those of `old`. -/
def recrypt (old new : Agent) (u : Nat) (d : List Byte) : List Byte :=
  let i := old.slotAt (64 * u)
  let j := new.slotAt (64 * u)
  if i = j then d
  else xtsOpen (new.dataKey j).1 (new.dataKey j).2 u (xtsSeal (old.dataKey i).1 (old.dataKey i).2 u d)
/-- R379: what n bytes at a read after their slots have changed from those of `old`. -/
def State.rekey (s : State) (old : Agent) (a n : Nat) : State :=
  { s with mem := s.mem.mapUnits a n (recrypt old s.agent) }

/-! ### Page moves (R338, R340) -/

/-- Writes fields of a descriptor in its table. -/
def State.setDesc (s : State) (a : Nat) (f : Nat → Nat) : State := s.storeAt (.pma a) (bytesOf (f (s.mem.num a 16)) 16) none
/-- R338: writes st of a descriptor. -/
def State.setPageSt (s : State) (a st : Nat) : State := s.setDesc a fun d => setBits d 8 3 st
/-- R340 steps 1 to 3: a move begins. -/
def State.startMove (s : State) (l : Leaf) (src dst size : Nat) (retiring byHost : Bool) : State :=
  let s1 := s.setPageSt l.desc (if retiring then 3 else 2)
  let m : PageMove := { leaf := l, src := src, dst := dst, size := size, retiring := retiring, byHost := byHost }
  ({ s1 with agent := { s1.agent with moves := s1.agent.moves ++ [m] } } : State).startShoot l size true

/-- R340 step 4: a waiter of the source moves to the destination's table, or is answered WAITFULL. -/
def State.moveWaiter (s : State) (m : PageMove) (r : Req) : State :=
  match r.loc with
  | .pma a =>
    if r.stage == .waiter && m.src ≤ a && a < m.src + m.size then
      let l := Loc.pma (a - m.src + m.dst)
      let other := (s.reqs.filter fun q => q.stage == .waiter && q.loc.table == l.table && q.loc.table != r.loc.table).length
      if l.table == r.loc.table || other < 4096 then s.updReq r.id fun r => { r with loc := l }
      else s.updReq r.id fun r => { r with loc := l, stage := .waitFull (s.core r.core).counter }
    else s
  | _ => s
/-- R340, R341: a request that has the source's address when the leaf names the destination: one that changes memory and is
on its way reaches the source before that, and is refused; any other goes to the destination. -/
def State.moveReq (s : State) (m : PageMove) (r : Req) : State :=
  match r.loc, r.stage with
  | .pma a, .posted => if m.src ≤ a && a < m.src + m.size then move r a (s.onWay r) else s
  | .pma a, .held => if m.src ≤ a && a < m.src + m.size then move r a (s.onWay r) else s
  | _, _ => s
where
  /-- The request at its new place. -/
  move (r : Req) (a : Nat) (sent : Bool) : State :=
    let reads := match r.op with | .read .. => true | .hartRead .. => true | .lr _ => true | _ => false
    if reads || !sent then s.updReq r.id fun r => { r with loc := .pma (a - m.src + m.dst) }
    else s.setStage r.id (.busy (s.core r.core).counter)

/-- R342: where a location is after a move. -/
def PageMove.moved (m : PageMove) (l : Loc) : Loc :=
  match l with
  | .pma a => if m.src ≤ a && a < m.src + m.size then .pma (a - m.src + m.dst) else l
  | _ => l
/-- R342: the stores that a signed block holds back go to the destination. -/
def PageMove.signed (m : PageMove) (k : Core) : Core :=
  let go (h : HeldStore) : HeldStore := { h with ps := h.ps.map fun p => (p.1, p.2.1, m.moved p.2.2) }
  { k with ctxs := k.ctxs.map fun x => { x with signed := x.signed.map fun g => { g with stores := g.stores.map go } } }
/-- R286, R340 steps 4 to 6, R342, R343: the copier moves the frame of the first move whose shootdown is complete; the page keeps its
hotness record. -/
def execPageCopyComplete : State → Host.Outcome State Fault Refusal := fun s =>
  match s.agent.moves.find? fun m => m.shot with
  | none => .next s
  | some m =>
    let s1 : State := { s with mem := s.mem.copyFrame m.src m.dst m.size
                               resvs := s.resvs.map fun r => { r with loc := m.moved r.loc }
                               cores := s.cores.map fun (k : Nat × Core) => (k.1, m.signed k.2) }
    let s2 := s1.reqs.foldl (fun s r => (s.moveWaiter m r).moveReq m r) s1
    let a := s2.agent
    let f : Frame := (tabGet a.frames m.src).getD {}
    let s3 : State := { s2 with agent := { a with
      moves := a.moves.filter fun n => n != m
      frames := tabSet (tabErase a.frames m.src) m.dst { size := f.size, owner := f.owner, slot := f.slot, leaf := some m.leaf }
      hot := match tabGet a.hot m.src with
        | some h => tabSet (tabErase a.hot m.src) m.dst h
        | none => tabErase a.hot m.dst
      retired := if m.retiring then a.retired ++ [(m.src, m.size)] else a.retired } }
    let s4 := (s3.rekey a m.src m.size).setDesc m.leaf.desc fun d => setBits (setBits d 64 52 (m.dst / 2 ^ 16)) 8 3 1
    .next (if m.byHost then s4.endCmd 0 [] else { s4 with pldm := 3 :: s4.pldm })

/-- R338: the frame that holds a PMA: its base and record. -/
def State.frameAt (s : State) (a : Nat) : Option (Nat × Frame) :=
  s.agent.frames.find? fun f => f.1 ≤ a && a < f.1 + 2 ^ pageShift f.2.size
/-- Replaces a frame's record. -/
def State.setFrame (s : State) (a : Nat) (f : Frame) : State := { s with agent := { s.agent with frames := tabSet s.agent.frames a f } }

/-- R338: whether a frame meets one that is retired. -/
def State.isRetired (s : State) (a n : Nat) : Bool := s.agent.retired.any fun r => a < r.1 + r.2 && r.1 < a + n
/-- R338: a MAPPED frame with 16 corrected errors retires to a frame of the pool; with an empty pool it is counted
once (R413), and keeps its count. -/
def execCorrectedErrorLimit : State → Host.Outcome State Fault Refusal := fun s =>
  match s.frameAt s.ev.k with
  | none => .next s
  | some (a, f) =>
    match f.leaf with
    | none => .next s
    | some l =>
      if f.corrected < 16 || descSt (s.mem.num l.desc 16) ≠ 1 then .next s
      else
        match s.agent.pool.find? fun p => p.2 == f.size && !s.isRetired p.1 (2 ^ pageShift p.2) with
        | none => .next (if f.reported then s else (s.setFrame a { f with reported := true }).count 5)
        | some p =>
          let s1 := s.setFrame a { f with corrected := 0 }
          let s2 := { s1 with agent := { s1.agent with pool := s1.agent.pool.erase p } }
          .next (s2.startMove l a p.1 (2 ^ pageShift f.size) true false)

/-- R338: a frame with uncorrectable errors in more than 64 granules is POISONED; an unfinished move is abandoned. -/
def execFramePoisoned : State → Host.Outcome State Fault Refusal := fun s =>
  match s.frameAt s.ev.k with
  | none => .next s
  | some (a, f) =>
    match f.leaf with
    | none => .next s
    | some l =>
      let st := descSt (s.mem.num l.desc 16)
      if f.poisoned.length ≤ 64 || st = 0 || st = 4 then .next s
      else
        let s1 := (s.setFrame a { f with poisoned := [] }).setPageSt l.desc 4
        match s.agent.moves.find? fun m => m.src == a with
        | none => .next { s1 with pldm := 2 :: s1.pldm }
        | some m =>
          let s2 := { s1 with
            pldm := 2 :: s1.pldm
            agent := { s1.agent with
              moves := s1.agent.moves.filter fun n => n != m
              shoots := s1.agent.shoots.filter fun q => q.leaf != m.leaf
              pool := if m.retiring then s1.agent.pool ++ [(m.dst, f.size)] else s1.agent.pool } }
          .next (if m.byHost then s2.endCmd 5 [] else s2)

end Sys2Proof.Machine
end

