-- ==== Sys2Proof/Machine/Kernel.lean ====
section
/-! DEFINITION. Host commands as the firmware takes them (R384, R385), and kernels: images and records (R232, R233), launch
(R234 to R237), placement and set-up (R238 to R241), start (R242, R243), sweeps and end (R247 to R253). -/

namespace Sys2Proof.Machine

/-! ### Taking a host command (R384, R385) -/

/-- R384: the slot, header and payload of the command that the firmware may take next. -/
def State.nextCmd (s : State) : Option (Nat × Nat × List Byte) :=
  let a := s.agent
  let i := a.nextSlot
  let d := a.cmdSlots.toList.getD i []
  let r := a.replySlots.toList.getD i []
  if a.cmd.isNone && hdrV (slotHeader d) && !hdrV (slotHeader r) then some (i, slotHeader d, d.drop 16) else none
/-- R385: whether a command has a payload above 48 bytes, a nonzero reserved field, or a nonzero byte beyond its payload. -/
def cmdBad (h : Nat) (p : List Byte) : Bool :=
  hdrPlen h > 48 || bits h 127 80 != 0 || bits h 70 65 != 0 || bits h 15 8 != 0 || (p.drop (hdrPlen h)).any (· != 0#8)
/-- A number in the payload of a command. -/
def cmdNum (p : List Byte) (o n : Nat) : Nat := ofBytes ((p.drop o).take n)
/-- R6: whether a byte of the payload outside the named ranges is nonzero. -/
def cmdSpare (named : List (Nat × Nat)) (p : List Byte) : Bool :=
  p.zipIdx.any fun b => b.1 != 0#8 && !named.any fun r => r.1 ≤ b.2 && b.2 < r.1 + r.2
/-- R384: the firmware takes the command of slot i, whose V it clears. -/
def State.takeSlot (s : State) (i : Nat) : State :=
  let a := s.agent
  let d := a.cmdSlots.toList.getD i []
  let d1 := d.zipIdx.map fun b => if b.2 = 8 then b.1 &&& 0xFE#8 else b.1
  { s with agent := { a with cmdSlots := setSlot a.cmdSlots i d1, nextSlot := (i + 1) % 32 } }
/-- R385, R386: the row of one command: it takes the next slot where op and payload are its own, replies BADCMD where a
reserved field or byte is nonzero, and acts else. -/
def cmdRow (mine : Nat → List Byte → Bool) (named : List (Nat × Nat))
    (act : State → Nat → Nat → List Byte → State) : State → Host.Outcome State Fault Refusal := fun s =>
  match s.nextCmd with
  | none => .next s
  | some (i, h, p) =>
    if !mine (hdrOp h) p || hdrPlen h > 48 then .next s
    else
      let s1 := s.takeSlot i
      if cmdBad h p || cmdSpare named p then .next (s1.replyHost i h 1 [])
      else .next (act s1 i h p)
/-- R385: statuses. -/
def stOK : Nat := 0
def stBADARG : Nat := 2
def stREFUSED : Nat := 3
def stNOKEY : Nat := 4
def stFAILED : Nat := 5
/-- Starts a command that replies later. -/
def State.runCmd (s : State) (i h : Nat) (p : List Byte) (wait arg : Nat) : State :=
  { s with agent := { s.agent with cmd := some { slot := i, header := h, payload := p, wait := wait, arg := arg } } }

/-! ### Images and records (R232, R233) -/

/-- A number in the launch record. -/
def Kernel.recN (k : Kernel) (o n : Nat) : Nat := ofBytes ((k.record.drop o).take n)
/-- A number in the image. -/
def Kernel.imgN (k : Kernel) (o n : Nat) : Nat := ofBytes ((k.image.drop o).take n)
def Kernel.tenant (k : Kernel) : Nat := k.recN 38 2
def Kernel.base (k : Kernel) : Nat := k.recN 16 8
def Kernel.size (k : Kernel) : Nat := k.recN 24 8
def Kernel.linkBase (k : Kernel) : Nat := k.recN 0 8
def Kernel.isUrgent (k : Kernel) : Bool := bit (k.imgN 6 1) 0
def Kernel.preemptible (k : Kernel) : Bool := bit (k.imgN 6 1) 1
def Kernel.exclusive (k : Kernel) : Bool := bit (k.imgN 6 1) 2
/-- R232: the scratchpad footprint F. -/
def Kernel.footprint (k : Kernel) : Nat := if k.imgN 12 4 = 0 then 524288 else k.imgN 12 4
/-- R232: a ring size from its code. -/
def ringOf (c : Nat) : Nat := if c = 0 then 0 else 2 ^ (c - 1)
def Kernel.su (k : Kernel) : Nat := ringOf (k.imgN 16 1)
def Kernel.sn (k : Kernel) : Nat := ringOf (k.imgN 17 1)
/-- R232: the handler records: channel and entry. -/
def Kernel.handlers (k : Kernel) : List (Nat × Nat) :=
  (List.range (k.imgN 18 2)).map fun i => (k.imgN (k.imgN 72 8 + 40 * i) 2, k.imgN (k.imgN 72 8 + 40 * i + 8) 32)
/-- R238: the levels that a kernel holds (notes/assumptions/40.md). -/
def Kernel.holds (k : Kernel) (u : Bool) : Bool :=
  if u then k.isUrgent || k.handlers.any fun h => entLvl h.2 else !k.isUrgent
/-- R244, R242: the level of the start message. -/
def Kernel.startLevel (k : Kernel) : Bool := k.handlers.any fun h => h.1 == 0 && entLvl h.2
/-- R237: whether n bytes at an offset lie in the image. -/
def Kernel.inImage (k : Kernel) (o n : Nat) : Bool := o + n ≤ k.image.length

/-- R237 step 1. -/
def Kernel.badRecord (k : Kernel) : Bool :=
  let z (o n : Nat) : Bool := k.recN o n != 0
  z 76 4 || z 108 28 || bits (k.recN 32 1) 7 4 != 0 || bits (k.recN 35 1) 7 2 != 0 ||
  ((List.range 8).any fun i => z (197 + 8 * i) 3) || k.recN 33 1 == 0 || k.recN 33 1 > 8 || k.recN 34 1 > 4 ||
  k.recN 56 8 % 64 != 0 || k.recN 64 8 % 64 != 0 || k.base + k.size > 2 ^ 60 || (capExp k.base (k.base + k.size)).isNone

/-- R237 step 2: what is wrong with a handler record. -/
def Kernel.badHandler (k : Kernel) (ch e : Nat) : Bool :=
  let t := entTarget e
  let u := entLvl e
  let (b, top, pm) := capDecode (entRoot e)
  (5 ≤ ch && ch ≤ 15) || ch > 1023 || (ch == 1 && t != 1 && t != 2) || (t == 1 && !u) || (t == 2 && u) ||
  (k.isUrgent && !u) || (k.preemptible && u) ||
  (entRT e && ((capExp b top).isNone || b < k.base || top > k.base + k.size || (pm % 16) &&& k.recN 32 1 != pm % 16))

/-- R237 step 2. DESIGN CHOICE (notes/assumptions/109.md): also where the image is shorter than its header, the Fibre section is
not made of whole 64-byte blocks, or a handler record names a channel above 1,023. -/
def Kernel.badImage (k : Kernel) : Bool :=
  let sect (o n : Nat) : Bool := !k.inImage (k.imgN o 8) n
  let sp := k.linkBase + k.imgN 24 8
  k.image.length < 128 || k.imgN 0 4 != 0x4A5A4B49 || k.imgN 4 2 != 1 || k.imgN 96 8 != k.linkBase ||
  sect 24 (k.imgN 32 8) || sect 40 (k.imgN 48 8) || sect 56 (k.imgN 64 8) || sect 72 (40 * k.imgN 18 2) || sect 80 (64 * k.imgN 20 2) ||
  sp < k.base || sp + k.imgN 32 8 > k.base + k.size || k.imgN 40 8 % 64 != 0 || k.imgN 48 8 % 64 != 0 ||
  k.imgN 12 4 % 4096 != 0 || k.imgN 12 4 > 524288 || k.imgN 7 1 > 16 || k.imgN 16 1 > 17 || k.imgN 17 1 > 17 ||
  k.su + k.sn > 65536 || k.imgN 20 2 > 64 || !(k.handlers.any fun h => h.1 == 0) ||
  (k.exclusive && !k.isUrgent) || bits (k.imgN 6 1) 7 3 != 0 || k.handlers.any fun h => k.badHandler h.1 h.2

/-- R330: the location of a byte of the shared space under a tenant's tables. -/
def State.sharedLoc (s : State) (tenant va : Nat) : Option Loc :=
  match s.walk tenant va with
  | some (d, _) => if descSt d = 1 || descSt d = 2 || descSt d = 3 then some (leafLoc d va) else none
  | none => none
/-- Bytes of the shared space as the firmware reads them, 64 KiB at a time; those of another package are free values. None
where a page is not mapped or a byte is poisoned. -/
def State.readShared (s : State) (tenant va n : Nat) : Nat → Option (List Byte)
  | 0 => some []
  | fuel + 1 =>
    if n = 0 then some []
    else
      let m := min n (65536 - va % 65536)
      match s.sharedLoc tenant va with
      | none => none
      | some l =>
        if l.isLocal && s.poisonedAt l m then none
        else
          let d := if l.isLocal then s.readAt l m else bytesOf (Config.free (2 ^ 128 * (s.frees + 1) + va)) m
          (s.readShared tenant (va + m) (n - m) fuel).map (d ++ ·)

/-! ### Kernels of the agent -/

def State.kernel (s : State) (kid : Nat) : Option Kernel := s.agent.kernels.find? fun k => k.kid == kid
def State.updKernel (s : State) (kid : Nat) (f : Kernel → Kernel) : State :=
  { s with agent := { s.agent with kernels := s.agent.kernels.map fun k => if k.kid = kid then f k else k } }
def Kernel.isOver (k : Kernel) : Bool := k.st == .ended || k.st == .failed
/-- R233, R234, R386: LAUNCH reads the record, and its kernel is in CHECKING. An ended kernel whose identifier comes round
again gives it up. -/
def execLaunch : State → Host.Outcome State Fault Refusal :=
  cmdRow (fun op _ => op == 1) [(0, 8)] fun s i h p =>
    let a := cmdNum p 0 8
    if a % 64 ≠ 0 then s.replyHost i h stBADARG []
    else
      let n := (s.agent.launches + 1) % 2 ^ 24
      let kid := s.pkg * 2 ^ 24 + n
      let k : Kernel := {
        kid := kid, recordAddr := a, record := s.host.read a 256, arrivedAt := s.agent.counter
        argsBad := s.host.poisoned 64 (a + 136) 56 }
      let old (j : Kernel) : Kernel := if j.isOver && j.kid = kid then { j with kid := 2 ^ 32 } else j
      ({ s with agent := { s.agent with launches := n, kernels := s.agent.kernels.map old ++ [k] } } : State).replyHost i h stOK (bytesOf kid 4)

/-! ### Release (R251) -/

/-- Aborted waits of a context: a waiter of the scratchpad leaves, one elsewhere is cancelled (R162, R255). -/
def State.abortWaits (s : State) (c i : Nat) : State :=
  let inc := (s.ctx c i).inc.toNat
  { s with reqs := s.reqs.filterMap fun r =>
      let waits := match r.op with | .fe .. => true | .jc .wait _ _ => true | _ => false
      if r.core == c && r.who == .fibre i inc && waits then
        if r.loc.isSpad then none else some (if r.cancelAns.isNone then { r with cancel := true } else r)
      else some r }
/-- R251: a hart becomes FREE. -/
def Hart.release (h : Hart) : Hart :=
  { h with st := .free, wait := .none, pend := none, naming := false, missVa := none, faultSeq := none, icache := [] }
/-- R251: the level of a core is released: contexts, harts, Skeins and engine commands of the level, its entries, identity
and counters. -/
def Core.releaseLevel (k : Core) (u : Bool) : Core :=
  let k1 := (List.range 32).foldl (fun k i =>
    let x := k.ctx i
    if x.st != .free && x.lvl == u then k.setCtx i x.freed else k) k
  let k2 := { (k1.setHart u (k1.hart u).release).setCdQueue u [] with
    skeins := k1.skeins.map fun (h : Option Skein) => h.filter fun sk => sk.urgent != u
    residents := k1.residents.filter fun r => r.lvl != u
    handlers := k1.handlers.filter fun e => entLvl e.2.toNat != u
    checker := k1.checker.filter fun i => (k1.ctx i).st != CtxSt.free
    tw := if k1.tw.openB && k1.tw.ownerU == u then { k1.tw.clearLatches with openB := false, ownerU := false, cmd := none } else k1.tw }
  let k3 := { k2 with tw := { k2.tw with saving := k2.tw.saving.filter (· != u) } }
  (if u then { k3 with idU := {}, sentU := 0, recvU := 0, suSize := 0 }
   else { k3 with idN := {}, sentN := 0, recvN := 0, snSize := 0, level := .live, saved := [], cdSeqs := [], cdEnds := [], saveArea := none }).dropBlocks.wake
/-- R251: what the levels of a core share is zeroed. -/
def Core.releaseShared (k : Core) (f : Nat) : Core :=
  { k with shape := [], hanks := Vector.replicate 16 0#128, boxes := Vector.replicate 16 {}, spad := k.spad.zeroBelow f }
/-- R181, R239: whether a kernel has overflow areas; the ring sizes and the overflow area that it gives core c: the areas stand
in the order of its cores, a core's save area before its overflow area. -/
def Kernel.ringBytes (k : Kernel) : Nat := roundUp ((k.su + k.sn) * 272) 64
def Kernel.ringsOf (k : Kernel) (c : Nat) (x : Core) : Core :=
  let n := (if k.preemptible then 1 else 0) + (if k.ringBytes ≠ 0 then 1 else 0)
  { x with
    suSize := k.su, snSize := k.sn
    overflow := if k.ringBytes = 0 then none else (k.areas[n * k.cores.idxOf c + n - 1]?).map (·.1) }
/-- R181, R251: the rings of core c once an urgent kernel is released above a saved one: those of the saved kernel (notes/assumptions/97.md). -/
def State.ringsBack (s : State) (c : Nat) (x : Core) : Core :=
  match x.idN.kernel.bind s.kernel with
  | some j => if x.level == .saved && x.idU.kernel.isNone then j.ringsOf c x else x
  | none => x
/-- R251: a launch agent releases a kernel on a core. What the levels share stays where another kernel uses it. -/
def State.releaseCore (s : State) (k : Kernel) (c : Nat) : State :=
  let held (u : Bool) : Bool := ((s.core c).ident u).kernel == some k.kid
  let old := s.core c
  let s1 := (List.range 32).foldl (fun s i => if (s.ctx c i).st != .free && held (s.ctx c i).lvl then s.abortWaits c i else s) s
  let drop (u : Bool) (x : Core) : Core := if held u then x.releaseLevel u else x
  let other := (old.level == .saved || old.level == .restoring) && !held true && old.idU.kernel.isSome
  let s2 := s1.updCore c fun x =>
    let y := drop false (drop true x)
    let z := if other || !(held true || held false) then y else y.releaseShared k.footprint
    if y.idU.kernel.isNone && y.idN.kernel.isNone then { z with overflow := none } else if held true then s1.ringsBack c z else z
  let s3 := s2.exitGone old.residents c
  if held false then s3.refuseLate c else s3

/-- R380: the 64-byte signature of the device. -/
def sign64 (d : List Byte) : List Byte := sm2SignWith deviceKey (Config.signNonce d % (sm2n - 1) + 1) d
/-- R380: the hash of the running firmware. -/
def State.firmwareHash (s : State) : List Byte := sm3 (s.agent.firmware.getD Config.firmwareImage)
/-- R380: the device identity. -/
def deviceIdentity : List Byte := sm3 (sm2Public deviceKey)

/-- R252: the completion record. -/
def Kernel.completion (k : Kernel) (now : Nat) : List Byte :=
  let l := k.last.getD { sent := 0, recv := 0, idle := false }
  bytesOf k.kid 4 ++ bytesOf k.status 1 ++ bytesOf k.badPlace 1 ++ bytesOf 0 2 ++ bytesOf l.sent 8 ++ bytesOf l.recv 8 ++
  bytesOf k.sweeps 8 ++ bytesOf k.arrivedAt 8 ++ bytesOf now 8 ++ bytesOf 0 16
/-- R253: the job record. -/
def Kernel.jobRecord (k : Kernel) (s : State) : List Byte :=
  let l := k.last.getD { sent := 0, recv := 0, idle := false }
  let d := bytesOf 0x4A5A4A52 4 ++ bytesOf 1 2 ++ bytesOf k.tenant 2 ++ bytesOf k.kid 4 ++ bytesOf k.status 1 ++ bytesOf 0 3 ++
    bytesOf l.sent 8 ++ bytesOf l.recv 8 ++ s.firmwareHash ++ k.hash ++ deviceIdentity ++ bytesOf k.arrivedAt 8 ++
    bytesOf s.agent.counter 8 ++ bytesOf 0 48
  d ++ sign64 d
/-- Bytes into host memory. -/
def State.toHost (s : State) (a : Nat) (d : List Byte) : State := s.storeAt (.host a) d none

/-- R235: a kernel takes its last state, with a status and the placement that failed. -/
def State.closeKernel (s : State) (kid status place : Nat) : State :=
  match s.kernel kid with
  | none => s
  | some k =>
    if k.isOver then s
    else
      let s1 := s.updKernel kid fun k => { k with
        st := if status = 0 then .ended else .failed, status := status, badPlace := place, starts := [], part := none }
      if k.guest then s1
      else { s1 with agent := { s1.agent with outcomes := ((kid, status != 0) :: s1.agent.outcomes).take 1024 } }
/-- R252, R253: the home agent writes the records of a kernel that is over, and interrupts the host where the record asks. -/
def State.writeRecords (s : State) (k : Kernel) : State :=
  if k.guest then s
  else
    let s1 := if k.loaded then s.toHost (k.recN 64 8) (k.jobRecord s) else s
    let s2 := s1.toHost (k.recN 56 8) (k.completion s1.agent.counter)
    if bit (k.recN 35 1) 0 then s2.interruptHost (k.recN 36 2) else s2
/-- R243, R251, R252: the cores of a kernel that is over are released, its areas returned, and its records written. -/
def State.release (s : State) (kid : Nat) : State :=
  match s.kernel kid with
  | none => s
  | some k =>
    if !k.isOver then s
    else
      let s1 := k.cores.foldl (fun s c => s.releaseCore k c) s
      (s1.updKernel kid fun k => { k with cores := [], areas := [] }).writeRecords { k with cores := [], areas := [] }
/-- R235, R251, R252, R392: a kernel ends or fails with a status. What it leaves on its cores is released in the turn that comes
next; a kernel without cores has its records written at once (notes/assumptions/110.md). -/
def State.finishKernel (s : State) (kid status place : Nat) : State :=
  match s.kernel kid with
  | none => s
  | some k =>
    if k.isOver then s
    else
      let s1 := s.closeKernel kid status place
      if k.cores.isEmpty then s1.release kid else { s1 with turns := .release kid :: s1.turns }

/-! ### Checking, prerequisites (R235 to R237, R253) -/

/-- R236: the kernels that arrived before a kernel. -/
def State.earlier (s : State) (k : Kernel) : List Kernel := s.agent.kernels.takeWhile fun j => j.kid != k.kid
/-- R235 to R237, R253: the record and the image are checked in the order of arrival, and the image hashed. DESIGN CHOICE
(notes/assumptions/109.md): the length is the record's (bytes 8 to 15); the header's own length (bytes 88 to 95) is not read. -/
def execLaunchCheck : State → Host.Outcome State Fault Refusal := fun s =>
  match s.kernel s.ev.k with
  | none => .next s
  | some k =>
    if k.st != .checking || (s.earlier k).any (fun j => j.st == .checking) then .next s
    else if k.badRecord then .next (s.finishKernel k.kid 1 0xFF)
    else
      let n := k.recN 8 8
      let s1 := { s with frees := s.frees + 1 }
      match s.readShared k.tenant k.linkBase n (n / 65536 + 2) with
      | none => .next (s1.finishKernel k.kid 2 0xFF)
      | some d =>
        let k1 := { k with image := d, hash := sm3 d, st := .blocked }
        if k1.badImage then .next (s1.finishKernel k.kid 2 0xFF) else .next (s1.updKernel k.kid fun _ => k1)

/-- R233: the placements of a kernel. -/
def Kernel.placesOf (k : Kernel) : List Place :=
  (List.range (k.recN 33 1)).map fun i =>
    let o := 192 + 8 * i
    let w := k.recN (o + 3) 1
    let h := k.recN (o + 4) 1
    let d := w == 0 || h == 0
    { pkg := k.recN o 1, x0 := k.recN (o + 1) 1, y0 := k.recN (o + 2) 1
      w := if d then k.imgN 8 2 else w, h := if d then k.imgN 10 2 else h }
/-- R233: the prerequisites of a kernel. -/
def Kernel.prereqs (k : Kernel) : List Nat := (List.range (k.recN 34 1)).map fun i => k.recN (40 + 4 * i) 4
/-- R236: whether a prerequisite has failed, or has ended. -/
def State.prereqFailed (s : State) (p : Nat) : Bool := s.agent.outcomes.any fun o => o.1 == p && o.2
def State.prereqRuns (s : State) (p : Nat) : Bool := s.agent.kernels.any fun k => k.kid == p && !k.isOver && !k.guest
/-- R235, R236: a BLOCKED kernel goes on once every prerequisite has ended, or fails with one of them. -/
def execPrerequisitesEnded : State → Host.Outcome State Fault Refusal := fun s =>
  match s.kernel s.ev.k with
  | none => .next s
  | some k =>
    if k.st != .blocked then .next s
    else if bit (k.recN 35 1) 1 && k.prereqs.any s.prereqFailed then .next (s.finishKernel k.kid 5 0xFF)
    else if k.prereqs.any s.prereqRuns then .next s
    else .next (s.updKernel k.kid fun k => { k with st := .placing, places := k.placesOf })

/-! ### Placement (R237, R238) -/

/-- The cores of a placement, as logical core indices, row by row. -/
def Place.cells (p : Place) : List Nat :=
  (List.range p.h).flatMap fun y => (List.range p.w).map fun x => (p.y0 + y) * 48 + (p.x0 + x)
def Place.offArray (p : Place) : Bool := p.w == 0 || p.h == 0 || p.x0 + p.w > 48 || p.y0 + p.h > 48
def Place.meets (p q : Place) : Bool :=
  p.pkg == q.pkg && p.x0 < q.x0 + q.w && q.x0 < p.x0 + p.w && p.y0 < q.y0 + q.h && q.y0 < p.y0 + p.h
/-- R362: whether a package has a module in the pod. -/
def State.inPod (s : State) (p : Nat) : Bool := p == s.pkg || (tabGet s.pod.map p).getD 0 == 1
/-- R237 step 5: whether a rectangle lies wholly in a fence rectangle of a tenant. -/
def State.inFence (s : State) (tenant : Nat) (p : Place) : Bool :=
  s.agent.fences.toList.any fun f =>
    f.st != .free && f.tenant == tenant && f.x0 ≤ p.x0 && p.x0 + p.w ≤ f.x0 + f.wm + 1 && f.y0 ≤ p.y0 && p.y0 + p.h ≤ f.y0 + f.hm + 1
/-- R237 steps 3 to 5: the status and placement that fail first. The agent of another package checks its own. -/
def State.badPlaces (s : State) (k : Kernel) : Option (Nat × Nat) :=
  let ps := k.placesOf.zipIdx
  let own (p : Place) : Bool := p.pkg == s.pkg
  let off (p : Place × Nat) : Bool :=
    (own p.1 && p.1.offArray) || !s.inPod p.1.pkg || ps.any fun q => q.2 < p.2 && p.1.meets q.1
  let drained (p : Place) : Bool := own p && p.cells.any fun c => s.agent.drained.contains (coreCluster c)
  match ps.find? off with
  | some p => some (3, p.2)
  | none =>
    match ps.find? fun p => drained p.1 with
    | some p => some (3, p.2)
    | none => (ps.find? fun p => own p.1 && !s.inFence k.tenant p.1).map fun p => (4, p.2)
/-- The cores of this package that a kernel is to take. -/
def State.cellsOf (s : State) (k : Kernel) : List Nat := (k.placesOf.filter fun p => p.pkg == s.pkg).flatMap Place.cells

/-- R236, R391: whether a kernel in PLACING may place: no earlier one is still in CHECKING or PLACING, or about to leave
BLOCKED. -/
def State.mayPlace (s : State) (k : Kernel) : Bool :=
  k.st == .placing && !s.agent.hold &&
  ((s.earlier k).all fun j => j.st != .checking && j.st != .placing && !(j.st == .blocked && !j.prereqs.any s.prereqRuns))
/-- R238: whether a kernel takes a core. -/
def State.takes (s : State) (k : Kernel) (c : Nat) : Bool :=
  let x := s.core c
  x.idU.kernel.isNone && (x.idN.kernel.isNone || (k.exclusive && x.level == .saved && k.halted.contains c))
/-- R218: whether a migration involves a core. -/
def State.migrating (s : State) (c : Nat) : Bool := s.agent.migrations.any fun m => m.src == c || m.dst == c
/-- R238: the kernel that a core's normal level is to be halted for. -/
def State.wantsHalt (s : State) (c : Nat) : Option Kernel :=
  let x := s.core c
  let old := x.idN.kernel.bind s.kernel
  if x.idU.kernel.isNone && x.level == .live && !s.migrating c && old.any fun k => k.preemptible && (k.st == .running || k.st == .preempted)
  then s.agent.kernels.find? fun k => s.mayPlace k && k.exclusive && (s.badPlaces k).isNone && (s.cellsOf k).contains c
  else none

/-! ### Set-up (R239 to R241) -/

/-- The areas of the firmware region in use. -/
def State.areasUsed (s : State) : List (Nat × Nat) := s.agent.kernels.flatMap Kernel.areas
/-- R239 step 3: the first place of the firmware region where n bytes are free (notes/assumptions/41.md). -/
def firstFit (n limit at_ : Nat) (used : List (Nat × Nat)) : Nat → Option Nat
  | 0 => none
  | fuel + 1 =>
    if at_ + n > limit then none
    else match used.find? fun a => a.1 < at_ + n && at_ < a.1 + a.2 with
      | some a => firstFit n limit (a.1 + a.2) used fuel
      | none => some at_
/-- R239 step 3: allocates an area of n bytes. -/
def State.allocate (s : State) (n : Nat) (mine : List (Nat × Nat)) : Option Nat :=
  match s.agent.region with
  | none => none
  | some (b, l) => firstFit n (b + l) (roundUp b 64) (s.areasUsed ++ mine) (s.areasUsed.length + mine.length + 1)
/-- The areas of a kernel's cores: core, save area, overflow area; none where they cannot be allocated. -/
def State.allocCores (s : State) (k : Kernel) (mine : List (Nat × Nat)) : List Nat → Option (List (Nat × Option Nat × Option Nat) × List (Nat × Nat))
  | [] => some ([], mine)
  | c :: rest =>
    let ring := k.ringBytes
    let one (want : Bool) (n : Nat) (m : List (Nat × Nat)) : Option (Option Nat × List (Nat × Nat)) :=
      if !want then some (none, m) else (s.allocate n m).map fun a => (some a, m ++ [(a, n)])
    match one k.preemptible (768 * 1024) mine with
    | none => none
    | some (sa, m1) =>
      match one (ring != 0) ring m1 with
      | none => none
      | some (oa, m2) => (s.allocCores k m2 rest).map fun r => ((c, sa, oa) :: r.1, r.2)

/-- R241: origin and clipped extent of a dimension that a placement divides. -/
def tileOf (d t n c : Nat) : Nat × Nat :=
  if d = 0 then (0, 0)
  else
    let w := if t = 0 then ceilDiv d n else t
    (c * w, min w (d - c * w))
/-- R240, R241: the identity set of a core of a placement. -/
def Kernel.identity (k : Kernel) (p : Place) (c : Nat) : Identity :=
  let x := coreX c - p.x0
  let y := coreY c - p.y0
  let d (i : Nat) : Nat := k.recN (80 + 4 * i) 4
  let t0 := tileOf (d 0) (k.recN 100 4) p.w x
  let t1 := tileOf (d 1) (k.recN 104 4) p.h y
  { x := x, y := y, w := p.w, h := p.h, kern := k.kid
    o := (Vector.replicate 5 0 |>.set 0 t0.1 |>.set 1 t1.1)
    m := (Vector.replicate 5 0 |>.set 0 t0.2 |>.set 1 t1.2 |>.set 2 (d 2) |>.set 3 (d 3) |>.set 4 (d 4))
    jdcwb := k.linkBase + k.imgN 40 8, jdcwl := k.imgN 48 8
    amb0 := BitVec.ofNat 128 ((capMake k.base (k.base + k.size) (k.recN 32 1 % 16)).getD 0)
    amb1 := BitVec.ofNat 128 ambientCap1, kernel := some k.kid }
/-- R185: the entry that a handler record of an image gives: no reserved bit, and W is 0. -/
def entImage (v : Nat) : Nat := setBits (entClean v) 72 1 0
/-- R239: sets a core up for a kernel. DESIGN CHOICE (notes/assumptions/109.md): of two handler records for one channel the first
holds. Also on a SAVED core, the ring sizes and the overflow area are those of the image
(notes/assumptions/97.md). -/
def Core.setUp (x : Core) (k : Kernel) (p : Place) (c : Nat) (save ring : Option Nat) : Core :=
  let saved := x.level == .saved
  let id := k.identity p c
  let entry := k.linkBase + k.imgN 24 8
  let hart (u : Bool) (h : Hart) : Hart := if k.holds u then { h with st := .startable, pc := BitVec.ofNat 64 entry, icache := [] } else h
  let shapes := shapeTable ((k.image.drop (k.imgN 80 8)).take (64 * k.imgN 20 2))
  { x with
    idU := if k.holds true then id else x.idU
    idN := if k.holds false then id else x.idN
    reserve := if saved then x.reserve else k.imgN 7 1
    saveArea := if k.preemptible then save else x.saveArea
    overflow := ring
    suSize := k.su
    snSize := k.sn
    footprint := k.footprint
    handlers := (List.range 1024).filterMap fun ch =>
      (k.handlers.find? fun h => h.1 == ch).bind fun h => if entImage h.2 = 0 then none else some (ch, BitVec.ofNat 256 (entImage h.2))
    shape := shapes
    hanks := Vector.replicate 16 0#128
    boxes := Vector.replicate 16 {}
    spad := x.spad.zeroBelow k.footprint
    sentU := if k.holds true then 0 else x.sentU
    recvU := if k.holds true then 0 else x.recvU
    sentN := if k.holds false then 0 else x.sentN
    recvN := if k.holds false then 0 else x.recvN
    hartU := hart true x.hartU
    hartN := hart false x.hartN }

/-- R243: whether every placement on another package is reported loaded; the agent of another home has none to wait for. -/
def Kernel.othersLoaded (k : Kernel) (pkg : Nat) : Bool := k.guest || k.places.all fun p => p.pkg == pkg || p.report == some 0
/-- R235, R238, R239, R243: a kernel in PLACING whose cores are all free, or SAVED for it, enters LOADING once the other packages
have loaded theirs, and its cores are set up; it fails where a placement or an area does. The placements of another home agent
run from then on. -/
def execPlacementReady : State → Host.Outcome State Fault Refusal := fun s =>
  match s.kernel s.ev.k with
  | none => .next s
  | some k =>
    if !s.mayPlace k then .next s
    else match s.badPlaces k with
      | some (st, i) => .next (s.finishKernel k.kid st i)
      | none =>
        if !(s.cellsOf k).all (s.takes k) || !k.othersLoaded s.pkg then .next s
        else match s.allocCores k [] (s.cellsOf k) with
          | none => .next (s.finishKernel k.kid 6 0xFF)
          | some (plan, areas) =>
            let ps := k.placesOf
            let s1 := plan.foldl (fun s q =>
              match ps.find? fun p => p.pkg == s.pkg && p.cells.contains q.1 with
              | some p => s.updCore q.1 fun x => x.setUp k p q.1 q.2.1 q.2.2
              | none => s) s
            .next (s1.updKernel k.kid fun k =>
              { k with st := if k.guest then .running else .loading, loaded := true, cores := plan.map (·.1), areas := areas
                       places := k.places.map fun p => if p.pkg == s.pkg then { p with report := some 0 } else p })

/-- R243: the home agent of another package sends its placements on this one, with the record and the image that it
checked: this agent places them under R237 steps 3 to 5, R238 and R239, and their states hold the outcome that it reports. -/
def State.takeGuest (s : State) (kid : Nat) (d : List Byte) : State :=
  let k : Kernel := { kid := kid, guest := true, st := .placing, record := d.take 256, image := d.drop 256, arrivedAt := s.agent.counter }
  if kid / 2 ^ 24 = s.pkg || kid ≥ 2 ^ 32 || (s.agent.kernels.any fun j => j.kid == kid && !j.isOver) || k.badRecord || k.badImage then s
  else
    let old (j : Kernel) : Kernel := if j.kid = kid then { j with kid := 2 ^ 32 } else j
    { s with agent := { s.agent with kernels := s.agent.kernels.map old ++ [{ k with places := k.placesOf }] } }
/-- R243: the home agent of another package releases what it placed here. -/
def State.dropGuest (s : State) (kid : Nat) : State :=
  match s.kernel kid with
  | some k => if k.guest then s.finishKernel kid 0 0xFF else s
  | none => s
/-- R235, R243: the agent of another package reports a placement to a kernel in PLACING: 0 loaded, else the status with which it
failed; with the event's `b` it is a home agent that sends a placement, or releases one where the event's `m` is not 0. -/
def execPlacementReport : State → Host.Outcome State Fault Refusal := fun s =>
  if s.ev.b then .next (if s.ev.m = 0 then s.takeGuest s.ev.k s.ev.data else s.dropGuest s.ev.k)
  else
  match s.kernel s.ev.k with
  | none => .next s
  | some k =>
    let i := s.ev.n
    match k.places[i]? with
    | none => .next s
    | some p =>
      if k.st != .placing || k.guest || p.pkg == s.pkg || p.report.isSome then .next s
      else if s.ev.m = 0 then .next (s.updKernel k.kid fun k => { k with places := k.places.set i { p with report := some 0 } })
      else if s.ev.m = 3 || s.ev.m = 4 || s.ev.m = 6 then .next (s.finishKernel k.kid s.ev.m i)
      else .next s

/-! ### Start (R242) -/

/-- R242, R370: sends the start message of a core. -/
def State.sendStart (s : State) (k : Kernel) (core place : Nat) : State :=
  let seq := s.agent.seq
  let m : Msg := { seq := seq, tenant := k.tenant, rcore := s.pkg * 4096 + 0xFFF, plen := 4, prio := k.startLevel
                   dest := core, payload := bytesOf k.kid 4 ++ bytesOf place 1 ++ bytesOf 0 3 ++ (k.record.drop 136).take 56
                   flags := b01 k.argsBad * 2 ^ flagPoison }
  let s1 := { s with agent := { s.agent with seq := (seq + 1) % 65536 } }
  let s2 := s1.updKernel k.kid fun k =>
    { k with sent := (k.sent + 1) % 2 ^ 64, starts := k.starts ++ [{ core := core, place := place, seq := seq }] }
  s2.postFrom (coreX (core % 4096 % numCores)) 0 m
/-- R235, R242: every placement is loaded; the kernel runs, and the start messages are sent. -/
def execSetupComplete : State → Host.Outcome State Fault Refusal := fun s =>
  match s.kernel s.ev.k with
  | none => .next s
  | some k =>
    if k.st != .loading || !(k.places.all fun p => p.report == some 0) then .next s
    else
      let s1 := s.updKernel k.kid fun k => { k with st := .running, lastSweep := s.agent.counter }
      .next (k.places.zipIdx.foldl (fun s p => p.1.cells.foldl (fun s c => s.sendStart k (p.1.pkg * 4096 + c) p.2) s) s1)

/-- R176: the address that refuses a request to an index without a core: the launch agent its own; of the indices 2,304 to
4,094, whose refusing party the spec does not name, the firmware's (notes/assumptions/95.md). -/
def State.noCoreAddr (s : State) (m : Msg) : Nat := s.pkg * 4096 + (if bits m.dest 11 0 = 0xFFF then 0xFFF else 0xFFE)
/-- R20, R175, R235, R242: the k-th message at the launch agent: the answer to a start message; or a request to no core, which is
refused with NOCORE. A refusal that fails its kernel waits until a PREEMPTED kernel is RUNNING again. -/
def execStartAnswer : State → Host.Outcome State Fault Refusal := fun s =>
  match s.agent.inbox[s.ev.k]? with
  | none => .next s
  | some m =>
    let s1 := ({ s with agent := { s.agent with inbox := s.agent.inbox.eraseIdx s.ev.k } } : State).tookOrdered m
    if !m.answer then .next (s1.postFrom (coreX (m.rcore % 4096 % numCores)) 0 (Msg.refusal (s.noCoreAddr m) rNoCore m))
    else if bits m.dest 11 0 ≠ 0xFFF then .next (s1.countLost m)
    else
      match s.agent.kernels.find? fun k => k.starts.any fun t => t.seq == m.seq && t.bounced.isNone with
      | none => .next (s1.countLost m)
      | some k =>
        if m.flag flagNack && m.rchan ≠ rBounced && k.st == .preempted then .next s
        else if !m.flag flagNack then
          .next (s1.updKernel k.kid fun k => { k with starts := k.starts.filter fun t => t.seq != m.seq || t.bounced.isSome })
        else
          let s2 := s1.updKernel k.kid fun k => { k with recv := (k.recv + 1) % 2 ^ 64 }
          if m.rchan = rBounced then
            .next (s2.updKernel k.kid fun k => { k with starts := k.starts.map fun t =>
              if t.seq == m.seq then { t with bounced := some s.agent.counter } else t })
          else .next (s2.finishKernel k.kid 3 (((k.starts.find? fun t => t.seq == m.seq).map (·.place)).getD 0xFF))

/-- R242: a start message that was refused with BOUNCED is sent again after 4,096 cycles: the k-th of those that may be. -/
def execStartResend : State → Host.Outcome State Fault Refusal := fun s =>
  let due := s.agent.kernels.flatMap fun k =>
    (k.starts.filter fun t => t.bounced.any fun b => b + 4096 ≤ s.agent.counter).map fun t => (k, t)
  match due[s.ev.k]? with
  | none => .next s
  | some (k, t) =>
    let s1 := s.updKernel k.kid fun k => { k with starts := k.starts.filter fun q => q != t }
    .next (s1.sendStart k t.core t.place)

/-! ### Sweeps and the end (R249, R250) -/

/-- R249: whether a level of a core is idle. -/
def State.coreIdle (s : State) (c : Nat) (u : Bool) : Bool :=
  let k := s.core c
  let b := k.inbox
  let none_ (l : List Msg) : Bool := l.all fun m => m.prio != u
  let h := k.hart u
  (u || k.level == .live) &&
  ((List.range 32).all fun i =>
    let x := k.ctx i
    x.st == .free || x.lvl != u || (x.st == .stopped && !s.outstanding c i)) &&
  (h.st == .free || h.st == .startable || (h.st == .waiting && h.wait == .recv)) &&
  (if u then b.uReply.isEmpty && b.uReq.isEmpty && b.ringU.isEmpty && b.uFault.isEmpty
   else b.nReply.isEmpty && b.nReq.isEmpty && b.ringN.isEmpty && b.nFault.isEmpty) &&
  none_ b.arrived && none_ (b.reasm.map (·.msg)) && none_ b.deposits && none_ (b.landing.map (·.1)) && none_ b.late && none_ (k.side.inbound.map (·.2)) &&
  none_ (k.puts.map (·.1)) && none_ (k.heldMsgs.map (·.msg)) &&
  (k.tw.cmd.isNone || k.tw.ownerU != u) && (k.cdQueue u).isEmpty &&
  s.reqs.all fun r => r.core != c || r.lvl != u || (match r.who with | .hart _ => false | .fibre i _ => i ≥ 32)

/-- R250: adds what a sweep reads of one core. -/
def State.sweepCore (s : State) (k : Kernel) (r : SweepRes) (c : Nat) : SweepRes :=
  let x := s.core c
  let g (u : Bool) (a : Nat) : Nat := if k.holds u then a else 0
  { sent := (r.sent + g true x.sentU + g false x.sentN) % 2 ^ 64, recv := (r.recv + g true x.recvU + g false x.recvN) % 2 ^ 64
    idle := r.idle && (!k.holds true || s.coreIdle c true) && (!k.holds false || s.coreIdle c false) }
/-- R250: a sweep that has read every core of a kernel is decided. -/
def State.endSweep (s : State) (k : Kernel) (r : SweepRes) : State :=
  let s1 := s.updKernel k.kid fun k =>
    { k with part := none, prev := some r, last := some r, sweeps := k.sweeps + 1, lastSweep := s.agent.counter }
  if r.idle && r.sent = r.recv && k.prev == some r then s1.finishKernel k.kid 0 0xFF else s1
/-- R250: a sweep of a running kernel starts after its interval, and reads a free number of its cores at a time; what other
packages sum is free (notes/assumptions/42.md). For the kernel of another home agent the agent sums its own cores, and
keeps the figures that it reports. -/
def execSweep : State → Host.Outcome State Fault Refusal := fun s =>
  match s.kernel s.ev.k with
  | none => .next s
  | some k =>
    let interval := if k.recN 72 4 = 0 then 4096 else k.recN 72 4
    if !(k.st == .running || (k.guest && k.st == .preempted)) || (!k.guest && k.part.isNone && s.agent.counter < k.lastSweep + interval) then .next s
    else
      let idle0 := k.starts.all fun t => t.bounced.isNone
      let (n, r) := k.part.getD (0, if k.guest then { sent := 0, recv := 0, idle := true } else { sent := k.sent, recv := k.recv, idle := idle0 })
      let (f, s1) := s.takeFree
      let m := f % (k.cores.length - n + 1)
      let r1 := ((k.cores.drop n).take m).foldl (s1.sweepCore k) r
      if n + m < k.cores.length then .next (s1.updKernel k.kid fun k => { k with part := some (n + m, r1) })
      else if k.guest then
        .next (s1.updKernel k.kid fun k => { k with part := none, last := some r1, sweeps := k.sweeps + 1, lastSweep := s.agent.counter })
      else if k.places.all fun p => p.pkg == s.pkg then .next (s1.endSweep k r1)
      else
        let (g, s2) := s1.takeFree
        .next (s2.endSweep k { sent := (r1.sent + g % 2 ^ 64) % 2 ^ 64, recv := (r1.recv + g / 2 ^ 64 % 2 ^ 64) % 2 ^ 64
                               idle := r1.idle && bit g 128 })

end Sys2Proof.Machine
end

