-- ==== Sys2Proof/Machine/Preempt.lean ====
section
/-! DEFINITION. Context pre-emption: the halt (R161 to R163), the save image (R164 to R169), restore (R170), and the migration
of Skeins (R218). -/

namespace Sys2Proof.Machine

/-! ### The halt (R162) -/

/-- R169: the registers that a load record fills. -/
def LoadRec.regs (l : LoadRec) : List Nat := [l.dst + l.first / 16, l.dst + (l.first + 2 ^ l.sz - 1) / 16].foldl setAdd []
/-- R55: the registers that a read request still fills. -/
def Req.touched (r : Req) : List Nat :=
  match r.op with
  | .read n d first _ => if r.size = 0 then [d + first / 16, d + (first + n - 1) / 16].foldl setAdd [] else r.loadRecs.flatMap LoadRec.regs
  | _ => []
/-- R27, R162: the scratchpad reads of context i land in the halt, before the others become load records
(notes/assumptions/34.md). -/
def State.landLocal (s : State) (c i : Nat) : State :=
  let x := s.ctx c i
  ((s.ctxReqs c i).filter fun r => r.loc.isSpad && !r.discard && !x.signed.any fun g => g.loads.contains r.id).foldl (fun s r =>
    match r.op with
    | .read n d first lanes =>
      if s.poisonedAt r.loc n then s.landPoison r i
      else s.landRead r i n d first lanes (s.readAt r.loc n) (s.tagsAt r.loc n)
    | _ => s) s
/-- R280, R294: the requests of core c that a store, an atomic or a message awaits which has retired and is held back: such a
read is awaited during SAVING with what it holds back, and makes no load record (notes/assumptions/34.md). -/
def State.awaited (s : State) (c : Nat) : List Nat :=
  (s.reqs.filter fun r => r.core == c && r.stage == .held).flatMap (·.after) ++ (s.core c).heldMsgs.flatMap (·.after)
/-- R169: the load records of a read request of a context, with what awaits it (R280). -/
def Ctx.recsOf (x : Ctx) (all : List Req) (r : Req) : List LoadRec :=
  let held (ids : List Nat) : Bool := all.any fun q => q.insn == r.insn && ids.contains q.id
  r.loadRecs.map fun l => { l with holdAcq := held x.acqHold, holdRel := held x.relHold }
/-- R169: the context with the records of a read that has not landed; the pieces of one load share one record. -/
def Ctx.addRecs (x : Ctx) (regs addr : List Nat) (ls : List LoadRec) : Ctx :=
  if x.flaws.any fun f => f.cause == 0 && f.loads == ls then
    { x with flaws := x.flaws.map fun f => if f.cause == 0 && f.loads == ls then { f with regs := regs.foldl setAdd f.regs } else f }
  else { x with flaws := x.flaws ++ [{ regs := regs, cause := 0, addr := addr.headD 0, loads := ls }] }
/-- R162, R374: the outstanding reads of context i become load records; those of a signed block, whose effects are
discarded, leave nothing. A register whose bytes have all landed is PRESENT. -/
def State.recordLoads (s0 : State) (c i : Nat) : State :=
  let s := s0.landLocal c i
  let x := s.ctx c i
  let stay := s.awaited c
  let mine (r : Req) : Bool :=
    r.core == c && r.who == .fibre i x.inc.toNat && (match r.op with | .read .. => !stay.contains r.id | _ => false)
  let lost (r : Req) : Bool := r.discard || x.signed.any fun g => g.loads.contains r.id
  let reads := s.reqs.filter mine
  let kept := reads.filter fun r => !lost r
  let wanted := kept.flatMap Req.touched
  let x1 := reads.foldl (fun x r => x.present (r.regs.filter fun q => !wanted.contains q)) x.discardSigned
  -- a register that another lane has left without data keeps that flaw
  let x2 := kept.foldl (fun y r => if r.regs.isEmpty then y else y.addRecs r.touched [r.va] (x.recsOf reads r)) x1
  ({ s with reqs := s.reqs.filter fun r => !mine r } : State).setCtx c i x2
/-- R131, R162: context i of core c is HALTED: its state, wait kind and reads are recorded. A wait served already completes;
a DISPATCHING context is recorded as READY. -/
def State.haltCtx (s : State) (c i : Nat) : State :=
  let s1 := s.recordLoads c i
  let x := s1.ctx c i
  let s2 := s1.setCtx c i { x with
    st := .halted, before := if x.st == .dispatching then .ready else x.st, abortedWait := x.wait.kind.ctorIdx, wait := {}, missVa := 0, awaits := none
    pcBlk := ((s1.core c).currentBlock x).getD x.pcBlk, acqHold := [], relHold := []
    pendingSet := match x.woke with | some (t, b) => if t = (s.core c).counter then b else 0 | none => 0 }
  let served := (s2.ctxReqs c i).filter fun r => r.loc.isSpad
  let s3 := served.foldl (fun s r =>
    match r.op with
    | .fe op _ => s.haltedAnswer r i (feEffect op r.rd)
    | .jc .wait _ _ => s.haltedAnswer r i fun _ x => x
    | _ => s) s2
  (s3.abortWaits c i).updCore c fun k => { k with checker := if k.checker == some i then none else k.checker }
/-- R166, R299, R312, R313: what hart N stalls in at its instruction: 4 a Twister command, which the Twister, a request-table
entry or reply slot, or the bytes of an image hold up; 8 a fence that waits. -/
def State.hartStall (s : State) (c : Nat) : Nat :=
  match s.fetchHart c false with
  | .ok w _ =>
    let fence := !(s.hartIds c false).isEmpty
    let (ins, op) := decodeHart (BitVec.ofNat 32 w)
    let tw (f : State → Host.Outcome State Fault Refusal) : Nat :=
      match f { s with cur := .hart c false, stalled := false } with
      | .next t => if t.stalled then 4 else 0
      | _ => 0
    match ins with
    | .jdTwmma a b d => tw (execJdTwmma a b d)
    | .jdTwrot a b d => tw (execJdTwrot a b d)
    | .jdTwring a b d => tw (execJdTwring a b d)
    | .jdTwbmm a b d => tw (execJdTwbmm a b d)
    | .jdTwepi a b d => tw (execJdTwepi a b d)
    | .jdTwclr a d => tw (execJdTwclr a d)
    | .jdTwswp d => tw (execJdTwswp d)
    | .jdTwdom a d => tw (execJdTwdom a d)
    | .jdTwclaim a d => tw (execJdTwclaim a d)
    | .jdTwq a d => tw (execJdTwq a d)
    | .jdTwsave a b d => tw (execJdTwsave a b d)
    | .jdTwrest a d => tw (execJdTwrest a d)
    | .jdFence a =>
      let v := (s.hart c false).getN a
      if fence && 8 ≤ v && v < 16 then 8 else 0
    | .riscvFence => match op with
      | .fence _ pred succ => if fence && pred.getLsbD 0 && succ != 0#4 then 8 else 0
      | _ => 0
    | .fenceI => if fence then 8 else 0
    | _ => 0
  | _ => 0
/-- R162: hart N halts before its oldest instruction that has not retired; a load or `lr` in flight is abandoned, an
atomic or `sc` awaited. -/
def State.haltHart (s : State) (c : Nat) : State :=
  let h := s.hart c false
  if h.st == .free then s
  else
    let load := h.pend.bind s.findReq |>.any fun r => match r.op with | .hartRead .. => true | .lr _ => true | _ => false
    let code :=
      if h.pend.isSome then (if load then 5 else 0)
      else if h.missVa.isSome then 6
      else if h.naming then 7
      else match h.wait with
        | .recv => 1
        | .skwait => 2
        | .bcastw => 3
        | .none => if (s.core c).tw.saving == some false then 4 else if h.st == .running then s.hartStall c else 0
    let s1 := if load then s.dropReq (h.pend.getD 0) else s
    let s2 := s1.updCore c fun k => { k with tw := { k.tw with saving := k.tw.saving.filter id } }
    (s2.setHart c false { h with
      st := .halted, before := h.st, abandoned := code, pend := if load then none else h.pend, missVa := none, naming := false
      wait := .none }).dropResv c false
/-- R161, R235: the launch agent's halt request reaches core c: the kernel of its normal level is PREEMPTED, and normal
work stops. R132: it comes before the fault replies of its cycle, so after one it comes in a later cycle. -/
def execHaltRequest : State → Host.Outcome State Fault Refusal := fun s =>
  let c := s.ev.core
  match if (s.core c).settledAt == some (s.core c).counter then none else s.wantsHalt c with
  | none => .next s
  | some k =>
    let s1 := s.updKernel k.kid fun k => { k with halted := setAdd k.halted c }
    let s2 := match (s.core c).idN.kernel with
      | some kid => s1.updKernel kid fun k => { k with st := .preempted, part := none, prev := none }
      | none => s1
    let s3 := s2.updCore c fun x => { x with level := .halting, haltCycle := x.counter }
    let s4 := (List.range 32).foldl (fun s i =>
      let x := s.ctx c i
      if x.st == .free || x.st == .halted || x.lvl || (x.st == .stopped && !x.mbr) then s else s.haltCtx c i) s3
    let s5 := s4.haltHart c
    let t := (s5.core c).tw
    let s6 := if t.openB && !t.ownerU then s5.twStop c else s5
    let cut (x : CdCmd) : CdCmd := { x with pos := if x.pos < x.stream then x.pos / 4096 * 4096 else x.pos, missVa := none }
    .next (s6.updCore c fun x => { x with carderN := x.carderN.map cut })

/-- R217: the names of the normal Skeins of a core take a state. -/
def State.markNames (s : State) (c : Nat) (st : NameSt) : State :=
  (s.core c).residents.foldl (fun s r =>
    match s.nameEntry r.name with
    | some e => if r.lvl || e.core != c then s else s.setName (nameIndex r.name) { e with st := st }
    | none => s) s
/-- The contexts that a halt has recorded. -/
def Core.haltedCtxs (k : Core) : List Nat := (List.range 32).filter fun i => (k.ctx i).st == .halted && !(k.ctx i).lvl
/-- R162, R309: whether every component of the normal level of core c has halted: not in the cycle of the request, and not
before the sends of a stopped rotation command are complete. -/
def State.hasHalted (s : State) (c : Nat) : Bool :=
  let k := s.core c
  k.counter != k.haltCycle && !(k.tw.openB && !k.tw.ownerU && s.rotated.any fun r => r.src == c)
/-- R161, R217: the halt is reported with its duration, and the image write begins. -/
def State.completeHalt (s : State) (c : Nat) : State :=
  (s.updCore c fun x => { x with level := .saving, haltDuration := trunc ((x.counter : Int) - x.haltCycle) 64 }).markNames c .preempted
/-- R161: every component has halted. -/
def execHaltComplete : State → Host.Outcome State Fault Refusal := fun s =>
  let c := s.ev.core
  if (s.core c).level != .halting || !s.hasHalted c then .next s else .next (s.completeHalt c)
/-- R163: the cycles in which a halt completes: those of the slowest component that there is, and 6 for the report. -/
def Core.haltBound (k : Core) : Nat :=
  6 + max (max (if k.haltedCtxs.isEmpty then 0 else 4) (if k.hartN.st == .halted then 12 else 0))
    (max (if k.tw.openB && !k.tw.ownerU then 1100 else 0) (if k.carderN.isEmpty then 0 else 64))
/-- R163: whether a halt of core c has taken the cycles that it may. -/
def Core.haltDue (k : Core) : Bool := k.level == .halting && k.haltBound ≤ trunc ((k.counter : Int) - k.haltCycle) 64

/-! ### The image (R164 to R169) -/

/-- R169: the 16 bytes of a load record. -/
def LoadRec.bytes (l : LoadRec) : List Byte :=
  bytesOf l.addr 8 ++ bytesOf l.dst 1 ++ bytesOf l.sz 1 ++ bytesOf l.first 1 ++ bytesOf (l.ord + 4 * l.scope) 1 ++ bytesOf 0 4
/-- R168: a presence code. -/
def Pres.code : Pres → Nat
  | .present => 0 | .pending => 1 | .held => 2
/-- A number from one bit pattern per register. -/
def perReg (w : Nat) (f : Nat → Nat) : Nat := (List.range 64).foldl (fun a i => a + f i * 2 ^ (w * i)) 0
/-- R169: as many flaws as their records fit in n, of those whose reads are all of the scratchpad; every other one is chosen. -/
def chooseFlaws : Nat → List Flaw → Nat × List Flaw
  | n, [] => (n, [])
  | n, f :: r =>
    if f.isLocal && n < f.loads.length then chooseFlaws n r
    else
      let m := if f.isLocal then n - f.loads.length else n
      let q := chooseFlaws m r
      (q.1, f :: q.2)
/-- R169, R278: the flaws of each halted context that the image holds as load records, at most 512 records in all: those that
held request-table entries, and as many of the scratchpad as fit (notes/assumptions/34.md). -/
def Core.recorded (k : Core) : Tab (List Flaw) :=
  let far := (k.haltedCtxs.map fun i => (k.ctx i).flawEntries).foldl (· + ·) 0
  (k.haltedCtxs.foldl (fun (p : Nat × Tab (List Flaw)) i =>
    let q := chooseFlaws p.1 (k.ctx i).flaws
    (q.1, p.2 ++ [(i, q.2)])) (512 - far, [])).2
/-- R168: the record of context i, with its load records. -/
def Ctx.record (x : Ctx) (i : Nat) (loads : List LoadRec) : List Byte :=
  let b3 := b01 x.bmode + 2 * b01 x.mbr + 4 * b01 x.byDispatch + 8 * b01 x.slot0.valid + 16 * b01 x.slot1.valid
  let inRegs (j : Nat) (b : Bool) : Nat := b01 (b && j < x.nreg)
  bytesOf i 1 ++ bytesOf x.before.ctorIdx 1 ++ bytesOf (x.nreg / 16) 1 ++ bytesOf b3 1 ++ bytesOf x.r.srseq.toNat 4 ++
  bytesOf (x.pcBlk + 2 * x.pcOff) 8 ++ ((List.range 8).flatMap fun e => bytesOf (x.ext e) 8) ++
  bytesOf 0xFFFF 2 ++ bytesOf x.r.k1.toNat 2 ++ bytesOf x.r.k2.toNat 2 ++ bytesOf x.r.k3.toNat 2 ++
  bytesOf x.r.flags.toNat 1 ++ bytesOf x.abortedWait 1 ++ bytesOf loads.length 2 ++ bytesOf x.skein 4 ++
  bytesOf (x.slot0.blk + 2 * x.slot0.off) 8 ++ bytesOf (x.slot1.blk + 2 * x.slot1.off) 8 ++ bytesOf x.streamPos 8 ++
  bytesOf x.cause 1 ++ bytesOf 0 3 ++ bytesOf x.inc.toNat 1 ++ bytesOf 0 3 ++ bytesOf x.faultAddr 8 ++ bytesOf x.faultPc 8 ++
  bytesOf (perReg 1 fun j => inRegs j (x.vtag j)) 8 ++
  bytesOf (perReg 2 fun j => if j < x.nreg then (x.r.cell j).pres.code else 0) 16 ++ bytesOf x.pendingSet 8 ++ bytesOf 0 80 ++
  ((List.range x.nreg).flatMap fun j => bytesOf (x.v j) 16) ++ loads.flatMap LoadRec.bytes
/-- R166: the record of hart N. -/
def Hart.record (h : Hart) (d : Identity) : List Byte :=
  let st := match h.before with
    | .running => 1 | .waiting => 2 | .faulted => 3 | .startable => 4 | _ => 0
  bytesOf h.pc.toNat 8 ++ ((List.range 31).flatMap fun i => bytesOf ((h.x.toList.getD (i + 1) 0#64).toNat) 8) ++
  (h.shadow.toList.flatMap fun w => bytesOf w.toNat 8) ++ bytesOf h.jdivec.toNat 8 ++ bytesOf (b01 h.jdieE + 2 * b01 h.jdieA) 8 ++
  bytesOf h.jdepc.toNat 8 ++ bytesOf h.jdimsg.toNat 8 ++ bytesOf h.instret.toNat 8 ++
  bytesOf (if h.st == .halted then st else 0) 1 ++ bytesOf h.abandoned 1 ++ bytesOf 0 6 ++
  bytesOf d.amb0.toNat 16 ++ bytesOf d.amb1.toNat 16 ++ bytesOf 0 112
/-- R167, R208: the Skimmer's pool entries and configuration words. -/
def Core.skimmerBytes (k : Core) : List Byte :=
  let at_ (n : Nat) : Nat := (k.boxes.toList.findSome? fun b =>
    if b.on && b.first ≤ n then b.entries[n - b.first]? else none).elim 0 SkEntry.bits
  ((List.range 512).flatMap fun n => bytesOf (at_ n) 16) ++ k.boxes.toList.flatMap fun b => bytesOf b.word 16
/-- R167: the core-wide section. -/
def Core.sharedBytes (k : Core) : List Byte :=
  let cds := k.carderN.flatMap CdCmd.saved
  (k.hanks.toList.flatMap fun h => bytesOf h.toNat 16) ++ k.readShape 0 4096 ++
  ((List.range 1024).flatMap fun ch => bytesOf (k.entry ch) 32) ++ k.skimmerBytes ++ cds ++ List.replicate (512 - cds.length) 0#8
/-- R165: the header, with a CRC of zero. -/
def imageHeader (n addr kern size cycle bitmap f t dur : Nat) : List Byte :=
  bytesOf 0x4A5A5356 4 ++ bytesOf 1 2 ++ bytesOf n 2 ++ bytesOf addr 4 ++ bytesOf kern 4 ++ bytesOf size 8 ++ bytesOf cycle 8 ++
  bytesOf bitmap 4 ++ bytesOf f 4 ++ bytesOf t 4 ++ bytesOf 0 4 ++ bytesOf dur 8 ++ bytesOf 0 200
/-- R164: writes the image of core c to its save area. -/
def State.writeImage (s : State) (c area : Nat) : State :=
  let k := s.core c
  let is := k.haltedCtxs
  let f := k.footprint
  let tw := if k.tw.openB && !k.tw.ownerU then k.tw.image else []
  let recs := k.recorded.flatMap fun p => (k.ctx p.1).record p.1 (p.2.flatMap Flaw.loads)
  let size := imgTwister + tw.length + f + recs.length
  let bitmap := is.foldl (fun a i => a + 2 ^ i) 0
  let head := imageHeader is.length (s.addrOf c) k.idN.kern size k.haltCycle bitmap f tw.length k.haltDuration
  let pad := area + imgTwister + tw.length
  let s1 := (s.poke area (head ++ k.hartN.record k.idN ++ k.sharedBytes ++ tw))
  let s2 := s1.storeAt (.pma pad) (k.spad.read 0 f) (some (k.spad.getTags 0 (f / 16)))
  let s3 := (k.spad.poison.filter fun g => 16 * g < f).foldl (fun s g => s.poisonAt (.pma (pad + 16 * g)) 16) s2
  (s3.poke (pad + f) recs).sealImage area
/-- R131: what the core keeps of a saved context beside its record. -/
def Ctx.keep (x : Ctx) (i : Nat) (chosen : List Flaw) : SavedCtx :=
  { idx := i, name := x.skein, rank := x.rank, joined := x.joined, handle := x.handle, faultSeq := x.faultSeq
    bads := (List.range 64).filter fun j => (x.r.cell j).bad, inc := x.inc, faultLen := x.faultLen
    loads := chosen.flatMap Flaw.loads, flaws := x.flaws.filter fun f => !chosen.contains f }
/-- R162: whether work of the halted level is still awaited: STOPPED contexts that are not saved drain and become FREE (R131), and
its stores, atomics and counter updates, its puts, and its deal blocks are done. -/
def State.saveWaits (s : State) (c : Nat) : Bool :=
  let k := s.core c
  ((List.range 32).any fun i => !(k.ctx i).lvl && (k.ctx i).st != .free && (k.ctx i).st != .halted) ||
  (k.haltedCtxs.any fun i => (s.ctxReqs c i).any fun r => !r.cancel && r.stage != .performed) ||
  !(s.hartIds c false).isEmpty || (k.puts.any fun p => !p.1.prio) || k.carderN.any fun x => x.deals != 0
/-- R131, R161, R230: the image is written, and the normal level is SAVED; deposits held meanwhile go to the image. -/
def execSaveComplete : State → Host.Outcome State Fault Refusal := fun s =>
  let c := s.ev.core
  let k := s.core c
  match k.saveArea with
  | none => .next s
  | some area =>
    if k.level != .saving || s.saveWaits c then .next s
    else
      let s1 := s.writeImage c area
      let is := k.haltedCtxs
      let seqs := (k.carderN.filter fun x => !x.byMsg).map (·.seq)
      let late := k.inbox.late
      let s2 := s1.updCore c fun x =>
        let y := is.foldl (fun y i => y.setCtx i { ({} : Ctx) with inc := (y.ctx i).inc }) x
        { y with
          level := .saved, saved := x.recorded.map fun p => (x.ctx p.1).keep p.1 p.2, carderN := [], cdSeqs := seqs
          cdEnds := x.carderN.map (·.ended)
          hartN := if x.hartN.st == .halted then { x.hartN with st := .saved, icache := [] } else x.hartN
          tw := if x.tw.openB && !x.tw.ownerU then { x.tw.clearLatches with openB := false, cmd := none } else x.tw
          inbox := { y.inbox with late := [] } }
      .next ((late.foldl (fun s m => s.applyDepositImage c m) s2).updCore c Core.dropBlocks)

/-! ### Restore (R161, R170) -/

/-- R161, R238: the restore request reaches a SAVED core once the urgent kernel that it was halted for is over and no
urgent context holds a saved index. -/
def execRestoreRequest : State → Host.Outcome State Fault Refusal := fun s =>
  let c := s.ev.core
  let k := s.core c
  match s.agent.kernels.find? fun j => j.isOver && j.halted.contains c with
  | none => .next s
  | some j =>
    if k.level != .saved || k.idU.kernel.isSome || (k.saved.any fun e => (k.ctx e.idx).st != .free) then .next s
    else .next ((s.updKernel j.kid fun j => { j with halted := j.halted.filter (· != c) }).updCore c fun x => { x with level := .restoring })

/-- R168: a slot target. -/
def slotOf (valid : Bool) (a : Nat) : Slot := { valid := valid, blk := a - a % 64, off := a % 64 / 2 }
/-- R131: the state that a recorded state is restored to. -/
def restoredSt (code : Nat) : CtxSt := if code = 6 then .faulted else if code = 9 then .stopped else .ready
/-- R168, R170: a context from its record and what the core kept; without its load records. -/
def State.ctxOf (s : State) (a : Nat) (e : SavedCtx) (name : Nat) : Ctx :=
  let n (o k : Nat) : Nat := s.peek (a + o) k
  let b3 := n 3 1
  let nreg := 16 * n 2 1
  let cell (j : Nat) : VCell :=
    if j < nreg then
      { val := BitVec.ofNat 128 (n (256 + 16 * j) 16), tag := bit (n 144 8) j, bad := e.bads.contains j
        pres := match s.recPres a j with | 1 => .pending | 2 => .held | _ => .present }
    else {}
  let pc := n 8 8
  { st := restoredSt (n 1 1), inc := BitVec.ofNat 8 (n 124 1), mbr := bit b3 1, bmode := bit b3 0, byDispatch := bit b3 2
    nreg := nreg, pcBlk := pc - pc % 64, pcOff := pc % 64 / 2, cause := n 120 1, faultAddr := n 128 8, faultPc := n 136 8
    faultSeq := e.faultSeq, faultLen := e.faultLen, slot0 := slotOf (bit b3 3) (n 96 8), slot1 := slotOf (bit b3 4) (n 104 8), streamPos := n 112 8
    handle := e.handle, skein := name, rank := e.rank, joined := e.joined, flaws := e.flaws
    r := { regs := Vector.ofFn fun j => cell j.val
           k1 := BitVec.ofNat 16 (n 82 2), k2 := BitVec.ofNat 16 (n 84 2), k3 := BitVec.ofNat 16 (n 86 2)
           ext := Vector.ofFn fun j => BitVec.ofNat 64 (n (16 + 8 * j.val) 8)
           flags := BitVec.ofNat 5 (n 88 1), srseq := BitVec.ofNat 32 (n 4 4) } }
/-- R168, R169: the load records of a context record, with what the core kept of them. -/
def State.loadsOf (s : State) (a : Nat) (kept : List LoadRec) : List LoadRec :=
  let n := 16 * s.peek (a + 2) 1
  (List.range (s.peek (a + 90) 2)).map fun j =>
    let b := a + 256 + 16 * n + 16 * j
    let o := s.peek (b + 11) 1
    let q := kept.getD j {}
    { addr := s.peek b 8, dst := s.peek (b + 8) 1, sz := s.peek (b + 9) 1, first := s.peek (b + 10) 1, ord := o % 4, scope := o / 4 % 4
      whole := q.whole, lanes := q.lanes, holdAcq := q.holdAcq, holdRel := q.holdRel }
/-- R169, R277: the reads of a load record: first byte and length; a pair is read in its two halves, which may lie in two
pages. -/
def LoadRec.halves (l : LoadRec) : List (LoadRec × Nat × Nat) :=
  if l.sz = 5 then [(l, 0, 16), (l, 16, 16)] else [(l, l.first, 2 ^ l.sz)]
/-- R169, R280: issues the load records of context i again, translated afresh; records of one register group land together, and
each holds a request-table entry. What awaited a read before the halt awaits it again. -/
def State.reissue (s : State) (c i : Nat) (ls : List LoadRec) : State :=
  let base := s.nextReq
  let regs (d : Nat) : List Nat := ((ls.filter fun l => l.dst == d).flatMap LoadRec.regs).foldl setAdd []
  (ls.zipIdx.flatMap fun q => q.1.halves.map fun h => (q.2, h)).foldl (fun s p =>
    let (j, l, o, n) := p
    let id := s.nextReq
    let va := l.addr + (o - l.first)
    let l0 := { mkReq s c i (base + l.dst) (.read n l.dst o l.lanes) va (.scaleOut 0 0) false (regs l.dst) l.ord l.scope []
                with stage := .untranslated, size := if l.whole then 2 ^ l.sz else 0, ent := base + 64 + j }
    let k := s.core c
    let s1 :=
      if va.testBit 59 then s.addReq { l0 with loc := .spad c (va - spadBase), stage := .posted, entry := false }
      else match k.translate va .read with
        | .hit x => s.addReq { l0 with loc := x, stage := .posted }
        | .miss => (s.addReq l0).updCore c fun k => k.addMiss va .read
        | .refused => (s.addReq l0).landFlaw { l0 with id := id } i cNOMAP
    s1.updCtx c i fun x =>
      { x with acqHold := if bit l.ord 0 || l.holdAcq then x.acqHold ++ [id] else x.acqHold
               relHold := if l.holdRel then x.relHold ++ [id] else x.relHold })
    { s with nextReq := base + 64 + ls.length }
/-- R148, R166, R170: hart N from its record, whose reserved bits read as zero (R6); an abandoned wait executes again. -/
def Hart.ofRecord (h : Hart) (s : State) (a : Nat) : Hart :=
  let n (o k : Nat) : Nat := s.peek (a + o) k
  let st : HartSt := match n 360 1 with
    | 1 => .running | 2 => .running | 3 => .faulted | 4 => .startable | _ => .free
  { h with
    st := st, pc := BitVec.ofNat 64 (n 0 8)
    x := Vector.ofFn fun j => if j.val = 0 then 0#64 else BitVec.ofNat 64 (n (8 * j.val) 8)
    shadow := Vector.ofFn fun j => BitVec.ofNat 64 (n (256 + 8 * j.val) 8)
    jdivec := BitVec.ofNat 64 (n 320 8 / 4 * 4), jdieE := bit (n 328 1) 0, jdieA := bit (n 328 1) 1
    jdepc := BitVec.ofNat 64 (n 336 8 / 2 * 2), jdimsg := BitVec.ofNat 64 (n 344 8 % 2 ^ 63), instret := BitVec.ofNat 64 (n 352 8), icache := [], wait := .none, pend := none
    naming := false, missVa := none, abandoned := 0, before := .free }
/-- R167, R208: a box from its configuration word and the pool; whence its entries came is not saved and is free
(notes/assumptions/43.md). -/
def State.boxOf (s : State) (area j free : Nat) : SkBox :=
  let w := s.peek (area + imgSkimmer + 8192 + 16 * j) 16
  let b := SkBox.ofWord w
  let entry (q : Nat) : SkEntry :=
    let e := s.peek (area + imgSkimmer + 16 * (b.first + q)) 16
    let f := free / 2 ^ (32 * (b.first + q))
    { key := bits e 31 0, tb := bits e 63 32, value := bits e 127 64, rcore := f % 2 ^ 20, rchan := bits f 29 20, lvl := bit f 30 }
  { b with ndrop := bits w 53 30, entries := (List.range (bits w 29 21)).map entry }
/-- R167, R170, R201: the shared parts of a core from the image. -/
def Core.restoreShared (k : Core) (s : State) (area free : Nat) (ids : List Nat) : Core :=
  let tag (b : Nat) : Nat := s.peek (area + b) 32
  let cds := (List.range 4).filterMap fun j =>
    let d := s.peek (area + imgCarder + 128 * j) 128
    if d = 0 then none else some d
  let step (p : List CdCmd × List Nat) (q : Nat × Nat) : List CdCmd × List Nat :=
    let msg := bit q.1 831
    let x := cdOfSaved q.1 (s.nextReq + q.2) (p.2.headD 0)
    (p.1 ++ [{ x with after := ids, ended := k.cdEnds.getD q.2 none }], if msg then p.2 else p.2.drop 1)
  { k with
    hanks := Vector.ofFn fun j => BitVec.ofNat 128 (s.imgHank area j.val % 2 ^ 92)
    shape := shapeTable (s.mem.read (area + imgShape) 4096)
    handlers := (List.range 1024).filterMap fun ch =>
      if tag (imgHandlers + 32 * ch) = 0 then none else some (ch, BitVec.ofNat 256 (entClean (s.imgEntry area ch)))
    boxes := Vector.ofFn fun j => s.boxOf area j.val free
    carderN := (cds.zipIdx.foldl step ([], k.cdSeqs)).1
    footprint := s.peek (area + 36) 4, cdSeqs := [], cdEnds := [] }
/-- R164, R170: the scratchpad section goes back, with its tags and poison; its words are EMPTY (notes/assumptions/72.md). -/
def State.restorePad (s : State) (c area : Nat) : State :=
  let f := s.peek (area + 36) 4
  let pad := area + imgTwister + s.peek (area + 40) 4
  s.updCore c fun k =>
    let m := (k.spad.zeroBelow f).store 16 true 0 (s.mem.read pad f) (some (s.mem.getTags pad (f / 16)))
    let bad := (List.range (f / 16)).filter fun g => s.mem.poisoned 32 (pad + 16 * g) 16
    { k with spad := { m with poison := bad.foldl setAdd m.poison } }
/-- R170 steps 2 to 5: the contexts go back to their indices, and their load records are issued again. -/
def State.restoreCtxs (s : State) (c area : Nat) : State :=
  (s.core c).saved.foldl (fun s e =>
    match s.recordOf area e.idx with
    | none => s
    | some a =>
      let k := s.core c
      let own := s.peek (a + 92) 4
      let name := match e.handle.bind fun g => k.skeins.toList.getD g none with
        | some sk => if sk.urgent then own else sk.name
        | none => own
      (s.setCtx c e.idx (s.ctxOf a e name)).reissue c e.idx (s.loadsOf a e.loads)) s
/-- R169: the load records that the image of a core's saved contexts holds. -/
def State.savedLoads (s : State) (c area : Nat) : Nat :=
  ((s.core c).saved.map fun e => ((s.recordOf area e.idx).map fun a => s.peek (a + 90) 2).getD 0).foldl (· + ·) 0
/-- R162: whether a home has yet to answer a cancelled wait of a saved context. -/
def State.cancelsOut (s : State) (c : Nat) : Bool :=
  (s.core c).saved.any fun e => s.reqs.any fun r =>
    r.core == c && (match r.who with | .fibre i _ => i == e.idx && !s.alive c i (match r.who with | .fibre _ n => n | _ => 0) | _ => false)
/-- R161, R170, R230, R235: the image checks and is written back once its load records find request-table entries, and the level is LIVE; or the check fails, and its
kernel fails. -/
def execRestoreComplete : State → Host.Outcome State Fault Refusal := fun s =>
  let c := s.ev.core
  let k := s.core c
  match k.saveArea with
  | none => .next s
  | some area =>
    let t := s.peek (area + 40) 4
    if k.level != .restoring || s.cancelsOut c then .next s
    else if !s.imageOk c area then
      let s1 := s.updCore c fun x => { x with level := .saved }
      let s2 := s1.refuseLate c
      match k.idN.kernel with
      | some kid => .next (s2.finishKernel kid 7 0xFF)
      | none => .next s2
    else if (t ≠ 0 && k.tw.openB) || !s.entriesFree c (s.savedLoads c area) then .next s
    else
      let (f1, s1) := s.takeFree
      let (f2, s2) := s1.takeFree
      let s3 := s2.restorePad c area
      let first := s3.nextReq
      let s4 := s3.restoreCtxs c area
      let ids := (s4.reqs.filter fun r => first ≤ r.id).map (·.id)
      let twist (x : Core) : Core :=
        if t = 0 then x
        else
          let y := x.twRestore (s.mem.read (area + imgTwister) t) f2
          { y with tw := { y.tw with cmd := y.tw.cmd.map fun q => { q with after := ids } } }
      let s5 := s4.updCore c fun x =>
        let y := twist (x.restoreShared s area f1 ids)
        { y with level := .live, saved := [], hartN := k.hartN.ofRecord s (area + imgHart), inbox := { y.inbox with late := [] } }
      let s6 := { s5 with nextReq := s5.nextReq + 4 }
      let s7 := k.inbox.late.foldl (fun s m => s.applyDeposit c true m) (s6.markNames c .live)
      let s8 := s7.updCore c fun x => ((List.range 32).foldl (fun x i => x.stopAtTail i) x).wake
      match k.idN.kernel with
      | none => .next s8
      | some kid =>
        let back := (s8.kernel kid).all fun j => j.cores.all fun d => (s8.core d).level == .live
        .next (if back then s8.updKernel kid fun j => { j with st := if j.st == .preempted then .running else j.st, prev := none, part := none, lastSweep := s.agent.counter }
               else s8)

/-! ### Migration of Skeins (R218) -/

/-- R218 step 1: firmware starts to move a named Skein from core c to core d: its members halt, the name is MIGRATING,
and the old core forwards its deposits. -/
def State.migrate (s : State) (name c d : Nat) (lvl : Bool) : State :=
  let s1 := ((s.core c).members name).foldl (fun s i => s.haltCtx c i) s
  let s2 := match s1.nameEntry name with
    | some e => s1.setName (nameIndex name) { e with st := .migrating, core := d }
    | none => s1
  let s3 := s2.updCore c fun k => { k with forwarding := k.forwarding ++ [(name, d, 0)] }
  { s3 with agent := { s3.agent with migrations := s3.agent.migrations ++ [{ name := name, src := c, dst := d, level := lvl }] } }
/-- R218 step 2: member i of core c is installed at core d, and its load records are issued again; a joined member has
no handle (R220). -/
def State.moveMember (s : State) (c d i : Nat) (handle : Option Nat) : State :=
  match (s.core d).freeIdx with
  | none => s
  | some j =>
    let x := s.ctx c i
    let y := { x with st := restoredSt x.before.ctorIdx, before := .free, abortedWait := 0, pendingSet := 0, flaws := [], handle := if x.mbr then handle else none }
    ((s.setCtx d j y).setCtx c i { ({} : Ctx) with inc := x.inc }).reissue d j (x.flaws.flatMap Flaw.loads)
/-- R217, R218: a migration whose caches have all acknowledged ends. -/
def State.endMigration (s : State) (name src : Nat) : State :=
  let s1 := s.updCore src fun k => { k with forwarding := k.forwarding.filter fun f => f.1 != name }
  let s2 := match s1.nameEntry name with
    | some e => s1.setName (nameIndex name) { e with st := if e.st = NameSt.migrating then .live else e.st }
    | none => s1
  { s2 with agent := { s2.agent with migrations := s2.agent.migrations.filter fun g => g.name != name } }
/-- R218 steps 2, 3 and 5: the members of the k-th migration are installed once nothing of theirs is outstanding, their deposits
included (R231), the name
server and the caches learn the new core, and held deposits are applied. -/
def execSkeinMigrationInstalled : State → Host.Outcome State Fault Refusal := fun s =>
  match s.agent.migrations[s.ev.k]? with
  | none => .next s
  | some g =>
    let k := s.core g.src
    let ms := k.members g.name
    let wants := ms.map fun i => (k.ctx i).nreg
    let busy (i : Nat) : Bool := (s.ctx g.src i).st != .halted || s.outstanding g.src i || (k.ctxEntries i).any Entry.isDeposit
    if g.installed || ms.any busy || !(g.level || (s.core g.dst).level == .live) || !(s.core g.dst).canCreate g.level wants then .next s
    else
      -- the Skein's handle moves to a free one of the new core (notes/assumptions/44.md)
      let old := (ms.filter fun i => (k.ctx i).mbr).findSome? fun i => (k.ctx i).handle
      let sk := old.bind fun h => k.skeins.toList.getD h none
      let new := if sk.isNone then none else (List.range 16).find? fun h => ((s.core g.dst).skeins.toList.getD h none).isNone
      let s1 := ms.foldl (fun s i => s.moveMember g.src g.dst i new) s
      let idxs := ((s1.core g.dst).members g.name).filter fun i => (s1.ctx g.dst i).mbr
      let s2 := s1.updCore g.dst fun x =>
        let y := { x with residents := x.residents ++ [{ name := g.name, lvl := g.level, handle := new }] }
        match new, sk with
        | some h, some q => y.setSkein h (some { q with members := idxs })
        | _, _ => y
      let s3 := s2.updCore g.src fun x =>
        let y := { x with residents := x.residents.filter fun r => r.name != g.name }
        match old with
        | some h => y.setSkein h none
        | none => y
      let caches := ((s.nameEntry g.name).map (·.caches)).getD []
      let s4 := caches.foldl (fun s c => s.tellCache c g.name g.dst true) s3
      let s5 := s4.updCore g.src fun x => { x with forwarding := x.forwarding.map fun f => if f.1 = g.name then (f.1, f.2.1, caches.length) else f }
      let done (h : Migration) : Migration := if h.name = g.name then { h with installed := true, held := [] } else h
      let s6 : State := { s5 with agent := { s5.agent with migrations := s5.agent.migrations.map done } }
      let s7 := if caches.isEmpty then s6.endMigration g.name g.src else s6
      .next (s7.updCore g.dst fun x => { x with inbox := { x.inbox with deposits := g.held ++ x.inbox.deposits } })
/-- R218 step 4: the k-th acknowledgement of a cache lowers the forwarding count of its migration. -/
def execForwardingAck : State → Host.Outcome State Fault Refusal := fun s =>
  match s.agent.forwardAcks[s.ev.k]? with
  | none => .next s
  | some (_, name) =>
    let s1 := { s with agent := { s.agent with forwardAcks := s.agent.forwardAcks.eraseIdx s.ev.k } }
    match s.agent.migrations.find? fun g => g.name == name && g.installed with
    | none => .next s1
    | some g =>
      let s2 := s1.updCore g.src fun x => { x with forwarding := x.forwarding.map fun f => if f.1 = name then (f.1, f.2.1, f.2.2 - 1) else f }
      if (s2.core g.src).forwarding.any fun f => f.1 == name && f.2.2 != 0 then .next s2 else .next (s2.endMigration name g.src)

end Sys2Proof.Machine
end

