-- ==== Sys2Proof/Machine/Contain.lean ====
section
/-! DEFINITION. Errors and poison (R369), lasting faults (R375), and margin samples (R17, R377). -/

namespace Sys2Proof.Machine

/-! ### Errors (R338, R369) -/

/-- R338: counts an error in the frame that holds a PMA. -/
def State.noteFrame (s : State) (a : Nat) (f : Frame → Frame) : State :=
  match s.frameAt a with
  | some (b, r) => s.setFrame b (f r)
  | none => s
/-- R369: an uncorrectable error. -/
def State.uncorrectable (s : State) (e : ErrSite) : State :=
  match e with
  | .memory a =>
    if !pmaOk a 1 || s.mem.poisoned 32 a 1 then s
    else
      -- R370: a message whose ring record lies in the granule carries the poison
      let hit (k : Core) : Core := [true, false].foldl (fun k u => k.poisonRing (· == a / 32) u) k
      ({ s with
        cores := s.cores.map fun (k : Nat × Core) => if k.2.overflow.isSome then (k.1, hit k.2) else k
        mem := { s.mem with poison := setAdd s.mem.poison (a / 32) } } |>.noteFrame a fun f =>
        { f with poisoned := setAdd f.poisoned (a / 32) }).count 1
  | .scratch c o =>
    if c ≥ numCores || o ≥ spadSize then s
    else (s.updCore c fun k => { k with spad := { k.spad with poison := setAdd k.spad.poison (o / 16) } }).count 3
  | .vreg c i r =>
    if c ≥ numCores || i ≥ 32 || r ≥ (s.ctx c i).nreg then s
    else (s.updCtx c i fun x => { x with r := x.r.setCell r { x.r.cell r with bad := true } }).count 3
  | .block c a =>
    if c ≥ numCores || (s.core c).blocks.all fun b => b.addr != a || b.data.isNone then s
    else (s.updCore c fun k => { k with blocks := k.blocks.map fun b =>
      if b.addr = a && b.data.isSome then { b with data := none, failed := some cFETCH } else b }).count 3
  | .accRow c b r =>
    if c ≥ numCores || r ≥ 128 then s
    else
      let bad (x : Bank) : Bank := { x with poison := setAdd x.poison r }
      (s.updCore c fun k =>
        { k with tw := if b = 0 then { k.tw with bank0 := bad k.tw.bank0 } else { k.tw with bank1 := bad k.tw.bank1 } }).count 3
/-- R369: an uncorrectable error strikes where the event says. -/
def execUncorrectableError : State → Host.Outcome State Fault Refusal := fun s => .next (s.uncorrectable s.ev.site)
/-- R338, R369: a correctable error is corrected without effect and counted. -/
def execCorrectableError : State → Host.Outcome State Fault Refusal := fun s =>
  match s.ev.site with
  | .memory a => .next ((s.noteFrame a fun f => { f with corrected := f.corrected + 1 }).count 0)
  | _ => .next (s.count 2)

/-! ### Lasting faults (R375) -/

/-- R351: the hops between two cores on the torus. -/
def hops (c d : Nat) : Nat :=
  let far (n : Nat) : Nat := min n (48 - n)
  far ((coreX d + 48 - coreX c) % 48) + far ((coreY d + 48 - coreY c) % 48)
/-- R375: whether a Skein of core c may move to core d: one of its kernel placement that can create its members. -/
def State.canMove (s : State) (c d : Nat) (lvl : Bool) (ns : List Nat) : Bool :=
  let a := (s.core c).ident lvl
  let b := (s.core d).ident lvl
  let k := s.core d
  c != d && b.kernel.isSome && a.kernel == b.kernel && coreX c + b.x == coreX d + a.x && coreY c + b.y == coreY d + a.y &&
  !k.stopped && !s.coreFenced d && (lvl || k.level == .live) && k.canCreate lvl ns
/-- R375: the nearest core that can take a Skein; of equally near ones the lowest (notes/assumptions/45.md). -/
def State.nearest (s : State) (c : Nat) (lvl : Bool) (ns : List Nat) : Option Nat :=
  ((List.range numCores).filter fun d => s.canMove c d lvl ns).foldl (fun best d =>
    match best with
    | none => some d
    | some b => if hops c d < hops c b then some d else some b) none
/-- R375: firmware starts to migrate the LIVE Skeins of core c. -/
def State.migrateAll (s : State) (c : Nat) : State :=
  (s.core c).residents.foldl (fun s r =>
    match s.nameEntry r.name with
    | some e =>
      if e.st != .live || e.core != c || (!r.lvl && (s.core c).level != .live) then s
      else match s.nearest c r.lvl (((s.core c).members r.name).map fun i => (s.ctx c i).nreg) with
        | some d => s.migrate r.name c d r.lvl
        | none => s
    | none => s) s

/-- R375: cores are drained, and then the LIVE Skeins of each migrate, so that none moves to another of them. -/
def State.drainAll (s : State) (cs : List Nat) : State :=
  cs.foldl (fun s c => s.migrateAll c) (cs.foldl (fun s c => s.drainCore c) s)

/-! ### Margins (R16, R17, R377) -/

/-- R17: position p and spare mark of a cluster-row, numbered die · 3 + row. Manufacturing test leaves them to the part; the
model takes p = 6 and a spare not in use for every row at State.reset (notes/assumptions/79.md). -/
def Agent.row (a : Agent) (r : Nat) : Nat × Bool := (tabGet a.rows r).getD (6, false)
/-- R16: the cluster-row of a logical cluster, and its column in it. -/
def rowOf (n : Nat) : Nat := ((n / 12 / 3) * 2 + (n % 12) / 6) * 3 + n / 12 % 3
def colOf (n : Nat) : Nat := n % 12 % 6
/-- R16, R17: the physical cluster, numbered die · 21 + row · 7 + position, of a logical cluster. -/
def Agent.physical (a : Agent) (n : Nat) : Nat :=
  7 * rowOf n + (if colOf n < (a.row (rowOf n)).1 then colOf n else colOf n + 1)
/-- The cores of a logical cluster. -/
def clusterCores (n : Nat) : List Nat :=
  (List.range 16).map fun i => (4 * (n / 12) + i / 4) * 48 + (4 * (n % 12) + i % 4)
/-- R375: a lasting fault drains its core, and its LIVE Skeins migrate; a link fault (R347), which the event's `b` says,
does so for every core of the cluster. -/
def execLastingFault : State → Host.Outcome State Fault Refusal := fun s =>
  let c := s.ev.core
  if c ≥ numCores then .next s
  else .next (s.drainAll (if s.ev.b then clusterCores (coreCluster c) else [c]))
/-- R377: firmware samples the margin codes of a physical cluster, and plans its rail, in steps of 5 mV. -/
def execMarginSample : State → Host.Outcome State Fault Refusal := fun s =>
  let n := s.ev.k
  let codes := s.ev.codes
  if n ≥ 168 || codes.length ≠ 8 || codes.any (· > 63) then .next s
  else
    let m := codes.foldl min 63
    let a := s.agent
    let rail := (tabGet a.rails n).getD 0
    let rail1 := if m < 8 && rail < 20 then rail + 1 else if m > 24 && rail > 0 then rail - 1 else rail
    let a1 := { a with
      rails := tabSet a.rails n rail1, margins := tabSet a.margins n codes
      atRisk := if m < 8 && rail ≥ 20 then setAdd a.atRisk n else a.atRisk }
    let s1 := { s with agent := a1 }
    if m < 2 then
      match (List.range 144).find? fun l => a.physical l == n with
      | some l => .next (s1.drainAll (clusterCores l))
      | none => .next s1
    else .next s1

end Sys2Proof.Machine
end

