-- ==== Sys2Proof/Machine/Link.lean ====
section
/-! DEFINITION. The Reel (R349 to R353), the pod gateways, their frames, streams and ports (R355 to R361, R363), and scale-out
(R362). -/

namespace Sys2Proof.Machine

/-! ### Ejecting a flit (R173, R351) -/

/-- R173: whether an endpoint can take a flit: one of its 32 reassembly entries is free, or the message holds one. -/
def State.canTake (s : State) (f : Flit) : Bool :=
  f.port != 0 ||
  (let b := (s.core (f.dy * 48 + f.dx)).inbox
   (b.reasm.any fun r => r.msg == f.msg && !r.got.contains f.fidx) || b.reasm.length + b.arrived.length + b.deposits.length < 32)
/-- R173: an endpoint takes a flit; the last one completes its message. -/
def State.eject (s : State) (f : Flit) : State :=
  let e : Endpoint := ⟨f.dx, f.dy, f.port⟩
  if f.nflits ≤ 1 then s.deliver e f.msg
  else if f.port = 0 then
    let c := f.dy * 48 + f.dx
    let b := (s.core c).inbox
    let mine (r : Reasm) : Bool := r.msg == f.msg && !r.got.contains f.fidx
    match b.reasm.find? mine with
    | none => s.updCore c fun k => { k with inbox := { b with reasm := b.reasm ++ [{ msg := f.msg, nflits := f.nflits, got := [f.fidx] }] } }
    | some r =>
      if r.got.length + 1 = f.nflits then
        (s.updCore c fun k => { k with inbox := { b with reasm := b.reasm.erase r } }).deliver e f.msg
      else s.updCore c fun k => { k with inbox := { b with reasm := b.reasm.map fun q => if q == r then { q with got := f.fidx :: q.got } else q } }
  else
    let mine (r : EndReasm) : Bool := r.x == f.dx && r.y == f.dy && r.port == f.port && r.msg == f.msg && !r.got.contains f.fidx
    match s.ends.find? mine with
    | none => { s with ends := s.ends ++ [{ x := f.dx, y := f.dy, port := f.port, msg := f.msg, got := [f.fidx] }] }
    | some r =>
      if r.got.length + 1 = f.nflits then ({ s with ends := s.ends.erase r } : State).deliver e f.msg
      else { s with ends := s.ends.map fun q => if q == r then { q with got := f.fidx :: q.got } else q }

/-! ### Routing (R351) -/

/-- A step on the torus. -/
def hopTo (x y : Nat) (d : Dir) : Nat × Nat :=
  match d with
  | .north => (x, (y + 47) % 48)
  | .south => (x, (y + 1) % 48)
  | .east => ((x + 1) % 48, y)
  | .west => ((x + 47) % 48, y)
/-- R351: the productive directions along one dimension, of a distance modulo 48; at 24 both are, `up` first. -/
def productive (d : Nat) (up down : Dir) : List Dir :=
  if d = 0 then [] else if d < 24 then [up] else if d = 24 then [up, down] else [down]
/-- R351: the productive directions of a flit at a router. -/
def Flit.prod (f : Flit) : List Dir × List Dir :=
  (productive ((f.dx + 48 - f.x) % 48) .east .west, productive ((f.dy + 48 - f.y) % 48) .south .north)
/-- R351: the outputs in the order in which a flit prefers them. -/
def Flit.pref (f : Flit) : List Dir :=
  let (px, py) := f.prod
  let far (d : Nat) : Nat := min d (48 - d)
  let xFirst := far ((f.dx + 48 - f.x) % 48) ≥ far ((f.dy + 48 - f.y) % 48)
  let first := if xFirst then px.take 1 else py.take 1
  let others := ([Dir.east, .south, .west, .north]).filter fun d => (px ++ py).contains d && !first.contains d
  let rest := ([Dir.north, .east, .south, .west]).filter fun d => !(px ++ py).contains d
  first ++ others ++ rest
/-- R351: whether a flit ranks before another: higher age, then lower rcore, seq and fidx. -/
def Flit.before (f g : Flit) : Bool :=
  f.age > g.age || (f.age == g.age && (f.msg.rcore < g.msg.rcore || (f.msg.rcore == g.msg.rcore &&
    (f.msg.seq < g.msg.seq || (f.msg.seq == g.msg.seq && f.fidx ≤ g.fidx)))))
/-- R351: flits in rank order. -/
def rankIn (f : Flit) : List Flit → List Flit
  | [] => [f]
  | g :: r => if f.before g then f :: g :: r else g :: rankIn f r
def rankFlits (fs : List Flit) : List Flit := fs.foldr rankIn []

/-- What a router has done in a cycle: the state, the flits that leave, the outputs still free and the ports used. -/
structure Routed where
  s : State
  out : List Flit
  free : List Dir
  used : List Nat

/-- R351: a router ejects or forwards one flit. -/
def Routed.one (r : Routed) (f : Flit) : Routed :=
  if f.x = f.dx && f.y = f.dy && !r.used.contains f.port && r.s.canTake f then { r with s := r.s.eject f, used := f.port :: r.used }
  else match f.pref.find? r.free.contains with
    | none => { r with out := r.out ++ [f] }
    | some d =>
      let p := hopTo f.x f.y d
      let good := (f.prod.1 ++ f.prod.2).contains d
      { r with out := r.out ++ [{ f with x := p.1, y := p.2, age := if good then f.age else min (f.age + 1) 255 }], free := r.free.erase d }
/-- R351: the head of an injection queue, which serves the endpoints of its router in round robin. -/
def InjQ.head? (q : InjQ) : Option Flit :=
  (List.range 4).findSome? fun j => q.flits.find? fun f => f.src == (q.last + 1 + j) % 4
/-- R366: whether the router of a fenced core refuses a message of the core whose first flit is at the head. -/
def State.refusesFlit (s : State) (q : InjQ) (f : Flit) : Bool :=
  let c := q.y * 48 + q.x
  f.src == 0 && f.fidx == 0 && s.coreFenced c && f.msg.rcore == s.addrOf c && !(f.msg.answer && f.msg.flag flagNack) &&
  (if f.msg.dkind = 1 then s.depositLeaves c f.msg else s.leavesFence c f.msg)
/-- R351, R353: a router injects the head of its queue where a productive output is free and no throttle forbids it. R366: at
the edge of a fenced rectangle it refuses the head's message instead. -/
def Routed.inject (r : Routed) (q : InjQ) (mayInject : Bool) : Routed × InjQ :=
  match q.head? with
  | none => (r, q)
  | some f =>
    if r.s.refusesFlit q f then
      ({ r with s := r.s.fenceRefuse (q.y * 48 + q.x) f.msg },
        { q with waited := 0, throttle := false, last := f.src, flits := (List.range f.nflits).foldl (fun l i => l.erase { f with fidx := i }) q.flits })
    else match if mayInject then f.pref.find? fun d => r.free.contains d && (f.prod.1 ++ f.prod.2).contains d else none with
    | none => (r, { q with waited := q.waited + 1 })
    | some d =>
      let p := hopTo f.x f.y d
      ({ r with out := r.out ++ [{ f with x := p.1, y := p.2, age := 0 }], free := r.free.erase d }, { q with waited := 0, throttle := false, last := f.src, flits := q.flits.erase f })
/-- R351: every router of a plane routes its flits of one cycle, and injects. -/
def State.routePlane (s : State) (fs : List Flit) (qs : List InjQ) : State × List Flit × List InjQ :=
  let throttled := qs.any (·.throttle)
  let places := (fs.map (fun f => (f.x, f.y)) ++ qs.map (fun q => (q.x, q.y))).eraseDups
  places.foldl (fun a p =>
    let (s, out, qout) := a
    let here := rankFlits (fs.filter fun f => f.x == p.1 && f.y == p.2)
    let r := here.foldl Routed.one { s := s, out := [], free := [.north, .east, .south, .west], used := [] }
    match qs.find? fun q => q.x == p.1 && q.y == p.2 with
    | none => (r.s, out ++ r.out, qout)
    | some q =>
      let (r1, q1) := r.inject q (!throttled || q.throttle)
      (r1.s, out ++ r1.out, if q1.flits.isEmpty then qout else qout ++ [q1])) (s, [], [])
/-- R351: one cycle of a plane of the Reel: the reply plane where the event's `b` says so. -/
def execReelFlitRouting : State → Host.Outcome State Fault Refusal := fun s =>
  if s.ev.b then
    let (s1, out, qs) := ({ s with reel1 := [], inj1 := [] } : State).routePlane s.reel1 s.inj1
    .next { s1 with reel1 := out ++ s1.reel1, inj1 := qs ++ s1.inj1 }
  else
    let (s1, out, qs) := ({ s with reel0 := [], inj0 := [] } : State).routePlane s.reel0 s.inj0
    .next { s1 with reel0 := out ++ s1.reel0, inj0 := qs ++ s1.inj0 }
/-- R353: the router at column n and row m raises the throttle of a plane once its head has waited 512 cycles. -/
def execReelThrottle : State → Host.Outcome State Fault Refusal := fun s =>
  let up (q : InjQ) : InjQ := if q.x == s.ev.n && q.y == s.ev.m && q.waited ≥ 512 then { q with throttle := true } else q
  if s.ev.b then .next { s with inj1 := s.inj1.map up } else .next { s with inj0 := s.inj0.map up }

/-! ### Frames (R355, R363) -/

/-- R355: the frame header as a number. -/
def LinkFrame.header (f : LinkFrame) : Nat :=
  f.kep % 256 * 2 ^ 8 + b01 f.ord * 2 ^ 16 + b01 f.enc * 2 ^ 17 + f.pclass % 4 * 2 ^ 18 + b01 f.gen * 2 ^ 20 + f.fkind * 2 ^ 21 +
  f.lack % 4096 * 2 ^ 24 + f.lseq % 4096 * 2 ^ 36 + f.tseq % 2 ^ 32 * 2 ^ 48 + f.spkg * 2 ^ 80 + f.dpkg * 2 ^ 88
/-- R355: a frame header's fields. -/
def frmOf (h : Nat) : LinkFrame :=
  { dpkg := bits h 95 88, spkg := bits h 87 80, tseq := bits h 79 48, lseq := bits h 47 36, lack := bits h 35 24
    fkind := bits h 23 21, gen := bit h 20, pclass := bits h 19 18, enc := bit h 17, ord := bit h 16, kep := bits h 15 8 }
/-- R363: the nonce and the additional data of a frame. -/
def LinkFrame.nonce (f : LinkFrame) : List Byte :=
  bytesOf f.tseq 4 ++ bytesOf f.pclass 1 ++ bytesOf f.kep 1 ++ bytesOf f.spkg 1 ++ bytesOf f.dpkg 1 ++ bytesOf 0 4
def LinkFrame.aad (f : LinkFrame) : List Byte := bytesOf (setBits f.header 24 24 0) 12
/-- R171: a message as bytes. -/
def Msg.bytes (m : Msg) : List Byte := bytesOf m.header 16 ++ m.payload
/-- R363, R388: the link key for a package and a direction: the newest, or that of an epoch. -/
def State.linkKey (s : State) (pkg : Nat) (recv : Bool) : Option LinkKey := s.agent.linkKeys.find? fun k => k.pkg == pkg && k.recv == recv
def State.linkKeyAt (s : State) (pkg : Nat) (recv : Bool) (kep : Nat) : Option LinkKey :=
  (s.agent.linkKeys.find? fun k => k.pkg == pkg && k.recv == recv && k.epoch == kep).orElse fun _ => s.linkKey pkg recv
/-- R355, R363: the bytes of a frame; one that is sent again keeps its epoch, and the key of it. -/
def State.frameBytes (s : State) (f : LinkFrame) : List Byte :=
  let body := match f.msg with | some m => m.bytes | none => []
  let sealed := match if f.enc then s.linkKeyAt f.dpkg false f.kep else none with
    | some k => gcmSeal k.alg k.key f.nonce f.aad body
    | none => body
  let d := bytesOf f.header 12 ++ sealed
  d ++ bytesOf (crc32c d) 4
/-- R355: a frame's header and body, where its CRC is good and nothing is reserved. -/
def parseFrame (d : List Byte) : Option (LinkFrame × List Byte) :=
  let n := d.length - 4
  let h := ofBytes (d.take 12)
  if d.length < 16 || crc32c (d.take n) != ofBytes (d.drop n) || bits h 7 0 != 0 || bits h 23 21 > 4 then none
  else some (frmOf h, (d.take n).drop 12)
/-- R363: the plaintext of a frame from package spkg; none where its check fails, or where it should be encrypted. -/
def State.openFrame (s : State) (f : LinkFrame) (body : List Byte) : Option (List Byte) :=
  match s.linkKeyAt f.spkg true f.kep with
  | some k => if f.enc then gcmOpen k.alg k.key f.nonce f.aad body else none
  | none => if f.enc then none else some body

/-! ### Ports (R356, R361) -/

def Pod.port (p : Pod) (i : Nat) : Port := if h : i < 38 then p.ports[i] else {}
def State.setPort (s : State) (i : Nat) (q : Port) : State :=
  if h : i < 38 then { s with pod := { s.pod with ports := s.pod.ports.set i q } } else s
/-- Sends a frame on a port, with lack of R356. -/
def State.sendFrame (s : State) (i : Nat) (f : LinkFrame) : State :=
  let q := s.pod.port i
  let g := { f with lack := (q.expect + 4095) % 4096 }
  ({ s with pod := { s.pod with out := (i, s.frameBytes g) :: s.pod.out } } : State).setPort i { q with since := s.agent.counter }
/-- R356: sends a data frame with the next lseq, and keeps it until it is acknowledged. -/
def State.sendData (s : State) (i : Nat) (f : LinkFrame) : State :=
  let q := s.pod.port i
  let g := { f with lseq := q.lseq }
  (s.setPort i { q with lseq := (q.lseq + 1) % 4096, unacked := q.unacked ++ [g] }).sendFrame i g
/-- R356: sends an ack-only frame. -/
def State.sendAck (s : State) (i : Nat) : State := s.sendFrame i { spkg := s.pkg, fkind := 1, lseq := (s.pod.port i).lseq }
/-- R356: frees the frames up to lack. -/
def State.takeLack (s : State) (i lack : Nat) : State :=
  let q := s.pod.port i
  match q.unacked.findIdx? fun f => f.lseq == lack with
  | some k =>
    let rest := q.unacked.drop (k + 1)
    s.setPort i { q with unacked := rest, resends := q.resends.filter fun e => rest.any fun f => f.lseq == e.1 }
  | none => s
/-- R356: go-back-N: every frame after lack is sent again, and counted; R357: up to the first of a paused class. -/
def State.goBack (s : State) (i : Nat) : State :=
  let q := s.pod.port i
  if q.unacked.isEmpty then s
  else
    let go := q.unacked.takeWhile fun f => !bit q.paused f.pclass
    let n := go.foldl (fun t f => tabSet t f.lseq ((tabGet t f.lseq).getD 0 + 1)) q.resends
    let s1 := s.setPort i { q with resends := n, held := go.length < q.unacked.length }
    go.foldl (fun s f => (s.sendFrame i f).count 10) s1
/-- R359, R361: the frames that a port has not got through may be resent on other planes at once. -/
def State.abandonPort (s : State) (i : Nat) : State :=
  { s with pod := { s.pod with tx := s.pod.tx.map fun t =>
      { t with unacked := t.unacked.map fun u => if u.2.1 = i then (u.1, i, 0) else u } } }

/-! ### The gateways (R357 to R359, R362, R363) -/

/-- R358, R360: the plane set of a destination package under a generation. -/
def Pod.planesAt (p : Pod) (gen : Bool) (d : Nat) : List Nat := planesOf ((tabGet (if gen then p.sets1 else p.sets0) d).getD 0)
/-- R358: the plane set of a destination package under the active generation. -/
def Pod.planes (p : Pod) (d : Nat) : List Nat := p.planesAt p.gen d
/-- R355: the class of a message. -/
def Msg.pclass (m : Msg) : Nat := 2 * b01 m.prio + b01 m.answer
/-- R356, R357: whether a port takes a data frame of a class. -/
def Pod.takes (p : Pod) (cls i : Nat) : Bool :=
  let q := p.port i
  q.st == .up && !bit q.paused cls && !q.held && q.unacked.length < 2048
/-- R358: the first plane after the last one used, round robin. -/
def nextPlane (rr : Nat) (ps : List Nat) : Option Nat := (ps.find? (· > rr)).orElse fun _ => ps.head?
def Pod.txOf (p : Pod) (d cls : Nat) : TxStream := (p.tx.find? fun t => t.dpkg == d && t.pclass == cls).getD { dpkg := d, pclass := cls }
def State.setTx (s : State) (t : TxStream) : State :=
  { s with pod := { s.pod with tx := (s.pod.tx.filter fun q => !(q.dpkg == t.dpkg && q.pclass == t.pclass)) ++ [t] } }
/-- R358: the plane on which the gateway of I/O die io sends a message; none where it has to wait. -/
def State.choosePlane (s : State) (m : Msg) (io : Nat) (own : List Nat) : Option Nat :=
  let ok := own.filter (s.pod.takes m.pclass)
  if m.flag flagOrdered then (s.planeFor m).filter fun p => ok.contains p else nextPlane (if io = 0 then s.pod.rr0 else s.pod.rr1) ok
/-- R363: a stream before its next frame: a key change frame starts a new epoch; none where it has to wait. -/
def State.startEpoch (s : State) (t : TxStream) (plane : Nat) : Option (State × TxStream) :=
  let e := ((s.linkKey t.dpkg false).map (·.epoch)).getD 0
  if e = t.epoch then (if t.tseq + 1 ≥ 2 ^ 32 then none else some (s, t))
  else if !t.unacked.isEmpty then none
  else
    let f : LinkFrame := { dpkg := t.dpkg, spkg := s.pkg, fkind := 4, gen := s.pod.gen, pclass := t.pclass, enc := true, kep := e, lseq := (s.pod.port plane).lseq }
    some (s.sendFrame plane f, { t with epoch := e, tseq := 0 })
/-- R358: an unordered message has gone out on a plane of the gateway of I/O die io. -/
def State.sprayed (s : State) (m : Msg) (io plane : Nat) : State :=
  if m.flag flagOrdered then s
  else if io = 0 then { s with pod := { s.pod with rr0 := plane } } else { s with pod := { s.pod with rr1 := plane } }
/-- R355, R359: sends a message on a plane as the next frame of its stream. -/
def State.sendMsg (s : State) (m : Msg) (plane : Nat) : Option State :=
  let t := s.pod.txOf m.dpkg m.pclass
  if t.unacked.length ≥ 4096 then none
  else match s.startEpoch t plane with
    | none => none
    | some (s1, t1) =>
      let f : LinkFrame := { dpkg := m.dpkg, spkg := s.pkg, tseq := t1.tseq, gen := s.pod.gen, pclass := m.pclass
                             enc := (s.linkKey m.dpkg false).isSome, ord := m.flag flagOrdered, kep := t1.epoch, msg := some m }
      let s2 := s1.sendData plane f
      some (s2.setTx { t1 with tseq := t1.tseq + 1, unacked := t1.unacked ++ [(f, plane, s.agent.counter + 200000)] })
/-- R358, R362: the k-th message at the gateway of I/O die n is sent on a plane, sent to a scale-out peer by
IO1, passed to the other die, refused with NOCORE, or waits. -/
def execGatewayMessage : State → Host.Outcome State Fault Refusal := fun s =>
  let io := s.ev.n
  let q := if io = 0 then s.pod.gate0 else s.pod.gate1
  match q[s.ev.k]? with
  | none => .next s
  | some m =>
    let rest := q.eraseIdx s.ev.k
    let taken (s : State) : State := if io = 0 then { s with pod := { s.pod with gate0 := rest } } else { s with pod := { s.pod with gate1 := rest } }
    match (tabGet s.pod.map m.dpkg).getD 0 with
    | 0 =>
      if m.answer then .next ((taken s).count 14)
      else .next ((taken s).postFrom (coreX (m.rcore % 4096 % numCores)) (if io = 0 then 0 else 47) (Msg.refusal s.firmwareAddr rNoCore m))
    | 1 =>
      let ps := s.pod.planes m.dpkg
      let own := ps.filter fun p => if io = 0 then p < 18 else p ≥ 18
      if own.isEmpty then
        if ps.isEmpty then .next s
        else if io = 0 then
          let s1 := taken s
          .next { s1 with pod := { s1.pod with gate1 := s1.pod.gate1 ++ [m] } }
        else
          let s1 := taken s
          .next { s1 with pod := { s1.pod with gate0 := s1.pod.gate0 ++ [m] } }
      else match s.choosePlane m io own with
        | none => .next s
        | some p =>
          match (taken s).sendMsg m p with
          | none => .next s
          | some s1 => .next (s1.sprayed m io p)
    | n + 2 =>
      let s1 := taken s
      if io = 0 then .next { s1 with pod := { s1.pod with gate1 := s1.pod.gate1 ++ [m] } }
      else match nextPlane s.pod.ueRr ([36, 37].filter fun p => (s.pod.port p).st == .up) with
        | none => .next s
        | some p =>
          .next { s1 with pod := { s1.pod with ueRr := p, ueOut := (n, b01 (!m.flag flagOrdered), p, m) :: s1.pod.ueOut } }

/-! ### Frames that arrive -/

def Pod.rxOf (p : Pod) (a cls : Nat) : RxStream := (p.rx.find? fun r => r.spkg == a && r.pclass == cls).getD { spkg := a, pclass := cls }
def State.setRx (s : State) (r : RxStream) : State :=
  { s with pod := { s.pod with rx := (s.pod.rx.filter fun q => !(q.spkg == r.spkg && q.pclass == r.pclass)) ++ [r] } }
/-- R350: a message from outside enters the Reel at an I/O die, in the column of its destination. -/
def State.fromOutside (s : State) (y : Nat) (m : Msg) : State :=
  if m.dpkg ≠ s.pkg then s
  else
    let c := bits m.dest 11 0
    let x := if m.dkind = 1 then (serviceEndpoint (bits m.dest 23 8 % 144)).x else if c < numCores then coreX c else 0
    s.postFrom x y m
/-- R359: the ordered messages whose turn has come enter the Reel at their I/O dies; those that stay. Each has its tseq + 1, or 0
where every message before it has arrived. -/
def State.injectTurn (s : State) (low : Nat) (l : List (Nat × Bool × Msg)) : State × List (Nat × Bool × Msg) :=
  l.foldl (fun (a : State × List (Nat × Bool × Msg)) p =>
    let key (m : Msg) : Nat × Nat × Nat := (m.rcore, m.dest, m.chan)
    let m := p.2.2
    let blocked := a.1.pod.inOrder.contains (key m) || a.2.any fun q => key q.2.2 == key m
    if p.1 ≤ low && m.dpkg != s.pkg then a
    else if p.1 ≤ low && !blocked then
      (({ a.1 with pod := { a.1.pod with inOrder := a.1.pod.inOrder ++ [key m] } } : State).fromOutside (if p.2.1 then 47 else 0) m, a.2)
    else (a.1, a.2 ++ [p])) (s, [])
/-- R359: the same for a stream. -/
def State.injectOrdered (s : State) (r : RxStream) : State :=
  let (s1, kept) := s.injectTurn r.low r.ordered
  s1.setRx { r with ordered := kept }
/-- R362: the same for the ordered packets. -/
def State.injectUe (s : State) : State :=
  let (s1, kept) := s.injectTurn 0 s.pod.ueIn
  { s1 with pod := { s1.pod with ueIn := kept } }
/-- R359: every tseq below the first one missing has arrived. -/
def RxStream.slide (r : RxStream) : Nat → RxStream
  | 0 => r
  | n + 1 => if r.got.contains r.low then ({ r with got := r.got.erase r.low, low := r.low + 1 } : RxStream).slide n else r
/-- R359: inserts an ordered message by tseq. -/
def insertSeq (t : Nat) (m : Bool × Msg) : List (Nat × Bool × Msg) → List (Nat × Bool × Msg)
  | [] => [(t, m)]
  | p :: r => if t < p.1 then (t, m) :: p :: r else p :: insertSeq t m r
/-- R363: a frame whose check fails is discarded and counted; the eighth of an epoch stops its stream. -/
def State.failFrame (s : State) (f : LinkFrame) : State :=
  let r := s.pod.rxOf f.spkg f.pclass
  let s1 := (s.setRx { r with fails := r.fails + 1, stopped := r.stopped || r.fails + 1 ≥ 8 }).count 12
  if r.fails + 1 = 8 then { s1 with pldm := 4 :: s1.pldm } else s1
/-- R359: a transport ack of a stream on an UP plane, if there is one. -/
def State.transportAck (s : State) (r : RxStream) : State :=
  match (s.pod.planes r.spkg).find? fun p => (s.pod.port p).st == .up with
  | none => s
  | some p =>
    let f : LinkFrame := { dpkg := r.spkg, spkg := s.pkg, tseq := r.low, fkind := 2, gen := s.pod.gen, pclass := r.pclass
                           enc := (s.linkKey r.spkg false).isSome, kep := r.epoch, lseq := (s.pod.port p).lseq }
    (s.sendFrame p f).setRx { r with sinceAck := 0, ackAt := s.agent.counter }
/-- R359, R363: the transport takes a data frame that arrived on a port, and acknowledges the 256th. -/
def State.takeData (s : State) (i : Nat) (f : LinkFrame) (body : List Byte) : State :=
  let r := s.pod.rxOf f.spkg f.pclass
  if r.stopped then s
  else match if f.kep = r.epoch then s.openFrame f body else none with
    | none => s.failFrame f
    | some p =>
      if f.tseq < r.low || r.got.contains f.tseq then s.count 11
      else if f.tseq ≥ r.low + 4096 then s
      else
        let h := ofBytes (p.take 16)
        let m := { msgOf h (p.drop 16) with rsvd := 0 }
        let r1 := { r with got := f.tseq :: r.got, sinceAck := r.sinceAck + 1 }
        let r2 := r1.slide 4096
        let s1 := if f.ord then s.injectOrdered { r2 with ordered := insertSeq (f.tseq + 1) (decide (18 ≤ i), m) r2.ordered }
          else ((s.setRx r2).fromOutside (if i < 18 then 0 else 47) m).injectOrdered r2
        if r2.sinceAck < 256 then s1 else s1.transportAck (s1.pod.rxOf f.spkg f.pclass)
/-- R355, R356: a frame of a kind on an UP pod port: a bad one is discarded, counted and answered with an ack-only frame. -/
def frameEvent (kind : Nat) (act : State → Nat → LinkFrame → List Byte → State) : State → Host.Outcome State Fault Refusal := fun s =>
  let i := s.ev.k
  if i ≥ 36 || (s.pod.port i).st != .up then .next s
  else match parseFrame s.ev.data with
    | none => .next ((s.count 9).sendAck i)
    | some (f, body) => if f.fkind ≠ kind then .next s else .next (act (s.takeLack i f.lack) i f body)
/-- R356, R359: a data frame on pod port k. -/
def execPodDataFrame : State → Host.Outcome State Fault Refusal :=
  frameEvent 0 fun s i f body =>
    let q := s.pod.port i
    if f.lseq ≠ q.expect then s.sendAck i
    else (s.setPort i { q with expect := (q.expect + 1) % 4096 }).takeData i f body
/-- R356: an ack-only frame: every frame after lack is sent again. -/
def execPodAckOnlyFrame : State → Host.Outcome State Fault Refusal := frameEvent 1 fun s i _ _ => s.goBack i
/-- R359: a transport ack frees the frames below its tseq. -/
def execPodTransportAck : State → Host.Outcome State Fault Refusal :=
  frameEvent 2 fun s _ f body =>
    match s.openFrame f body with
    | none => s.failFrame f
    | some _ =>
      let t := s.pod.txOf f.spkg f.pclass
      if f.kep ≠ t.epoch then s else s.setTx { t with unacked := t.unacked.filter fun u => f.tseq ≤ u.1.tseq }
/-- R357: a pause frame names the classes paused; a resend that waited for one goes on. Where the event's `b` says so, the
gateway sends one on port k, of the request classes that `n` names (notes/assumptions/103.md). -/
def execPodPauseFrame : State → Host.Outcome State Fault Refusal := fun s =>
  if s.ev.b then
    let q := s.pod.port s.ev.k
    let cls := s.ev.n &&& 5
    if s.ev.k ≥ 36 || q.st != .up then .next s
    else .next ((s.setPort s.ev.k { q with pausing := cls }).sendFrame s.ev.k { spkg := s.pkg, tseq := cls, fkind := 3, lseq := q.lseq })
  else frameEvent 3 (fun s i f _ =>
    let q := s.pod.port i
    let s1 := s.setPort i { q with paused := f.tseq % 16 }
    if q.held then s1.goBack i else s1) s
/-- R363: a key change frame moves a stream to its next epoch, and tseq and the window restart. -/
def execPodKeyChangeFrame : State → Host.Outcome State Fault Refusal :=
  frameEvent 4 fun s _ f body =>
    match s.openFrame f body with
    | none => s.failFrame f
    | some _ =>
      let r := s.pod.rxOf f.spkg f.pclass
      if f.kep = r.epoch then s
      else s.setRx { r with epoch := f.kep, low := 0, got := [], fails := 0, stopped := false, sinceAck := 0
                            ordered := r.ordered.map fun p => (0, p.2) }

/-! ### Timers, notices and training -/

/-- R356: 64 cycles without a frame sent. -/
def execLinkAckTimer : State → Host.Outcome State Fault Refusal := fun s =>
  let q := s.pod.port s.ev.k
  if s.ev.k < 36 && q.st == .up && s.agent.counter ≥ q.since + 64 then .next (s.sendAck s.ev.k) else .next s
/-- R359: the transport ack of the stream from package k of class n, which comes at the latest 1,024 cycles after the last. -/
def execTransportAckTimer : State → Host.Outcome State Fault Refusal := fun s =>
  match s.pod.rx.find? fun r => r.spkg == s.ev.k && r.pclass == s.ev.n with
  | none => .next s
  | some r => .next (s.transportAck r)
/-- R359: the frame with tseq m to package k of class n, whose acknowledgement is overdue, goes out on another plane
of the generation that it bears (R360). -/
def execTransportResendTimeout : State → Host.Outcome State Fault Refusal := fun s =>
  match s.pod.tx.find? fun t => t.dpkg == s.ev.k && t.pclass == s.ev.n with
  | none => .next s
  | some t =>
    match t.unacked.find? fun u => u.1.tseq == s.ev.m with
    | none => .next s
    | some (f, i, due) =>
      let others := (s.pod.planesAt f.gen t.dpkg).filter fun p => p != i && s.pod.takes t.pclass p
      if s.agent.counter < due then .next s
      else match nextPlane i others with
        | none => .next s
        | some p =>
          let s1 := s.sendData p f
          .next (s1.setTx { t with unacked := t.unacked.map fun u => if u.1.tseq == s.ev.m then (u.1, p, s.agent.counter + 200000) else u })
/-- R359: the k-th delivery notice reaches its gateway, which injects the next ordered message. -/
def execDeliveryNotice : State → Host.Outcome State Fault Refusal := fun s =>
  match s.pod.notices[s.ev.k]? with
  | none => .next s
  | some key =>
    let s1 := { s with pod := { s.pod with notices := s.pod.notices.eraseIdx s.ev.k, inOrder := s.pod.inOrder.erase key } }
    .next (s.pod.rx.foldl (fun s r => s.injectOrdered (s.pod.rxOf r.spkg r.pclass)) s1).injectUe
/-- R361: port k passes its training where the event's `b` says so, or fails; the third failure in a row is final. Only a
port that trains again loses its retry buffer. -/
def execPortTrainingResult : State → Host.Outcome State Fault Refusal := fun s =>
  let i := s.ev.k
  let q := s.pod.port i
  if q.st != .training && q.st != .retrain then .next s
  else if s.ev.b then
    let up := { q with st := .up, fails := 0, since := s.agent.counter }
    .next (s.setPort i (if q.st == .retrain then { up with lseq := 0, expect := 0, unacked := [], resends := [], held := false } else up))
  else if q.fails + 1 ≥ 3 then .next (s.setPort i { q with st := .failed, fails := 0 })
  else .next (s.setPort i { q with fails := q.fails + 1 })
/-- R356, R361: port k loses its lock, where the event's `b` says so, or has resent one frame sixteen times. -/
def execPortLossOfLock : State → Host.Outcome State Fault Refusal := fun s =>
  let i := s.ev.k
  let q := s.pod.port i
  if q.st == .up && (s.ev.b || q.resends.any fun e => e.2 ≥ 16) then .next ((s.setPort i { q with st := .retrain, fails := 0 }).abandonPort i) else .next s

/-! ### Scale-out (R362) -/

/-- R362: an Ultra Ethernet packet of mode n (0 reliable ordered, 1 reliable unordered) arrives, or is dropped. An ordered
message waits until the destination has taken the one before it (R359). -/
def execUePacketReceive : State → Host.Outcome State Fault Refusal := fun s =>
  let d := s.ev.data
  if (s.pod.port 36).st != .up && (s.pod.port 37).st != .up then .next s
  else if s.ev.n > 1 then .next (s.count 13)
  else if d.length < 16 then .next s
  else
    let m := { msgOf (ofBytes (d.take 16)) (d.drop 16) with rsvd := 0 }
    if s.ev.n = 0 && m.flag flagOrdered then .next ({ s with pod := { s.pod with ueIn := s.pod.ueIn ++ [(0, true, m)] } } : State).injectUe
    else .next (s.fromOutside 47 m)

end Sys2Proof.Machine
end

