-- ==== Sys2Proof/Machine/Firmware.lean ====
section
/-! DEFINITION. The firmware's commands (R384 to R389, R413), the host's windows (R383, R384), group resets (R364 to R367), spare
swaps (R376), keys (R378, R388) and attestation (R381). -/

namespace Sys2Proof.Machine

/-! ### MAP (R332, R333, R338, R386) -/

/-- R386: a MAP command's action. -/
def isMap (action : Nat) (op : Nat) (p : List Byte) : Bool := op == 2 && cmdNum p 2 1 == action
/-- R333: whether a root is out of range. -/
def rootBad (r : Nat) : Bool :=
  bits r 137 128 > 1022 || rootLay r == 3 ||
  (if rootLay r = 1 then rootHb r < 10 || rootHb r > 30 else rootHb r != 0) ||
  (if rootLay r = 2 then rootLsz r == 3 || rootVbase r % 2 ^ pageShift (rootLsz r) != 0
   else rootVbase r != 0 || rootCount r != 0 || rootLsz r != 0)
/-- R333: MAP action 0 sets a tenant's root; the epoch stays. -/
def execMapSetRoot : State → Host.Outcome State Fault Refusal :=
  cmdRow (isMap 0) [(0, 3), (16, 32)] fun s i h p =>
    let t := cmdNum p 0 2
    let r := cmdNum p 16 32
    if bits r 159 154 ≠ 0 || bits r 146 138 ≠ 0 || bits r 127 124 ≠ 0 || bits r 31 2 ≠ 0 then s.replyHost i h 1 []
    else if t > 1022 || bits r 137 128 ≠ t || rootBad r then s.replyHost i h stBADARG []
    else
      let e := ((tabGet s.agent.roots t).map rootEpoch).getD 0
      ({ s with agent := { s.agent with roots := tabSet s.agent.roots t (setBits r 32 32 e) } } : State).replyHost i h stOK []

/-- R378: whether a memory key slot of a tenant is loaded. -/
def State.hasKey (s : State) (t : Nat) : Bool := s.agent.keys.any fun k => k.2.ld && k.2.tenant == t
/-- Whether two ranges of addresses meet. -/
def rangesMeet (a n b m : Nat) : Bool := a < b + m && b < a + n
/-- R338, R340: whether a frame meets one of the retirement pool, or the destination of a move. -/
def State.promised (s : State) (a n : Nat) : Bool :=
  (s.agent.pool.any fun q => rangesMeet q.1 (2 ^ pageShift q.2) a n) || s.agent.moves.any fun m => rangesMeet m.dst m.size a n
/-- R338, R368, R378: MAP action 1 installs a leaf as MAPPED, and records the owner of a local frame. -/
def execMapInstallLeaf : State → Host.Outcome State Fault Refusal :=
  cmdRow (isMap 1) [(0, 3), (8, 32)] fun s i h p =>
    let t := cmdNum p 0 2
    let a := cmdNum p 8 8
    let d := setBits (cmdNum p 16 16) 8 3 1
    let va := cmdNum p 32 8
    let lay := (tabGet s.agent.roots t).map rootLay
    let n := 2 ^ pageShift (descSize d)
    let f := leafTarget d
    if t > 1022 || a % 16 ≠ 0 || !pmaOk a 16 || lay.isNone || descType d ≠ 2 || !descOk (lay == some 1) d || va % n ≠ 0 || va ≥ 2 ^ 59 ||
        (lay == some 1 && !descMatches d va) || (descKind d = 0 && !pmaOk f n) then s.replyHost i h stBADARG []
    else if descSt (s.mem.num a 16) ≠ 0 || (descKind d = 0 && (s.isRetired f n || s.promised f n)) then s.replyHost i h stREFUSED []
    else if descKind d = 0 && !s.hasKey t then s.replyHost i h stNOKEY []
    else
      let r : Frame := { size := descSize d, owner := t, slot := (s.agent.keySlot t).getD 0, leaf := some { desc := a, tenant := t, va := va } }
      let s1 := if descKind d = 0 then (s.setFrame f r).rekey s.agent f n else s
      let s2 := s1.storeAt (.pma a) (bytesOf d 16) none
      -- R343: a page mapped anew has an empty record
      let s3 := { s2 with agent := { s2.agent with hot := if descKind d = 0 then tabErase s2.agent.hot f else s2.agent.hot } }
      s3.replyHost i h stOK []
/-- R338, R339: MAP action 2 removes a leaf; a POISONED frame becomes RETIRED. -/
def execMapRemoveLeaf : State → Host.Outcome State Fault Refusal :=
  cmdRow (isMap 2) [(0, 3), (8, 8), (32, 8)] fun s i h p =>
    let t := cmdNum p 0 2
    let a := cmdNum p 8 8
    let va := cmdNum p 32 8
    if t > 1022 || a % 16 ≠ 0 || !pmaOk a 16 || va ≥ 2 ^ 59 || va % 2 ^ 16 ≠ 0 then s.replyHost i h stBADARG []
    else
      let d := s.mem.num a 16
      let st := descSt d
      if descType d ≠ 2 || (st ≠ 1 && st ≠ 4) then s.replyHost i h stREFUSED []
      else if va % 2 ^ pageShift (descSize d) ≠ 0 then s.replyHost i h stBADARG []
      else
        let f := leafTarget d
        let n := 2 ^ pageShift (descSize d)
        let g := s.agent
        let gone : Agent := { g with
          frames := tabErase g.frames f, hot := tabErase g.hot f
          retired := if st = 4 then g.retired ++ [(f, n)] else g.retired }
        let s1 := if descKind d = 0 then ({ s with agent := gone } : State).rekey g f n else s
        let s2 := s1.setDesc a fun _ => 0
        (s2.startShoot { desc := a, tenant := t, va := va } n false).runCmd i h p 1 0
/-- R386: MAP action 3 sets the firmware region. -/
def execMapSetFirmwareRegion : State → Host.Outcome State Fault Refusal :=
  cmdRow (isMap 3) [(0, 3), (8, 16)] fun s i h p =>
    let a := cmdNum p 8 8
    let n := cmdNum p 16 8
    if !pmaOk a n then s.replyHost i h stBADARG []
    else ({ s with agent := { s.agent with region := some (a, n) } } : State).replyHost i h stOK []
/-- R338, R386: MAP action 4 adds a frame to the retirement pool. -/
def execMapAddRetirementFrame : State → Host.Outcome State Fault Refusal :=
  cmdRow (isMap 4) [(0, 3), (8, 9)] fun s i h p =>
    let a := cmdNum p 8 8
    let z := cmdNum p 16 1
    if z > 2 || a % 2 ^ pageShift z ≠ 0 || !pmaOk a (2 ^ pageShift z) then s.replyHost i h stBADARG []
    else if s.isRetired a (2 ^ pageShift z) || (s.frameAt a).isSome || s.agent.pool.any fun q => q.1 == a then s.replyHost i h stREFUSED []
    else ({ s with agent := { s.agent with pool := s.agent.pool ++ [(a, z)] } } : State).replyHost i h stOK []

/-- R340: whether a frame of n bytes is free: aligned, present, unmapped, not retired, and no destination. -/
def State.freeFrame (s : State) (a n : Nat) : Bool :=
  a % n == 0 && pmaOk a n && !s.isRetired a n &&
  !(s.agent.frames.any fun f => rangesMeet f.1 (2 ^ pageShift f.2.size) a n) && !s.promised a n
/-- R340: MIGRATE starts a move of a MAPPED page to a free frame. -/
def execMigrate : State → Host.Outcome State Fault Refusal :=
  cmdRow (fun op _ => op == 3) [(0, 2), (8, 16)] fun s i h p =>
    let t := cmdNum p 0 2
    let va := cmdNum p 8 8
    let dst := cmdNum p 16 8
    if t > 1022 || va ≥ 2 ^ 59 then s.replyHost i h stBADARG []
    else match s.walk t va with
      | none => s.replyHost i h stREFUSED []
      | some (d, a) =>
        let n := 2 ^ pageShift (descSize d)
        if descSt d ≠ 1 then s.replyHost i h stREFUSED []
        else if descKind d ≠ 0 || !s.freeFrame dst n then s.replyHost i h stBADARG []
        else
          (s.startMove { desc := a, tenant := t, va := va - va % n } (leafTarget d) dst n false true).runCmd i h p 2 0

/-! ### Fences and group resets (R364 to R367) -/

/-- R386: a FENCE_RECT command's action. -/
def isFence (action : Nat) (op : Nat) (p : List Byte) : Bool := op == 4 && cmdNum p 0 1 == action
/-- The k-th fence entry. -/
def State.fence (s : State) (k : Nat) : Fence := if h : k < 32 then s.agent.fences[k] else {}
def State.setFence (s : State) (k : Nat) (f : Fence) : State :=
  if h : k < 32 then { s with agent := { s.agent with fences := s.agent.fences.set k f } } else s
/-- R364: whether the rectangles of two entries overlap. -/
def Fence.meets (f g : Fence) : Bool :=
  f.x0 ≤ g.x0 + g.wm && g.x0 ≤ f.x0 + f.wm && f.y0 ≤ g.y0 + g.hm && g.y0 ≤ f.y0 + f.hm
/-- The cores of a rectangle. -/
def Fence.cores (f : Fence) : List Nat := (List.range numCores).filter f.holds

/-- R359, R367 step 2: what waits at a core of the rectangle: requests and deposits are refused with FENCED, answers discarded;
an ordered message has been taken. -/
def State.refuseQueued (s : State) (c : Nat) : State :=
  let k := s.core c
  let b := k.inbox
  let all := b.uReply ++ b.uReq ++ b.nReply ++ b.nReq ++ b.ringU ++ b.ringN ++ b.arrived ++ b.deposits ++ b.landing.map (·.1) ++ b.late
  let s1 := s.updCore c fun k => { k with
    inbox := { ({} : Inbox) with reasm := b.reasm }
    heldMsgs := [], puts := []
    side := k.side.drop }
  let s2 := k.side.inbound.foldl (fun s d =>
    s.updCore (neighbour c d.1) fun k => { k with side := k.side.addCredit (Dir.opposite d.1) d.2.beats }) s1
  let s3 := b.arrived.foldl State.tookOrdered s2
  (all ++ k.side.inbound.map (·.2)).foldl (fun s m => if m.answer then s else s.refuse c rFenced m) s3
/-- R367 steps 1 to 3: a group reset of entry k begins. -/
def State.startReset (s : State) (k : Nat) (f : Fence) : State :=
  let s0 := s.setFence k { f with st := .resetting }
  let inside (c : Nat) : Bool := c < numCores && ({ f with st := .resetting } : Fence).holds c
  let hit (x : Kernel) : Bool := !x.isOver && x.cores.any inside
  let s1 := (s0.agent.kernels.filter hit).foldl (fun s x => (s.closeKernel x.kid 8 0xFF).release x.kid) s0
  let spare (x : Kernel) : Kernel := { x with halted := x.halted.filter fun c => !inside c }
  let s2 := { s1 with agent := { s1.agent with kernels := s1.agent.kernels.map spare } }
  let cs := (s2.cores.map (·.1)).filter inside
  let s3 := (cs.foldl (fun s c => s.refuseQueued c) s2).refuseHeld (fun m => inside m.dst) false rFenced
  cs.foldl (fun s c =>
    let s1 := (List.range 32).foldl (fun s i => if (s.ctx c i).st != CtxSt.free then s.abortWaits c i else s) s
    s1.updCore c fun x => { x with stopped := true }) s3
/-- R7, R367 step 4: a core after a group reset: the incarnations, the links and what arrives stay. -/
def Core.groupReset (k : Core) (tenant : Nat) : Core :=
  { ({} : Core) with
    ctxs := k.ctxs.map fun x => { ({} : Ctx) with inc := x.inc }
    tenant := tenant, drained := k.drained, stopped := k.drained
    inbox := { ({} : Inbox) with reasm := k.inbox.reasm, arrived := k.inbox.arrived, deposits := k.inbox.deposits }
    side := k.side }
/-- R367 steps 4 and 5: the cores of a rectangle take their power-on state, and the names inside become EXITED. What the
model keeps for them elsewhere is dropped. -/
def State.resetCores (s : State) (inside : Nat → Bool) (cs : List Nat) (tenant : Core → Nat) : State :=
  let gone := (s.agent.names.filter fun e => inside e.2.core && (e.2.st == .live || e.2.st == .preempted || e.2.st == .migrating)).map
    fun e => s.nameOf e.1 e.2
  let lost := s.agent.migrations.filter fun m => inside m.src || inside m.dst
  let s0 := (s.refuseHeld (fun m => inside m.dst) false rFenced).refuseHeld (fun m => inside m.src) true rNoSuchGroup
  let s1 := (gone ++ lost.map (·.name)).foldl State.exitName s0
  let s2 : State := { s1 with
    reqs := s1.reqs.filterMap fun r =>
      if !inside r.core then some r else if r.isWrite && !r.settled then some { r with who := .fibre 32 0 } else none
    resvs := s1.resvs.filter fun r => !inside r.core
    deals := s1.deals.filter fun d => !inside d.src
    agent := { s1.agent with
      migrations := s1.agent.migrations.filter fun m => !inside m.src && !inside m.dst
      nameReqs := s1.agent.nameReqs.filter fun q => !inside q.core } }
  let s3 := (s2.rotated.filter fun r => inside r.src || inside r.dst).foldl State.dropRotated s2
  cs.foldl (fun s c => ((s.core c).nameCache.foldl (fun s e => s.dropCache c e.1) s).updCore c fun k => k.groupReset (tenant k)) s3
/-- R367 step 3: whether a request is a plain write, which a group reset does not await. -/
def ReqOp.isStore (o : ReqOp) : Bool := match o with | .write .. => true | _ => false
/-- R365, R367: the group reset of entry k finishes once no load, atomic, full/empty or join-counter operation of its cores
is outstanding. -/
def execGroupResetComplete : State → Host.Outcome State Fault Refusal := fun s =>
  let k := s.ev.k
  let f := s.fence k
  if f.st != .resetting || s.reqs.any fun r => f.holds r.core && !r.op.isStore && !r.settled then .next s
  else
    let s1 := s.resetCores (fun c => c < numCores && f.holds c) f.cores fun _ => if f.removal then 1023 else f.tenant
    let s2 := s1.setFence k (if f.removal then {} else { f with st := .active })
    match s2.agent.cmd with
    | some c => .next (if c.wait = 3 && c.arg = k then s2.endCmd stOK [] else s2)
    | none => .next s2

/-- R365: FENCE_RECT create. -/
def execFenceRectCreate : State → Host.Outcome State Fault Refusal :=
  cmdRow (isFence 0) [(0, 7)] fun s i h p =>
    let k := cmdNum p 1 1
    let r := cmdNum p 4 3
    let f : Fence := { st := .resetting, tenant := cmdNum p 2 2, x0 := bits r 5 0, y0 := bits r 11 6, wm := bits r 17 12, hm := bits r 23 18 }
    if k > 31 || f.tenant > 1022 || f.x0 + f.wm > 47 || f.y0 + f.hm > 47 then s.replyHost i h stBADARG []
    else if (s.fence k).st != .free || s.agent.fences.toList.any fun g => g.st != .free && f.meets g then s.replyHost i h stREFUSED []
    else (s.startReset k f).runCmd i h p 3 k
/-- R365: a FENCE_RECT that changes an entry's state at once. -/
def fenceMove (action : Nat) (src dst : FenceSt) : State → Host.Outcome State Fault Refusal :=
  cmdRow (isFence action) [(0, 7)] fun s i h p =>
    let k := cmdNum p 1 1
    let f := s.fence k
    if k > 31 then s.replyHost i h stBADARG []
    else if f.st != src then s.replyHost i h stREFUSED []
    else (s.setFence k { f with st := dst }).replyHost i h stOK []
def execFenceRectSeal : State → Host.Outcome State Fault Refusal := fenceMove 1 .active .sealed
def execFenceRectUnseal : State → Host.Outcome State Fault Refusal := fenceMove 2 .sealed .active
/-- R365, R367: a command that resets an ACTIVE or SEALED rectangle as a group. -/
def resetEntry (removal : Bool) (s : State) (i h : Nat) (p : List Byte) : State :=
  let k := cmdNum p 1 1
  let f := s.fence k
  if k > 31 then s.replyHost i h stBADARG []
  else if f.st != .active && f.st != .sealed then s.replyHost i h stREFUSED []
  else (s.startReset k { f with removal := removal }).runCmd i h p 3 k
def execFenceRectRemove : State → Host.Outcome State Fault Refusal := cmdRow (isFence 3) [(0, 7)] (resetEntry true)
def execResetRect : State → Host.Outcome State Fault Refusal := cmdRow (fun op _ => op == 5) [(1, 1)] (resetEntry false)

/-! ### Keys (R378, R388) -/

/-- R388: the key in the blob that a KEY_LOAD names; none where its check fails. -/
def State.blobKey (s : State) (p : List Byte) (len : Nat) : Option (List Byte) :=
  (sm2Open deviceKey (s.host.read (cmdNum p 8 8) (cmdNum p 16 2))).filter fun k => k.length == len
/-- R378, R388: KEY_LOAD of a memory key slot. -/
def execKeyLoadMemory : State → Host.Outcome State Fault Refusal :=
  cmdRow (fun op p => op == 6 && cmdNum p 0 1 == 0) [(0, 6), (8, 10)] fun s i h p =>
    let alg := cmdNum p 1 1
    let k := cmdNum p 2 1
    let t := cmdNum p 4 2
    if alg > 1 || k = 0 || t > 1022 then s.replyHost i h stBADARG []
    else
      let old := (tabGet s.agent.keys k).getD {}
      if old.ld && s.agent.frames.any fun f => f.2.leaf.isSome && f.2.owner == old.tenant then s.replyHost i h stREFUSED []
      else match s.blobKey p (if alg = 1 then 32 else 64) with
        | none => s.replyHost i h stFAILED []
        | some key =>
          ({ s with agent := { s.agent with keys := tabSet s.agent.keys k { ld := true, alg := alg == 1, tenant := t, key := key } } } : State)
            |>.replyHost i h stOK []
/-- R363, R388: KEY_LOAD of a link key, whose epoch rises. -/
def execKeyLoadLink : State → Host.Outcome State Fault Refusal :=
  cmdRow (fun op p => op == 6 && cmdNum p 0 1 == 1) [(0, 6), (8, 10)] fun s i h p =>
    let alg := cmdNum p 1 1
    let pkg := cmdNum p 2 1
    let dir := cmdNum p 3 1
    if alg > 1 || dir > 1 then s.replyHost i h stBADARG []
    else match s.blobKey p (if alg = 1 then 16 else 32) with
      | none => s.replyHost i h stFAILED []
      | some key =>
        let recv := dir == 1
        let e := ((s.linkKey pkg recv).map (·.epoch)).getD 0
        let k : LinkKey := { pkg := pkg, recv := recv, alg := alg == 1, key := key, epoch := (e + 1) % 256 }
        ({ s with agent := { s.agent with linkKeys := k :: s.agent.linkKeys } } : State).replyHost i h stOK []

/-! ### Attestation and spares (R376, R381) -/

/-- R381: the byte of a cluster-row. -/
def Agent.rowByte (a : Agent) (r : Nat) : Nat :=
  (a.row r).1 + 8 * b01 (a.row r).2 + 16 * b01 (a.drained.any fun n => rowOf n == r)
/-- R381: the attestation report without its signature. -/
def State.report (s : State) (nonce : List Byte) : List Byte :=
  let count := (s.cores.map fun k => k.2.transients).foldl (· + ·) 0
  bytesOf 0x4A5A4154 4 ++ bytesOf 1 2 ++ bytesOf s.pkg 2 ++ nonce ++ s.firmwareHash ++ deviceIdentity ++
  ((List.range 24).flatMap fun r => bytesOf (s.agent.rowByte r) 1) ++ bytesOf count 8 ++ bytesOf 0 56
/-- R381: ATTEST. -/
def execAttest : State → Host.Outcome State Fault Refusal :=
  cmdRow (fun op _ => op == 7) [(0, 40)] fun s i h p =>
    let a := cmdNum p 32 8
    if a % 64 ≠ 0 then s.replyHost i h stBADARG []
    else
      let d := s.report (p.take 32)
      (s.toHost a (d ++ sign64 d)).replyHost i h stOK []
/-- R376: SPARE_SWAP; whether the spare passes its test is free (notes/assumptions/2.md). -/
def execSpareSwap : State → Host.Outcome State Fault Refusal :=
  cmdRow (fun op _ => op == 8) [(0, 3)] fun s i h p =>
    let r := cmdNum p 0 1 * 3 + cmdNum p 1 1
    let f := cmdNum p 2 1
    let a := s.agent
    let lost := (List.range 144).any fun n => rowOf n == r && a.physical n == 7 * r + f && a.drained.contains n
    if cmdNum p 0 1 > 7 || cmdNum p 1 1 > 2 || f > 6 || !lost then s.replyHost i h stBADARG []
    else
      let a1 := { a with rows := tabSet a.rows r (f, true) }
      let moved := (List.range 144).filter fun n => a.physical n != a1.physical n
      let cs := moved.flatMap clusterCores
      if (a.row r).2 || a.kernels.any fun k => !k.isOver && k.cores.any cs.contains then s.replyHost i h stREFUSED []
      else
        let (pass, s1) := s.takeFree
        if pass % 2 = 0 then s1.replyHost i h stREFUSED []
        else
          let s2 := { s1 with agent := { a1 with drained := a1.drained.filter fun n => !moved.contains n } }
          let s3 := cs.foldl (fun s c => s.updCore c fun k => { k with drained := false, stopped := false })
            (s2.resetCores cs.contains cs (·.tenant))
          s3.replyHost i h stOK []

/-! ### TELEMETRY (R343, R386, R413) -/

/-- R386: a TELEMETRY command's kind. -/
def isTelemetry (kind : Nat) (op : Nat) (p : List Byte) : Bool := op == 9 && cmdNum p 0 1 == kind
/-- R386, R413: a TELEMETRY row: bytes are written to the buffer, and the reply gives their number. -/
def telemetry (kind : Nat) (act : State → Nat → Bool → List Byte → State × List Byte) : State → Host.Outcome State Fault Refusal :=
  cmdRow (isTelemetry kind) [(0, if kind = 1 then 4 else 2), (8, 12)] fun s i h p =>
    if cmdNum p 1 1 > 1 then s.replyHost i h 1 []
    else if kind = 1 && cmdNum p 2 2 > 1022 then s.replyHost i h stBADARG []
    else
      let (s1, d) := act s (cmdNum p 16 4) (cmdNum p 1 1 == 1) p
      (s1.toHost (cmdNum p 8 8) d).replyHost i h stOK (bytesOf d.length 4)
/-- R413: the record of a core. -/
def Core.teleRecord (k : Core) : List Byte := (k.telemetry.toList.flatMap fun n => bytesOf n 8) ++ bytesOf k.transients 8
/-- R413: kind 0, the module counters and the cores' counters; the corrected errors of frames count anew (R338). -/
def execTelemetryErrorCounts : State → Host.Outcome State Fault Refusal :=
  telemetry 0 fun s len clear _ =>
    if len < 128 then (s, [])
    else
      let n := min numCores ((len - 128) / 32)
      let d := (s.agent.counters.toList.flatMap fun c => bytesOf c 8) ++ (List.range n).flatMap fun c => (s.core c).teleRecord
      let s1 := { s with agent := { s.agent with
        frames := s.agent.frames.map fun f => (f.1, { f.2 with corrected := 0, reported := false })
        counters := if clear then Vector.replicate 16 0 else s.agent.counters } }
      (if clear then { s1 with cores := s1.cores.map fun k =>
          if k.1 < n then (k.1, { k.2 with telemetry := Vector.replicate 3 0, transients := 0 }) else k } else s1, d)
/-- R343: kind 1, the hotness records of a tenant's mapped local frames, by frame. -/
def execTelemetryHotness : State → Host.Outcome State Fault Refusal :=
  telemetry 1 fun s len clear p =>
    let t := cmdNum p 2 2
    let mine := ((s.agent.frames.filter fun f => f.2.owner == t && f.2.leaf.isSome).map (·.1)).take (len / 16)
    let rec16 (a : Nat) : List Byte :=
      let h := (tabGet s.agent.hot a).getD {}
      bytesOf h.count 4 ++ bytesOf h.sx 6 ++ bytesOf h.sy 6
    (if clear then { s with agent := { s.agent with hot := mine.foldl tabErase s.agent.hot } } else s, mine.flatMap rec16)
/-- R361: the code of a port's state. -/
def PortSt.code (p : PortSt) : Nat := p.ctorIdx
/-- R413: kind 2, the cluster-rows and the ports. -/
def execTelemetryClusterRows : State → Host.Outcome State Fault Refusal :=
  telemetry 2 fun s len _ _ =>
    let a := s.agent
    let row (r : Nat) : List Byte :=
      let marks := ((List.range 144).filter fun n => rowOf n == r && a.drained.contains n).foldl (fun m n => m + 2 ^ colOf n) 0
      bytesOf (a.rowByte r) 1 ++ bytesOf marks 1 ++ bytesOf 0 6
    let rows := min 24 (len / 8)
    let ports := if rows < 24 then 0 else min 38 (len - 192)
    (s, (List.range rows).flatMap row ++ (List.range ports).flatMap fun i => bytesOf (s.pod.port i).st.code 1)
/-- R386: kind 3, rails, margins and temperatures; the spec gives no layout, so length and bytes are free
(notes/assumptions/2.md). -/
def execTelemetryRails : State → Host.Outcome State Fault Refusal :=
  telemetry 3 fun s len _ _ =>
    let (n, s1) := s.takeFree
    let (v, s2) := s1.takeFree
    (s2, bytesOf v (n % (len + 1)))

/-! ### NAME_RANGE (R215, R386) -/

/-- R215, R386: NAME_RANGE assigns a range of indices to a tenant. -/
def execNameRange : State → Host.Outcome State Fault Refusal :=
  cmdRow (fun op _ => op == 0xA) [(0, 6)] fun s i h p =>
    let t := cmdNum p 0 2
    let first := cmdNum p 2 2
    let n := cmdNum p 4 2
    let a := s.agent
    let inRange (x : Nat) : Bool := first ≤ x && x < first + n
    if t > 1022 || first = 0 || first + n > 65536 then s.replyHost i h stBADARG []
    else if (a.ranges.any fun r => r.tenant != t && rangesMeet r.first r.count first n) ||
        a.names.any fun e => inRange e.1 && e.2.st != NameSt.free && e.2.st != NameSt.exited then s.replyHost i h stREFUSED []
    else
      let r : NameRange := { tenant := t, first := first, count := n, free := (List.range n).map (first + ·) }
      ({ s with agent := { a with ranges := (a.ranges.filter fun q => q.tenant != t) ++ [r] } } : State).replyHost i h stOK []

/-! ### POD_CONFIG (R358, R360 to R362, R387) -/

/-- R387: a POD_CONFIG command's action. -/
def isPod (action : Nat) (op : Nat) (p : List Byte) : Bool := op == 0xB && cmdNum p 0 1 == action
/-- R387: whether a kernel is running; a PREEMPTED one counts (notes/assumptions/81.md). -/
def Kernel.runs (k : Kernel) : Bool := k.st == .running || k.st == .preempted
/-- R387: whether a kernel is placed or running. -/
def Kernel.placed (k : Kernel) : Bool := k.st == .loading || k.runs
/-- R387: action 0 sets the package number. -/
def execPodConfigSetPackage : State → Host.Outcome State Fault Refusal :=
  cmdRow (isPod 0) [(0, 2)] fun s i h p =>
    if s.agent.kernels.any Kernel.placed then s.replyHost i h stREFUSED []
    else ({ s with pkg := cmdNum p 1 1 } : State).replyHost i h stOK []
/-- R358, R360, R387: action 1 writes an entry of the inactive generation; one that the host wrote before the update's action 2 was
replied to is refused. -/
def execPodConfigRoutingEntry : State → Host.Outcome State Fault Refusal :=
  cmdRow (isPod 1) [(0, 2), (8, 8)] fun s i h p =>
    let d := cmdNum p 1 1
    let m := cmdNum p 8 8
    if m ≥ 2 ^ 36 then s.replyHost i h stBADARG []
    else if s.pod.updating then s.replyHost i h stREFUSED []
    else
      let q := s.pod
      let q1 := if q.gen then { q with sets0 := tabSet q.sets0 d m } else { q with sets1 := tabSet q.sets1 d m }
      ({ s with pod := q1 } : State).replyHost i h stOK []
/-- R360 step 3: whether a frame of the old generation has not been transport-acknowledged. -/
def State.oldFrames (s : State) : Bool := s.pod.tx.any fun t => t.unacked.any fun u => u.1.gen != s.pod.gen
/-- R360, R387: action 2 activates the inactive generation, and replies once no old frame is unacknowledged. -/
def execPodConfigActivate : State → Host.Outcome State Fault Refusal := fun s =>
  match s.agent.cmd with
  | some c =>
    if c.wait = 4 && !s.oldFrames then .next (({ s with pod := { s.pod with updating := true } } : State).endCmd stOK [])
    else .next s
  | none =>
    cmdRow (isPod 2) [(0, 1)] (fun s i h p =>
      if s.pod.updating then s.replyHost i h stREFUSED []
      else ({ s with pod := { s.pod with gen := !s.pod.gen } } : State).runCmd i h p 4 0) s
/-- R362, R387: action 3 marks a package. -/
def execPodConfigMarkPackage : State → Host.Outcome State Fault Refusal :=
  cmdRow (isPod 3) [(0, 4)] fun s i h p =>
    let g := cmdNum p 1 1
    let m := cmdNum p 2 1
    let peer := cmdNum p 3 1
    let v := if m = 2 then 2 + peer else m
    if m > 2 then s.replyHost i h stBADARG []
    else if m ≠ 2 && peer ≠ 0 then s.replyHost i h 1 []
    else if (tabGet s.pod.map g).getD 0 ≠ v && s.agent.kernels.any fun k => k.runs && k.places.any fun q => q.pkg == g then
      s.replyHost i h stREFUSED []
    else ({ s with pod := { s.pod with map := tabSet s.pod.map g v } } : State).replyHost i h stOK []
/-- R361, R387: action 4 enables or disables a port. -/
def execPodConfigPort : State → Host.Outcome State Fault Refusal :=
  cmdRow (isPod 4) [(0, 3)] fun s i h p =>
    let n := cmdNum p 1 1
    let q := s.pod.port n
    if cmdNum p 2 1 > 1 then s.replyHost i h 1 []
    else if n > 37 then s.replyHost i h stBADARG []
    else if cmdNum p 2 1 = 1 then
      let s1 := if q.st == .down then s.setPort n { q with st := .training, lseq := 0 }
        else if q.st == .failed then s.setPort n { q with st := .training } else s
      s1.replyHost i h stOK []
    else
      let s1 := if q.st == .down then s else (s.setPort n { ({} : Port) with st := .down }).abandonPort n
      s1.replyHost i h stOK []

/-! ### Commands that no row takes (R385) -/

/-- R385: an unknown op or a payload above 48 bytes gets BADCMD; an unknown action or kind gets BADARG. -/
def execUnknownOpCommand : State → Host.Outcome State Fault Refusal := fun s =>
  match s.nextCmd with
  | none => .next s
  | some (i, h, p) =>
    let op := hdrOp h
    let known := 1 ≤ op && op ≤ 0xB
    let badAction := (op == 2 && cmdNum p 2 1 > 4) || (op == 4 && cmdNum p 0 1 > 3) || (op == 6 && cmdNum p 0 1 > 1) ||
      (op == 9 && cmdNum p 0 1 > 3) || (op == 0xB && cmdNum p 0 1 > 4)
    if !known || hdrPlen h > 48 then .next ((s.takeSlot i).replyHost i h 1 [])
    else if badAction then .next ((s.takeSlot i).replyHost i h (if cmdBad h p then 1 else stBADARG) [])
    else .next s

/-! ### The host's windows (R383, R384) -/

/-- R387: whether a slot holds an action 1 of POD_CONFIG. -/
def isRoutingEntry (d : List Byte) : Bool := let h := slotHeader d; hdrV h && hdrOp h == 0xB && cmdNum (d.drop 16) 0 1 == 1
/-- R384: what the host's bytes from an offset leave of a slot: its status is read-only. -/
def hostBytes (old : List Byte) (o : Nat) (d : List Byte) : List Byte :=
  (List.range 64).map fun j => if o ≤ j && j < o + d.length && j ≠ 3 then d.getD (j - o) 0#8 else old.getD j 0#8
/-- R384, R387: the host writes command slot k; anything but a whole write to a slot with V = 0 is discarded and counted. The first
action 1 of POD_CONFIG that it writes after an update's reply ends the update. -/
def execHostCommandSlotWrite : State → Host.Outcome State Fault Refusal := fun s =>
  let k := s.ev.k
  let d := s.ev.data
  if k ≥ 32 || d.isEmpty then .next s
  else
    let old := s.agent.cmdSlots.toList.getD k []
    if d.length ≠ 64 || hdrV (slotHeader old) then .next (s.count 7)
    else .next { s with
      agent := { s.agent with cmdSlots := setSlot s.agent.cmdSlots k (hostBytes old 0 d) }
      pod := { s.pod with updating := s.pod.updating && !isRoutingEntry d } }
/-- R384, R385: the host frees reply slot k, or writes the event's data to it from byte n on. -/
def execHostReplySlotRelease : State → Host.Outcome State Fault Refusal := fun s =>
  let k := s.ev.k
  let d := s.ev.data
  let old := s.agent.replySlots.toList.getD k []
  let new := if d.isEmpty then old.zipIdx.map fun b => if b.2 = 8 then b.1 &&& 0xFE#8 else b.1 else hostBytes old s.ev.n d
  .next { s with agent := { s.agent with replySlots := setSlot s.agent.replySlots k new } }
/-- R383: the PMA of an HDM offset. -/
def hdmPma (o : Nat) : Nat := bits o 44 40 * 2 ^ 55 + bits o 39 0
/-- R383: whether n bytes at an offset lie in the range and in one line of CXL.mem. -/
def hdmLine (o n : Nat) : Bool := 0 < n && o % 64 + n ≤ 64 && o + n ≤ 2 ^ 45
/-- R383: the host reads n bytes at offset k of the HDM range. -/
def execHostHdmRead : State → Host.Outcome State Fault Refusal := fun s =>
  let o := s.ev.k
  let n := s.ev.n
  if !hdmLine o n then .next s
  else
    let a := hdmPma o
    if !pmaOk a n then .next { s with hdmData := List.replicate n 0xFF#8 }
    else if s.mem.poisoned 32 a n then
      let (v, s1) := s.takeFree
      .next { s1 with hdmData := bytesOf v n }
    else .next { s with hdmData := s.mem.read a n }
/-- R383: the host writes bytes at offset k of the HDM range; a page in a move refuses them for now (R341). -/
def execHostHdmWrite : State → Host.Outcome State Fault Refusal := fun s =>
  let o := s.ev.k
  let a := hdmPma o
  if !hdmLine o s.ev.data.length || !pmaOk a s.ev.data.length || s.frozen (.pma a) then .next s
  else .next (s.storeAt (.pma a) s.ev.data none)

/-! ### Firmware images and temperature (R390, R391) -/

/-- R390: an update image whose signature verifies is staged. -/
def execFirmwareUpdate : State → Host.Outcome State Fault Refusal := fun s =>
  let u := Config.updateParts s.ev.data
  if sm2Check Config.rootKey u.1 u.2 then .next { s with agent := { s.agent with staged := some s.ev.data } } else .next s
/-- R391: the temperature of the hottest die. -/
def Agent.temperature (a : Agent) : Nat := (List.range 8).foldl (fun m d => max m ((tabGet a.sensors d).getD 0)) 0
/-- R391: at 105 °C the launch agent holds kernels in PLACING. -/
def execThermalHold : State → Host.Outcome State Fault Refusal := fun s =>
  if s.agent.temperature ≥ 105 && !s.agent.hold then .next { s with pldm := 1 :: s.pldm, agent := { s.agent with hold := true } } else .next s
/-- R391: below 105 °C it holds them no longer. -/
def execThermalHoldEnd : State → Host.Outcome State Fault Refusal := fun s =>
  if s.agent.temperature < 105 && s.agent.hold then .next { s with agent := { s.agent with hold := false } } else .next s

end Sys2Proof.Machine
end

