-- ==== Sys2Proof/Machine/Integer.lean ====
section
/-! DEFINITION. Integer and lane instructions (R82 to R89) and their parcels (R66). -/

namespace Sys2Proof.Machine

/-! ### Lane results (R85), on lane values of w bits; results are truncated by put_lane -/

/-- R85: tq(a, b). -/
def tq (a b : Int) : Int := Int.tdiv a b

def laneAdd (_ : Nat) (a b : Nat) : Nat := a + b
def laneSub (w a b : Nat) : Nat := trunc ((a : Int) - b) w
def laneAddsS (w a b : Nat) : Nat := trunc (satS (sext a w + sext b w) w) w
def laneAddsZ (w a b : Nat) : Nat := min (a + b) (2 ^ w - 1)
def laneSubsS (w a b : Nat) : Nat := trunc (satS (sext a w - sext b w) w) w
def laneSubsZ (_ a b : Nat) : Nat := a - b
def laneNeg (w a : Nat) : Nat := trunc (-(a : Int)) w
def laneAbs (w a : Nat) : Nat := trunc (sext a w).natAbs w
def laneMul (_ a b : Nat) : Nat := a * b
def laneMulh (w a b : Nat) : Nat := trunc ((sext a w * sext b w) / 2 ^ w) w
def laneMulhz (w a b : Nat) : Nat := (a * b) / 2 ^ w
def laneDiv (w a b : Nat) : Nat := if sext b w = 0 then 2 ^ w - 1 else trunc (tq (sext a w) (sext b w)) w
def laneDivz (w a b : Nat) : Nat := if b = 0 then 2 ^ w - 1 else a / b
def laneRem (w a b : Nat) : Nat :=
  if sext b w = 0 then a else trunc (sext a w - sext b w * tq (sext a w) (sext b w)) w
def laneRemz (_ a b : Nat) : Nat := if b = 0 then a else a % b
def laneMin (w a b : Nat) : Nat := if sext a w ≤ sext b w then a else b
def laneMax (w a b : Nat) : Nat := if sext a w ≥ sext b w then a else b
def laneShl (w a b : Nat) : Nat := a <<< (b % w)
def laneShr (w a b : Nat) : Nat := a >>> (b % w)
def laneSra (w a b : Nat) : Nat := trunc (sext a w / 2 ^ (b % w)) w
def laneRot (w a b : Nat) : Nat := (a <<< (b % w)) ||| (a >>> (w - b % w))
def laneClz (w a : Nat) : Nat := w - bitLength a
/-- The number of 1 bits among the low n bits. -/
def popCount (a n : Nat) : Nat := ((List.range n).filter fun i => a.testBit i).length
def laneAndn (w a b : Nat) : Nat := a &&& (2 ^ w - 1 - b)

def execAdd (m : MReg) (w : Width) (b a d : VReg) : State → Host.Outcome State Fault Refusal := lanes2 m w b a d (laneAdd w.bitsN)
def execSub (m : MReg) (w : Width) (b a d : VReg) : State → Host.Outcome State Fault Refusal := lanes2 m w b a d (laneSub w.bitsN)
def execAddsS (m : MReg) (w : Width) (b a d : VReg) : State → Host.Outcome State Fault Refusal := lanes2 m w b a d (laneAddsS w.bitsN)
def execAddsZ (m : MReg) (w : Width) (b a d : VReg) : State → Host.Outcome State Fault Refusal := lanes2 m w b a d (laneAddsZ w.bitsN)
def execSubsS (m : MReg) (w : Width) (b a d : VReg) : State → Host.Outcome State Fault Refusal := lanes2 m w b a d (laneSubsS w.bitsN)
def execSubsZ (m : MReg) (w : Width) (b a d : VReg) : State → Host.Outcome State Fault Refusal := lanes2 m w b a d (laneSubsZ w.bitsN)
def execNeg (m : MReg) (w : Width) (a d : VReg) : State → Host.Outcome State Fault Refusal := lanes1 m w a d (laneNeg w.bitsN)
def execAbs (m : MReg) (w : Width) (a d : VReg) : State → Host.Outcome State Fault Refusal := lanes1 m w a d (laneAbs w.bitsN)
def execMul (m : MReg) (w : Width) (b a d : VReg) : State → Host.Outcome State Fault Refusal := lanes2 m w b a d (laneMul w.bitsN)
def execMulh (m : MReg) (w : Width) (b a d : VReg) : State → Host.Outcome State Fault Refusal := lanes2 m w b a d (laneMulh w.bitsN)
def execMulhz (m : MReg) (w : Width) (b a d : VReg) : State → Host.Outcome State Fault Refusal := lanes2 m w b a d (laneMulhz w.bitsN)
def execDiv (m : MReg) (w : Width) (b a d : VReg) : State → Host.Outcome State Fault Refusal := lanes2 m w b a d (laneDiv w.bitsN)
def execDivz (m : MReg) (w : Width) (b a d : VReg) : State → Host.Outcome State Fault Refusal := lanes2 m w b a d (laneDivz w.bitsN)
def execRem (m : MReg) (w : Width) (b a d : VReg) : State → Host.Outcome State Fault Refusal := lanes2 m w b a d (laneRem w.bitsN)
def execRemz (m : MReg) (w : Width) (b a d : VReg) : State → Host.Outcome State Fault Refusal := lanes2 m w b a d (laneRemz w.bitsN)
def execMin (m : MReg) (w : Width) (b a d : VReg) : State → Host.Outcome State Fault Refusal := lanes2 m w b a d (laneMin w.bitsN)
def execMax (m : MReg) (w : Width) (b a d : VReg) : State → Host.Outcome State Fault Refusal := lanes2 m w b a d (laneMax w.bitsN)
def execMinz (m : MReg) (w : Width) (b a d : VReg) : State → Host.Outcome State Fault Refusal := lanes2 m w b a d Nat.min
def execMaxz (m : MReg) (w : Width) (b a d : VReg) : State → Host.Outcome State Fault Refusal := lanes2 m w b a d Nat.max
def execAnd (m : MReg) (w : Width) (b a d : VReg) : State → Host.Outcome State Fault Refusal := lanes2 m w b a d (· &&& ·)
def execOr (m : MReg) (w : Width) (b a d : VReg) : State → Host.Outcome State Fault Refusal := lanes2 m w b a d (· ||| ·)
def execXor (m : MReg) (w : Width) (b a d : VReg) : State → Host.Outcome State Fault Refusal := lanes2 m w b a d (· ^^^ ·)
def execAndn (m : MReg) (w : Width) (b a d : VReg) : State → Host.Outcome State Fault Refusal := lanes2 m w b a d (laneAndn w.bitsN)
def execShl (m : MReg) (w : Width) (b a d : VReg) : State → Host.Outcome State Fault Refusal := lanes2 m w b a d (laneShl w.bitsN)
def execShr (m : MReg) (w : Width) (b a d : VReg) : State → Host.Outcome State Fault Refusal := lanes2 m w b a d (laneShr w.bitsN)
def execSra (m : MReg) (w : Width) (b a d : VReg) : State → Host.Outcome State Fault Refusal := lanes2 m w b a d (laneSra w.bitsN)
def execRot (m : MReg) (w : Width) (b a d : VReg) : State → Host.Outcome State Fault Refusal := lanes2 m w b a d (laneRot w.bitsN)
def execClz (m : MReg) (w : Width) (a d : VReg) : State → Host.Outcome State Fault Refusal := lanes1 m w a d (laneClz w.bitsN)
def execPopc (m : MReg) (w : Width) (a d : VReg) : State → Host.Outcome State Fault Refusal := lanes1 m w a d (popCount · w.bitsN)

/-! ### Compare, select and move (R86, R87) -/

/-- R86: the condition on two lane values of w bits. -/
def icondHolds (c : ICond) (w a b : Nat) : Bool :=
  match c with
  | .eq => a == b
  | .ne => a != b
  | .lt => sext a w < sext b w
  | .le => sext a w ≤ sext b w
  | .ltz => a < b
  | .lez => a ≤ b

/-- The mask with bit i set where p i, for i below n. -/
def mkMask (n : Nat) (p : Nat → Bool) : Nat := packLanes 1 ((List.range n).map fun i => b01 (p i))

/-- R86: `cmp`. -/
def execCmp (m : MReg) (w : Width) (cc : ICond) (b a : VReg) (k : MReg) : State → Host.Outcome State Fault Refusal :=
  pureOp 2 [a.toNat, b.toNat] [] [] fun c =>
    c.setMask k (mkMask w.lanes fun i => c.maskBit m i &&
      icondHolds cc w.bitsN (lane (c.v a.toNat) w.bitsN i) (lane (c.v b.toNat) w.bitsN i))

/-- R87: `sel` writes every lane. -/
def execSel (m : MReg) (w : Width) (b a d : VReg) : State → Host.Outcome State Fault Refusal :=
  pureOp 2 [a.toNat, b.toNat] [d.toNat] [] fun c =>
    c.setV d.toNat (mkLanes w.bitsN w.lanes fun i =>
      if c.maskBit m i then lane (c.v a.toNat) w.bitsN i else lane (c.v b.toNat) w.bitsN i)

/-- R87: `mov`; unmasked, it copies all bits and the tag. -/
def execMov (m : MReg) (w : Width) (a d : VReg) : State → Host.Outcome State Fault Refusal :=
  pureOp 2 (maskedReads m [a] d) [d.toNat] [] fun c =>
    if m = 0#2 then c.setV d.toNat (c.v a.toNat) (c.vtag a.toNat)
    else c.writeLanes m d w.bitsN w.lanes fun i => lane (c.v a.toNat) w.bitsN i

/-! ### Immediate forms (R88) -/

/-- The width that the t bit of majors 0x08 and 0x0B selects. -/
def tWidth (t : Bool) : Width := if t then .w64 else .w32

/-- R88: writes every lane of d from the lanes of a. -/
def immLanes (w : Width) (a d : VReg) (f : Nat → Nat) : State → Host.Outcome State Fault Refusal :=
  lanes1 0#2 w a d f

def execAddi (i : BitVec 12) (t : Bool) (a d : VReg) : State → Host.Outcome State Fault Refusal :=
  immLanes (tWidth t) a d fun x => trunc (x + i.toInt) (tWidth t).bitsN
def execShlImm (w : Width) (n : BitVec 6) (a d : VReg) : State → Host.Outcome State Fault Refusal :=
  immLanes w a d fun x => laneShl w.bitsN x n.toNat
def execShrImm (w : Width) (n : BitVec 6) (a d : VReg) : State → Host.Outcome State Fault Refusal :=
  immLanes w a d fun x => laneShr w.bitsN x n.toNat
def execSraImm (w : Width) (n : BitVec 6) (a d : VReg) : State → Host.Outcome State Fault Refusal :=
  immLanes w a d fun x => laneSra w.bitsN x n.toNat
def execRotImm (w : Width) (n : BitVec 6) (a d : VReg) : State → Host.Outcome State Fault Refusal :=
  immLanes w a d fun x => laneRot w.bitsN x n.toNat
/-- R88: `movi`; the s bit is 0 for a signed and 1 for an unsigned suffix. -/
def execMovi (i : BitVec 12) (u : Bool) (w : Width) (d : VReg) : State → Host.Outcome State Fault Refusal :=
  pureOp 2 [] [d.toNat] [] fun c =>
    c.setV d.toNat (mkLanes w.bitsN w.lanes fun _ => trunc (if u then (i.toNat : Int) else i.toInt) w.bitsN)
/-- R88: `movh` replaces bits [pos+11:pos] of each lane. -/
def execMovh (i : BitVec 12) (t : Bool) (p : BitVec 6) (d : VReg) : State → Host.Outcome State Fault Refusal :=
  immLanes (tWidth t) d d fun x => setBits x p.toNat 12 i.toNat

/-! ### Lane operations (R89) -/

/-- R89: `ext`. -/
def execExt (w : Width) (j : BitVec 6) (a d : VReg) : State → Host.Outcome State Fault Refusal :=
  pureOp 2 [a.toNat] [d.toNat] [] fun c => c.setV d.toNat (lane (c.v a.toNat) w.bitsN j.toNat)
/-- R89: `ins` writes one lane and keeps the others. -/
def execIns (m : MReg) (w : Width) (j : BitVec 6) (a d : VReg) : State → Host.Outcome State Fault Refusal :=
  pureOp 2 [a.toNat, d.toNat] [d.toNat] [] fun c =>
    c.setV d.toNat (mkLanes w.bitsN w.lanes fun i =>
      if i == j.toNat && c.maskBit m i then lane (c.v a.toNat) w.bitsN 0 else lane (c.v d.toNat) w.bitsN i)
/-- R89: `bcst`. -/
def execBcst (m : MReg) (w : Width) (j : BitVec 6) (a d : VReg) : State → Host.Outcome State Fault Refusal :=
  pureOp 2 (maskedReads m [a] d) [d.toNat] [] fun c =>
    c.writeLanes m d w.bitsN w.lanes fun _ => lane (c.v a.toNat) w.bitsN j.toNat
/-- R89: `shuf`. -/
def execShuf (m : MReg) (w : Width) (b a d : VReg) : State → Host.Outcome State Fault Refusal :=
  pureOp 2 (maskedReads m [a, b] d) [d.toNat] [] fun c =>
    c.writeLanes m d w.bitsN w.lanes fun i =>
      let x := lane (c.v b.toNat) w.bitsN i
      if x < w.lanes then lane (c.v a.toNat) w.bitsN x else 0
/-- R89: `perm` reads its indices from vd. -/
def execPerm (m : MReg) (w : Width) (b a d : VReg) : State → Host.Outcome State Fault Refusal :=
  pureOp 2 [a.toNat, b.toNat, d.toNat] [d.toNat] [] fun c =>
    c.writeLanes m d w.bitsN w.lanes fun i =>
      let x := lane (c.v d.toNat) w.bitsN i
      if x < w.lanes then lane (c.v a.toNat) w.bitsN x
      else if x < 2 * w.lanes then lane (c.v b.toNat) w.bitsN (x - w.lanes) else 0


/-- R89: `zip`. -/
def execZip (w : Width) (b a d : VReg) : State → Host.Outcome State Fault Refusal :=
  pureOp 2 [a.toNat, b.toNat] [d.toNat, d.toNat + 1] [(d.toNat, 2)] fun c =>
    c.setPair d.toNat (mkLanes w.bitsN (2 * w.lanes) fun i =>
      lane (c.v (if i % 2 = 0 then a.toNat else b.toNat)) w.bitsN (i / 2))
/-- R89: `unzip`. -/
def execUnzip (w : Width) (b a d : VReg) : State → Host.Outcome State Fault Refusal :=
  pureOp 2 [a.toNat, b.toNat] [d.toNat, d.toNat + 1] [(d.toNat, 2)] fun c =>
    let q := c.v a.toNat + 2 ^ 128 * c.v b.toNat
    c.setPair d.toNat (mkLanes w.bitsN (2 * w.lanes) fun i =>
      if i < w.lanes then lane q w.bitsN (2 * i) else lane q w.bitsN (2 * (i - w.lanes) + 1))

/-! ### Parcels (R66): vd5 is also the first source -/

def execParcelMov (s d : BitVec 5) : State → Host.Outcome State Fault Refusal :=
  pureOp 1 [s.toNat] [d.toNat] [] fun c => c.setV d.toNat (c.v s.toNat) (c.vtag s.toNat)
def execParcelAddS32 (s d : BitVec 5) : State → Host.Outcome State Fault Refusal := parcelLanes .w32 s.toNat d.toNat (laneAdd 32)
def execParcelSubS32 (s d : BitVec 5) : State → Host.Outcome State Fault Refusal := parcelLanes .w32 s.toNat d.toNat (laneSub 32)
def execParcelAddS64 (s d : BitVec 5) : State → Host.Outcome State Fault Refusal := parcelLanes .w64 s.toNat d.toNat (laneAdd 64)
def execParcelMulS32 (s d : BitVec 5) : State → Host.Outcome State Fault Refusal := parcelLanes .w32 s.toNat d.toNat (laneMul 32)
def execParcelMinS32 (s d : BitVec 5) : State → Host.Outcome State Fault Refusal := parcelLanes .w32 s.toNat d.toNat (laneMin 32)
def execParcelMaxS32 (s d : BitVec 5) : State → Host.Outcome State Fault Refusal := parcelLanes .w32 s.toNat d.toNat (laneMax 32)
def execParcelAnd (s d : BitVec 5) : State → Host.Outcome State Fault Refusal := parcelLanes .w64 s.toNat d.toNat (· &&& ·)
def execParcelOr (s d : BitVec 5) : State → Host.Outcome State Fault Refusal := parcelLanes .w64 s.toNat d.toNat (· ||| ·)
def execParcelXor (s d : BitVec 5) : State → Host.Outcome State Fault Refusal := parcelLanes .w64 s.toNat d.toNat (· ^^^ ·)
/-- A parcel that computes register d from itself and an immediate. -/
def parcelImm (w : Width) (d : BitVec 5) (f : Nat → Nat) : State → Host.Outcome State Fault Refusal :=
  parcelLanes w d.toNat d.toNat fun x _ => f x
def execParcelAddiS32 (i d : BitVec 5) : State → Host.Outcome State Fault Refusal :=
  parcelImm .w32 d fun x => trunc (x + i.toInt) 32
def execParcelAddiS64 (i d : BitVec 5) : State → Host.Outcome State Fault Refusal :=
  parcelImm .w64 d fun x => trunc (x + i.toInt) 64
def execParcelShlZ32 (n d : BitVec 5) : State → Host.Outcome State Fault Refusal := parcelImm .w32 d fun x => laneShl 32 x n.toNat
def execParcelShrZ32 (n d : BitVec 5) : State → Host.Outcome State Fault Refusal := parcelImm .w32 d fun x => laneShr 32 x n.toNat
def execParcelSraS32 (n d : BitVec 5) : State → Host.Outcome State Fault Refusal := parcelImm .w32 d fun x => laneSra 32 x n.toNat
def execParcelBcstZ32 (s d : BitVec 5) : State → Host.Outcome State Fault Refusal :=
  pureOp 1 [s.toNat] [d.toNat] [] fun c => c.setV d.toNat (mkLanes 32 4 fun _ => lane (c.v s.toNat) 32 0)
def execParcelMoviS32 (i d : BitVec 5) : State → Host.Outcome State Fault Refusal :=
  pureOp 1 [] [d.toNat] [] fun c => c.setV d.toNat (mkLanes 32 4 fun _ => trunc i.toInt 32)
def execParcelNegS32 (s d : BitVec 5) : State → Host.Outcome State Fault Refusal :=
  pureOp 1 [s.toNat] [d.toNat] [] fun c => c.setV d.toNat (mkLanes 32 4 fun i => laneNeg 32 (lane (c.v s.toNat) 32 i))

end Sys2Proof.Machine
end

