-- ==== Sys2Proof/Machine/Power.lean ====
section
/-! DEFINITION. Power-on reset (R7), module reset (R362, R390) and the thermal reset (R391). -/

namespace Sys2Proof.Machine

/-- R7: a core after power-on: the incarnations keep their values. -/
def Core.powerOn (k : Core) : Core :=
  { ({} : Core) with ctxs := k.ctxs.map fun x => { ({} : Ctx) with inc := x.inc } }
/-- R7, R17, R390: the package after power-on reset. Host memory, the spares, the firmware images, and what has left the part
stay. -/
def State.powerOn (s : State) : State :=
  { State.reset with
    turns := s.turns, draws := s.draws, frees := s.frees, nextReq := s.nextReq
    ev := s.ev, hop := s.hop, hraw := s.hraw
    cores := s.cores.map fun k => (k.1, k.2.powerOn)
    host := s.host, msix := s.msix, pldm := s.pldm, readings := s.readings, hdmData := s.hdmData
    pod := { ({} : Pod) with out := s.pod.out, ueOut := s.pod.ueOut }
    agent := { ({} : Agent) with rows := s.agent.rows, firmware := s.agent.firmware, staged := s.agent.staged, sensors := s.agent.sensors } }
/-- R362, R375, R390: the package after a module reset: memory, drained marks, rails and the count of launches stay as well, frames
have no owner (R379), and a staged image runs
(notes/assumptions/46.md). -/
def State.moduleReset (s : State) : State :=
  let p := s.powerOn
  let mark (k : Nat × Core) : Nat × Core :=
    let d := ((tabGet s.cores k.1).getD {}).drained
    (k.1, { k.2 with drained := d, stopped := d })
  let q : State := { p with
    mem := s.mem
    cores := p.cores.map mark
    agent := { p.agent with
      launches := s.agent.launches, drained := s.agent.drained, atRisk := s.agent.atRisk, rails := s.agent.rails, margins := s.agent.margins
      firmware := s.agent.staged.orElse fun _ => s.agent.firmware
      staged := none } }
  s.agent.frames.foldl (fun q f => q.rekey s.agent f.1 (2 ^ pageShift f.2.size)) q

/-- R7: power-on reset. -/
def execPowerOnReset : State → Host.Outcome State Fault Refusal := fun s => .next s.powerOn
/-- R390: a module reset. -/
def execModuleReset : State → Host.Outcome State Fault Refusal := fun s => .next s.moduleReset
/-- R391: at 115 °C every kernel fails with status RESET, and firmware resets the module. -/
def execThermalReset : State → Host.Outcome State Fault Refusal := fun s =>
  if s.agent.temperature < 115 then .next s
  else
    let live := s.agent.kernels.filter fun k => !k.isOver
    .next (live.foldl (fun s k => (s.closeKernel k.kid 8 0xFF).release k.kid) s).moduleReset

end Sys2Proof.Machine
end

