-- ==== Sys2Proof/Machine/Dispatch.lean ====
section
/-! DEFINITION. One arm per row of the opcode table. -/

namespace Sys2Proof.Machine

/-- The meaning of each instruction, host command and event. -/
def exec (i : Instr) (s : State) : Host.Outcome State Fault Refusal :=
  match i with
  | .add m w b a d => Sys2Proof.Machine.execAdd m w b a d s
  | .sub m w b a d => Sys2Proof.Machine.execSub m w b a d s
  | .addsS m w b a d => Sys2Proof.Machine.execAddsS m w b a d s
  | .addsZ m w b a d => Sys2Proof.Machine.execAddsZ m w b a d s
  | .subsS m w b a d => Sys2Proof.Machine.execSubsS m w b a d s
  | .subsZ m w b a d => Sys2Proof.Machine.execSubsZ m w b a d s
  | .neg m w a d => Sys2Proof.Machine.execNeg m w a d s
  | .abs m w a d => Sys2Proof.Machine.execAbs m w a d s
  | .mul m w b a d => Sys2Proof.Machine.execMul m w b a d s
  | .mulh m w b a d => Sys2Proof.Machine.execMulh m w b a d s
  | .mulhz m w b a d => Sys2Proof.Machine.execMulhz m w b a d s
  | .div m w b a d => Sys2Proof.Machine.execDiv m w b a d s
  | .divz m w b a d => Sys2Proof.Machine.execDivz m w b a d s
  | .rem m w b a d => Sys2Proof.Machine.execRem m w b a d s
  | .remz m w b a d => Sys2Proof.Machine.execRemz m w b a d s
  | .min m w b a d => Sys2Proof.Machine.execMin m w b a d s
  | .max m w b a d => Sys2Proof.Machine.execMax m w b a d s
  | .minz m w b a d => Sys2Proof.Machine.execMinz m w b a d s
  | .maxz m w b a d => Sys2Proof.Machine.execMaxz m w b a d s
  | .and m w b a d => Sys2Proof.Machine.execAnd m w b a d s
  | .or m w b a d => Sys2Proof.Machine.execOr m w b a d s
  | .xor m w b a d => Sys2Proof.Machine.execXor m w b a d s
  | .andn m w b a d => Sys2Proof.Machine.execAndn m w b a d s
  | .shl m w b a d => Sys2Proof.Machine.execShl m w b a d s
  | .shr m w b a d => Sys2Proof.Machine.execShr m w b a d s
  | .sra m w b a d => Sys2Proof.Machine.execSra m w b a d s
  | .rot m w b a d => Sys2Proof.Machine.execRot m w b a d s
  | .clz m w a d => Sys2Proof.Machine.execClz m w a d s
  | .popc m w a d => Sys2Proof.Machine.execPopc m w a d s
  | .cmp m w c b a k => Sys2Proof.Machine.execCmp m w c b a k s
  | .sel m w b a d => Sys2Proof.Machine.execSel m w b a d s
  | .mov m w a d => Sys2Proof.Machine.execMov m w a d s
  | .addi ix t a d => Sys2Proof.Machine.execAddi ix t a d s
  | .shlImm w n a d => Sys2Proof.Machine.execShlImm w n a d s
  | .shrImm w n a d => Sys2Proof.Machine.execShrImm w n a d s
  | .sraImm w n a d => Sys2Proof.Machine.execSraImm w n a d s
  | .rotImm w n a d => Sys2Proof.Machine.execRotImm w n a d s
  | .movi ix sx w d => Sys2Proof.Machine.execMovi ix sx w d s
  | .movh ix t p d => Sys2Proof.Machine.execMovh ix t p d s
  | .ext w j a d => Sys2Proof.Machine.execExt w j a d s
  | .ins m w j a d => Sys2Proof.Machine.execIns m w j a d s
  | .bcst m w j a d => Sys2Proof.Machine.execBcst m w j a d s
  | .shuf m w b a d => Sys2Proof.Machine.execShuf m w b a d s
  | .perm m w b a d => Sys2Proof.Machine.execPerm m w b a d s
  | .zip w b a d => Sys2Proof.Machine.execZip w b a d s
  | .unzip w b a d => Sys2Proof.Machine.execUnzip w b a d s
  | .cinc b a d => Sys2Proof.Machine.execCinc b a d s
  | .cset b a d => Sys2Proof.Machine.execCset b a d s
  | .cbnd b a d => Sys2Proof.Machine.execCbnd b a d s
  | .cbndR b a d => Sys2Proof.Machine.execCbndR b a d s
  | .cperm b a d => Sys2Proof.Machine.execCperm b a d s
  | .cgetb a d => Sys2Proof.Machine.execCgetb a d s
  | .cgetl a d => Sys2Proof.Machine.execCgetl a d s
  | .cgetp a d => Sys2Proof.Machine.execCgetp a d s
  | .ctag a d => Sys2Proof.Machine.execCtag a d s
  | .cclr a d => Sys2Proof.Machine.execCclr a d s
  | .cincImm ix a d => Sys2Proof.Machine.execCincImm ix a d s
  | .cbndImm ix a d => Sys2Proof.Machine.execCbndImm ix a d s
  | .shp n d => Sys2Proof.Machine.execShp n d s
  | .tix b a d => Sys2Proof.Machine.execTix b a d s
  | .tlin b a d => Sys2Proof.Machine.execTlin b a d s
  | .b o => Sys2Proof.Machine.execB o s
  | .bAny o k => Sys2Proof.Machine.execBAny o k s
  | .bNone o k => Sys2Proof.Machine.execBNone o k s
  | .bAll o n k => Sys2Proof.Machine.execBAll o n k s
  | .bNall o n k => Sys2Proof.Machine.execBNall o n k s
  | .bZ o a => Sys2Proof.Machine.execBZ o a s
  | .bNz o a => Sys2Proof.Machine.execBNz o a s
  | .jal o => Sys2Proof.Machine.execJal o s
  | .setx a x => Sys2Proof.Machine.execSetx a x s
  | .getx x d => Sys2Proof.Machine.execGetx x d s
  | .kset n k => Sys2Proof.Machine.execKset n k s
  | .kand b a d => Sys2Proof.Machine.execKand b a d s
  | .kor b a d => Sys2Proof.Machine.execKor b a d s
  | .knot a d => Sys2Proof.Machine.execKnot a d s
  | .rdc d => Sys2Proof.Machine.execRdc d s
  | .rdid ix d => Sys2Proof.Machine.execRdid ix d s
  | .trap n => Sys2Proof.Machine.execTrap n s
  | .addFp r b a d t => Sys2Proof.Machine.execAddFp r b a d t s
  | .subFp r b a d t => Sys2Proof.Machine.execSubFp r b a d t s
  | .mulFp r b a d t => Sys2Proof.Machine.execMulFp r b a d t s
  | .divFp r b a d t => Sys2Proof.Machine.execDivFp r b a d t s
  | .minFp b a d t => Sys2Proof.Machine.execMinFp b a d t s
  | .maxFp b a d t => Sys2Proof.Machine.execMaxFp b a d t s
  | .sqrt r a d t => Sys2Proof.Machine.execSqrt r a d t s
  | .absFp a d t => Sys2Proof.Machine.execAbsFp a d t s
  | .negFp a d t => Sys2Proof.Machine.execNegFp a d t s
  | .scl r b a d t => Sys2Proof.Machine.execScl r b a d t s
  | .rnd r a d t => Sys2Proof.Machine.execRnd r a d t s
  | .frc r a d t => Sys2Proof.Machine.execFrc r a d t s
  | .fma m r b a d t => Sys2Proof.Machine.execFma m r b a d t s
  | .fms m r b a d t => Sys2Proof.Machine.execFms m r b a d t s
  | .fnma m r b a d t => Sys2Proof.Machine.execFnma m r b a d t s
  | .fnms m r b a d t => Sys2Proof.Machine.execFnms m r b a d t s
  | .rsum m t r a d => Sys2Proof.Machine.execRsum m t r a d s
  | .rmax m t a d => Sys2Proof.Machine.execRmax m t a d s
  | .dot m t b a d => Sys2Proof.Machine.execDot m t b a d s
  | .dotSr m t b a d => Sys2Proof.Machine.execDotSr m t b a d s
  | .cmpFp m t c b a k => Sys2Proof.Machine.execCmpFp m t c b a k s
  | .classify m t a d => Sys2Proof.Machine.execClassify m t a d s
  | .cvt t r sx a d => Sys2Proof.Machine.execCvt t r sx a d s
  | .cvtSat t r sx a d => Sys2Proof.Machine.execCvtSat t r sx a d s
  | .mxpk f sx a d => Sys2Proof.Machine.execMxpk f sx a d s
  | .mxup t r f a d => Sys2Proof.Machine.execMxup t r f a d s
  | .rcp t a d => Sys2Proof.Machine.execRcp t a d s
  | .rsq t a d => Sys2Proof.Machine.execRsq t a d s
  | .exp2 t a d => Sys2Proof.Machine.execExp2 t a d s
  | .log2 t a d => Sys2Proof.Machine.execLog2 t a d s
  | .sin t a d => Sys2Proof.Machine.execSin t a d s
  | .cos t a d => Sys2Proof.Machine.execCos t a d s
  | .tanh t a d => Sys2Proof.Machine.execTanh t a d s
  | .ld o z b d => Sys2Proof.Machine.execLd o z b d s
  | .st o z b sx => Sys2Proof.Machine.execSt o z b sx s
  | .ldAcq c o z b d => Sys2Proof.Machine.execLdAcq c o z b d s
  | .stRel c o z b sx => Sys2Proof.Machine.execStRel c o z b sx s
  | .fenceAcq c => Sys2Proof.Machine.execFenceAcq c s
  | .fenceRel c => Sys2Proof.Machine.execFenceRel c s
  | .fence c => Sys2Proof.Machine.execFence c s
  | .ldg m w x b d => Sys2Proof.Machine.execLdg m w x b d s
  | .stg m w x b sx => Sys2Proof.Machine.execStg m w x b sx s
  | .ldbc m w b d => Sys2Proof.Machine.execLdbc m w b d s
  | .amoAdd o c z b d => Sys2Proof.Machine.execAmoAdd o c z b d s
  | .amoMin o c z b d => Sys2Proof.Machine.execAmoMin o c z b d s
  | .amoMax o c z b d => Sys2Proof.Machine.execAmoMax o c z b d s
  | .amoMinz o c z b d => Sys2Proof.Machine.execAmoMinz o c z b d s
  | .amoMaxz o c z b d => Sys2Proof.Machine.execAmoMaxz o c z b d s
  | .amoAnd o c z b d => Sys2Proof.Machine.execAmoAnd o c z b d s
  | .amoOr o c z b d => Sys2Proof.Machine.execAmoOr o c z b d s
  | .amoXor o c z b d => Sys2Proof.Machine.execAmoXor o c z b d s
  | .amoSwp o c z b d => Sys2Proof.Machine.execAmoSwp o c z b d s
  | .amoCas o c z b d => Sys2Proof.Machine.execAmoCas o c z b d s
  | .amoAddf o c z b d => Sys2Proof.Machine.execAmoAddf o c z b d s
  | .ldfe o c x b d => Sys2Proof.Machine.execLdfe o c x b d s
  | .ldff o c x b d => Sys2Proof.Machine.execLdff o c x b d s
  | .stef o c x b sx => Sys2Proof.Machine.execStef o c x b sx s
  | .stff o c x b sx => Sys2Proof.Machine.execStff o c x b sx s
  | .feclr o c x b => Sys2Proof.Machine.execFeclr o c x b s
  | .hold d => Sys2Proof.Machine.execHold d s
  | .holdm a => Sys2Proof.Machine.execHoldm a s
  | .pres d => Sys2Proof.Machine.execPres d s
  | .rstv b a => Sys2Proof.Machine.execRstv b a s
  | .rstv4 b a => Sys2Proof.Machine.execRstv4 b a s
  | .rstvRel b a => Sys2Proof.Machine.execRstvRel b a s
  | .rstv4Rel b a => Sys2Proof.Machine.execRstv4Rel b a s
  | .send b a => Sys2Proof.Machine.execSend b a s
  | .sendr b a d => Sys2Proof.Machine.execSendr b a d s
  | .reply b a l => Sys2Proof.Machine.execReply b a l s
  | .wrep a => Sys2Proof.Machine.execWrep a s
  | .chen a => Sys2Proof.Machine.execChen a s
  | .chdis a => Sys2Proof.Machine.execChdis a s
  | .chpend a d => Sys2Proof.Machine.execChpend a d s
  | .hkProd n h d => Sys2Proof.Machine.execHkProd n h d s
  | .hkComm n h => Sys2Proof.Machine.execHkComm n h s
  | .hkCons n h d => Sys2Proof.Machine.execHkCons n h d s
  | .hkFree n h => Sys2Proof.Machine.execHkFree n h s
  | .jcInit sx b a => Sys2Proof.Machine.execJcInit sx b a s
  | .jcAdd sx b a => Sys2Proof.Machine.execJcAdd sx b a s
  | .jcDec sx b a => Sys2Proof.Machine.execJcDec sx b a s
  | .jcWait sx a => Sys2Proof.Machine.execJcWait sx a s
  | .spawn b a => Sys2Proof.Machine.execSpawn b a s
  | .cdrCpy w r c => Sys2Proof.Machine.execCdrCpy w r c s
  | .cdrDeal w r c => Sys2Proof.Machine.execCdrDeal w r c s
  | .cdrPut w r c => Sys2Proof.Machine.execCdrPut w r c s
  | .cdrFill w r c => Sys2Proof.Machine.execCdrFill w r c s
  | .cdrCvt w r c => Sys2Proof.Machine.execCdrCvt w r c s
  | .skmCfg b a d => Sys2Proof.Machine.execSkmCfg b a d s
  | .skmPut b a => Sys2Proof.Machine.execSkmPut b a s
  | .skmTake a d => Sys2Proof.Machine.execSkmTake a d s
  | .bfetch a sx => Sys2Proof.Machine.execBfetch a sx s
  | .bjump sx => Sys2Proof.Machine.execBjump sx s
  | .jr a => Sys2Proof.Machine.execJr a s
  | .peer a d => Sys2Proof.Machine.execPeer a d s
  | .peerw a => Sys2Proof.Machine.execPeerw a s
  | .join a d => Sys2Proof.Machine.execJoin a d s
  | .leave d => Sys2Proof.Machine.execLeave d s
  | .parcelMov sx d => Sys2Proof.Machine.execParcelMov sx d s
  | .parcelAddS32 sx d => Sys2Proof.Machine.execParcelAddS32 sx d s
  | .parcelAddiS32 ix d => Sys2Proof.Machine.execParcelAddiS32 ix d s
  | .parcelSubS32 sx d => Sys2Proof.Machine.execParcelSubS32 sx d s
  | .parcelAddS64 sx d => Sys2Proof.Machine.execParcelAddS64 sx d s
  | .parcelAddiS64 ix d => Sys2Proof.Machine.execParcelAddiS64 ix d s
  | .parcelMulS32 sx d => Sys2Proof.Machine.execParcelMulS32 sx d s
  | .parcelMinS32 sx d => Sys2Proof.Machine.execParcelMinS32 sx d s
  | .parcelMaxS32 sx d => Sys2Proof.Machine.execParcelMaxS32 sx d s
  | .parcelAnd sx d => Sys2Proof.Machine.execParcelAnd sx d s
  | .parcelOr sx d => Sys2Proof.Machine.execParcelOr sx d s
  | .parcelXor sx d => Sys2Proof.Machine.execParcelXor sx d s
  | .parcelShlZ32 n d => Sys2Proof.Machine.execParcelShlZ32 n d s
  | .parcelShrZ32 n d => Sys2Proof.Machine.execParcelShrZ32 n d s
  | .parcelSraS32 n d => Sys2Proof.Machine.execParcelSraS32 n d s
  | .parcelAddF32 sx d => Sys2Proof.Machine.execParcelAddF32 sx d s
  | .parcelSubF32 sx d => Sys2Proof.Machine.execParcelSubF32 sx d s
  | .parcelMulF32 sx d => Sys2Proof.Machine.execParcelMulF32 sx d s
  | .parcelFmaF32 sx d => Sys2Proof.Machine.execParcelFmaF32 sx d s
  | .parcelMaxF32 sx d => Sys2Proof.Machine.execParcelMaxF32 sx d s
  | .parcelAddF16 sx d => Sys2Proof.Machine.execParcelAddF16 sx d s
  | .parcelMulF16 sx d => Sys2Proof.Machine.execParcelMulF16 sx d s
  | .parcelFmaF16 sx d => Sys2Proof.Machine.execParcelFmaF16 sx d s
  | .parcelLd128 b d => Sys2Proof.Machine.execParcelLd128 b d s
  | .parcelSt128 b d => Sys2Proof.Machine.execParcelSt128 b d s
  | .parcelBcstZ32 sx d => Sys2Proof.Machine.execParcelBcstZ32 sx d s
  | .parcelMoviS32 ix d => Sys2Proof.Machine.execParcelMoviS32 ix d s
  | .parcelNegS32 sx d => Sys2Proof.Machine.execParcelNegS32 sx d s
  | .jdBcast b a d => Sys2Proof.Machine.execJdBcast b a d s
  | .jdBcastw b a d => Sys2Proof.Machine.execJdBcastw b a d s
  | .jdSkalloc a d => Sys2Proof.Machine.execJdSkalloc a d s
  | .jdSkfree a d => Sys2Proof.Machine.execJdSkfree a d s
  | .jdSkstart b a d => Sys2Proof.Machine.execJdSkstart b a d s
  | .jdSkstop a d => Sys2Proof.Machine.execJdSkstop a d s
  | .jdSkwait a d => Sys2Proof.Machine.execJdSkwait a d s
  | .jdSkq a d => Sys2Proof.Machine.execJdSkq a d s
  | .jdFpeek a d => Sys2Proof.Machine.execJdFpeek a d s
  | .jdFpoke b a d => Sys2Proof.Machine.execJdFpoke b a d s
  | .jdSend a d => Sys2Proof.Machine.execJdSend a d s
  | .jdSendx b a d => Sys2Proof.Machine.execJdSendx b a d s
  | .jdRecv d => Sys2Proof.Machine.execJdRecv d s
  | .jdTryrecv d => Sys2Proof.Machine.execJdTryrecv d s
  | .jdAck a d => Sys2Proof.Machine.execJdAck a d s
  | .jdChset b a d => Sys2Proof.Machine.execJdChset b a d s
  | .jdChget a d => Sys2Proof.Machine.execJdChget a d s
  | .jdChen a d => Sys2Proof.Machine.execJdChen a d s
  | .jdChdis a d => Sys2Proof.Machine.execJdChdis a d s
  | .jdTwmma b a d => Sys2Proof.Machine.execJdTwmma b a d s
  | .jdTwrot b a d => Sys2Proof.Machine.execJdTwrot b a d s
  | .jdTwring b a d => Sys2Proof.Machine.execJdTwring b a d s
  | .jdTwbmm b a d => Sys2Proof.Machine.execJdTwbmm b a d s
  | .jdTwepi b a d => Sys2Proof.Machine.execJdTwepi b a d s
  | .jdTwclr a d => Sys2Proof.Machine.execJdTwclr a d s
  | .jdTwswp d => Sys2Proof.Machine.execJdTwswp d s
  | .jdTwdom a d => Sys2Proof.Machine.execJdTwdom a d s
  | .jdTwsave b a d => Sys2Proof.Machine.execJdTwsave b a d s
  | .jdTwrest a d => Sys2Proof.Machine.execJdTwrest a d s
  | .jdTwclaim a d => Sys2Proof.Machine.execJdTwclaim a d s
  | .jdTwq a d => Sys2Proof.Machine.execJdTwq a d s
  | .jdCdr b a d => Sys2Proof.Machine.execJdCdr b a d s
  | .jdSkm b a d => Sys2Proof.Machine.execJdSkm b a d s
  | .jdTrap a => Sys2Proof.Machine.execJdTrap a s
  | .jdName a d => Sys2Proof.Machine.execJdName a d s
  | .jdFence a => Sys2Proof.Machine.execJdFence a s
  | .jdCnt a d => Sys2Proof.Machine.execJdCnt a d s
  | .powerOnReset => Sys2Proof.Machine.execPowerOnReset s
  | .moduleReset => Sys2Proof.Machine.execModuleReset s
  | .messageArrival => Sys2Proof.Machine.execMessageArrival s
  | .dispatch => Sys2Proof.Machine.execDispatch s
  | .faultReply => Sys2Proof.Machine.execFaultReply s
  | .sendrAnswerLands => Sys2Proof.Machine.execSendrAnswerLands s
  | .depositArrival => Sys2Proof.Machine.execDepositArrival s
  | .nameServerDeposit => Sys2Proof.Machine.execNameServerDeposit s
  | .nameCacheUpdate => Sys2Proof.Machine.execNameCacheUpdate s
  | .nameAllocation => Sys2Proof.Machine.execNameAllocation s
  | .nameAnswer => Sys2Proof.Machine.execNameAnswer s
  | .skimmerPut => Sys2Proof.Machine.execSkimmerPut s
  | .carderCommandMessage => Sys2Proof.Machine.execCarderCommandMessage s
  | .memoryReadRequest => Sys2Proof.Machine.execMemoryReadRequest s
  | .memoryWriteRequest => Sys2Proof.Machine.execMemoryWriteRequest s
  | .atomicRequest => Sys2Proof.Machine.execAtomicRequest s
  | .lrReservation => Sys2Proof.Machine.execLrReservation s
  | .homeLdfe => Sys2Proof.Machine.execHomeLdfe s
  | .homeLdff => Sys2Proof.Machine.execHomeLdff s
  | .homeStef => Sys2Proof.Machine.execHomeStef s
  | .homeStff => Sys2Proof.Machine.execHomeStff s
  | .homeFeclr => Sys2Proof.Machine.execHomeFeclr s
  | .homeCancel => Sys2Proof.Machine.execHomeCancel s
  | .homeJcInit => Sys2Proof.Machine.execHomeJcInit s
  | .homeJcAdd => Sys2Proof.Machine.execHomeJcAdd s
  | .homeJcDec => Sys2Proof.Machine.execHomeJcDec s
  | .homeJcWait => Sys2Proof.Machine.execHomeJcWait s
  | .waitfullRetry => Sys2Proof.Machine.execWaitfullRetry s
  | .busyRetry => Sys2Proof.Machine.execBusyRetry s
  | .loadLands => Sys2Proof.Machine.execLoadLands s
  | .atomicAnswerLands => Sys2Proof.Machine.execAtomicAnswerLands s
  | .feAnswerLands => Sys2Proof.Machine.execFeAnswerLands s
  | .jcAnswerLands => Sys2Proof.Machine.execJcAnswerLands s
  | .cancelAnswer => Sys2Proof.Machine.execCancelAnswer s
  | .waitLimitExpiry => Sys2Proof.Machine.execWaitLimitExpiry s
  | .blockFetchComplete => Sys2Proof.Machine.execBlockFetchComplete s
  | .contextDrainComplete => Sys2Proof.Machine.execContextDrainComplete s
  | .translationMiss => Sys2Proof.Machine.execTranslationMiss s
  | .translationFill => Sys2Proof.Machine.execTranslationFill s
  | .translationRefusal => Sys2Proof.Machine.execTranslationRefusal s
  | .shootdownInvalidate => Sys2Proof.Machine.execShootdownInvalidate s
  | .shootdownComplete => Sys2Proof.Machine.execShootdownComplete s
  | .pageCopyComplete => Sys2Proof.Machine.execPageCopyComplete s
  | .correctedErrorLimit => Sys2Proof.Machine.execCorrectedErrorLimit s
  | .framePoisoned => Sys2Proof.Machine.execFramePoisoned s
  | .uncorrectableError => Sys2Proof.Machine.execUncorrectableError s
  | .correctableError => Sys2Proof.Machine.execCorrectableError s
  | .haltRequest => Sys2Proof.Machine.execHaltRequest s
  | .haltComplete => Sys2Proof.Machine.execHaltComplete s
  | .saveComplete => Sys2Proof.Machine.execSaveComplete s
  | .restoreRequest => Sys2Proof.Machine.execRestoreRequest s
  | .restoreComplete => Sys2Proof.Machine.execRestoreComplete s
  | .skeinMigrationInstalled => Sys2Proof.Machine.execSkeinMigrationInstalled s
  | .forwardingAck => Sys2Proof.Machine.execForwardingAck s
  | .signedBlockEntry => Sys2Proof.Machine.execSignedBlockEntry s
  | .signatureMarker => Sys2Proof.Machine.execSignatureMarker s
  | .twisterCommandEnd => Sys2Proof.Machine.execTwisterCommandEnd s
  | .latchFlitArrival => Sys2Proof.Machine.execLatchFlitArrival s
  | .carderCommandEnd => Sys2Proof.Machine.execCarderCommandEnd s
  | .dealBlockArrival => Sys2Proof.Machine.execDealBlockArrival s
  | .launch => Sys2Proof.Machine.execLaunch s
  | .launchCheck => Sys2Proof.Machine.execLaunchCheck s
  | .prerequisitesEnded => Sys2Proof.Machine.execPrerequisitesEnded s
  | .placementReady => Sys2Proof.Machine.execPlacementReady s
  | .placementReport => Sys2Proof.Machine.execPlacementReport s
  | .setupComplete => Sys2Proof.Machine.execSetupComplete s
  | .startAnswer => Sys2Proof.Machine.execStartAnswer s
  | .startResend => Sys2Proof.Machine.execStartResend s
  | .sweep => Sys2Proof.Machine.execSweep s
  | .mapSetRoot => Sys2Proof.Machine.execMapSetRoot s
  | .mapInstallLeaf => Sys2Proof.Machine.execMapInstallLeaf s
  | .mapRemoveLeaf => Sys2Proof.Machine.execMapRemoveLeaf s
  | .mapSetFirmwareRegion => Sys2Proof.Machine.execMapSetFirmwareRegion s
  | .mapAddRetirementFrame => Sys2Proof.Machine.execMapAddRetirementFrame s
  | .migrate => Sys2Proof.Machine.execMigrate s
  | .fenceRectCreate => Sys2Proof.Machine.execFenceRectCreate s
  | .fenceRectSeal => Sys2Proof.Machine.execFenceRectSeal s
  | .fenceRectUnseal => Sys2Proof.Machine.execFenceRectUnseal s
  | .fenceRectRemove => Sys2Proof.Machine.execFenceRectRemove s
  | .resetRect => Sys2Proof.Machine.execResetRect s
  | .groupResetComplete => Sys2Proof.Machine.execGroupResetComplete s
  | .keyLoadMemory => Sys2Proof.Machine.execKeyLoadMemory s
  | .keyLoadLink => Sys2Proof.Machine.execKeyLoadLink s
  | .attest => Sys2Proof.Machine.execAttest s
  | .spareSwap => Sys2Proof.Machine.execSpareSwap s
  | .telemetryErrorCounts => Sys2Proof.Machine.execTelemetryErrorCounts s
  | .telemetryHotness => Sys2Proof.Machine.execTelemetryHotness s
  | .telemetryClusterRows => Sys2Proof.Machine.execTelemetryClusterRows s
  | .telemetryRails => Sys2Proof.Machine.execTelemetryRails s
  | .nameRange => Sys2Proof.Machine.execNameRange s
  | .podConfigSetPackage => Sys2Proof.Machine.execPodConfigSetPackage s
  | .podConfigRoutingEntry => Sys2Proof.Machine.execPodConfigRoutingEntry s
  | .podConfigActivate => Sys2Proof.Machine.execPodConfigActivate s
  | .podConfigMarkPackage => Sys2Proof.Machine.execPodConfigMarkPackage s
  | .podConfigPort => Sys2Proof.Machine.execPodConfigPort s
  | .hostReplySlotRelease => Sys2Proof.Machine.execHostReplySlotRelease s
  | .hostHdmRead => Sys2Proof.Machine.execHostHdmRead s
  | .hostHdmWrite => Sys2Proof.Machine.execHostHdmWrite s
  | .firmwareUpdate => Sys2Proof.Machine.execFirmwareUpdate s
  | .thermalHold => Sys2Proof.Machine.execThermalHold s
  | .thermalReset => Sys2Proof.Machine.execThermalReset s
  | .lastingFault => Sys2Proof.Machine.execLastingFault s
  | .marginSample => Sys2Proof.Machine.execMarginSample s
  | .reelFlitRouting => Sys2Proof.Machine.execReelFlitRouting s
  | .reelThrottle => Sys2Proof.Machine.execReelThrottle s
  | .sideLinkBeat => Sys2Proof.Machine.execSideLinkBeat s
  | .gatewayMessage => Sys2Proof.Machine.execGatewayMessage s
  | .podDataFrame => Sys2Proof.Machine.execPodDataFrame s
  | .podAckOnlyFrame => Sys2Proof.Machine.execPodAckOnlyFrame s
  | .podTransportAck => Sys2Proof.Machine.execPodTransportAck s
  | .podPauseFrame => Sys2Proof.Machine.execPodPauseFrame s
  | .podKeyChangeFrame => Sys2Proof.Machine.execPodKeyChangeFrame s
  | .linkAckTimer => Sys2Proof.Machine.execLinkAckTimer s
  | .transportAckTimer => Sys2Proof.Machine.execTransportAckTimer s
  | .transportResendTimeout => Sys2Proof.Machine.execTransportResendTimeout s
  | .deliveryNotice => Sys2Proof.Machine.execDeliveryNotice s
  | .portTrainingResult => Sys2Proof.Machine.execPortTrainingResult s
  | .portLossOfLock => Sys2Proof.Machine.execPortLossOfLock s
  | .uePacketReceive => Sys2Proof.Machine.execUePacketReceive s
  | .nop => Sys2Proof.Machine.execNop s
  | .ebrk => Sys2Proof.Machine.execEbrk s
  | .bjumpBc => Sys2Proof.Machine.execBjumpBc s
  | .stop => Sys2Proof.Machine.execStop s
  | .parcelNop => Sys2Proof.Machine.execParcelNop s
  | .parcelStop => Sys2Proof.Machine.execParcelStop s
  | .parcelEbrk => Sys2Proof.Machine.execParcelEbrk s
  | .endParcel => Sys2Proof.Machine.execEndParcel s
  | .jdUiret => Sys2Proof.Machine.execJdUiret s
  | .hartLoad => Sys2Proof.Machine.execHartLoad s
  | .hartStore => Sys2Proof.Machine.execHartStore s
  | .hartAmo => Sys2Proof.Machine.execHartAmo s
  | .lr => Sys2Proof.Machine.execLr s
  | .sc => Sys2Proof.Machine.execSc s
  | .riscvFence => Sys2Proof.Machine.execRiscvFence s
  | .fenceI => Sys2Proof.Machine.execFenceI s
  | .ecall => Sys2Proof.Machine.execEcall s
  | .wfi => Sys2Proof.Machine.execWfi s
  | .csrWrite => Sys2Proof.Machine.execCsrWrite s
  | .unassignedEncoding => Sys2Proof.Machine.execUnassignedEncoding s
  | .unassignedCustomWord => Sys2Proof.Machine.execUnassignedCustomWord s
  | .rv64imacInstruction => Sys2Proof.Machine.execRv64imacInstruction s
  | .writePerformed => Sys2Proof.Machine.execWritePerformed s
  | .hartAccessAnswer => Sys2Proof.Machine.execHartAccessAnswer s
  | .latchCredit => Sys2Proof.Machine.execLatchCredit s
  | .hostCommandSlotWrite => Sys2Proof.Machine.execHostCommandSlotWrite s
  | .unknownOpCommand => Sys2Proof.Machine.execUnknownOpCommand s
  | .thermalHoldEnd => Sys2Proof.Machine.execThermalHoldEnd s

end Sys2Proof.Machine
end

