-- ==== Sys2Proof/Machine/Turn.lean ====
section
/-! DEFINITION. What passes with a turn that runs no instruction (R3, R25, R133, R383, R391), and the placing of an instruction
where the next step fetches it (notes/assumptions/11.md). -/

namespace Sys2Proof.Machine

/-- R131: a DISPATCHING context becomes READY in the cycle after its creation (notes/assumptions/92.md). -/
def Core.endDispatch (k : Core) : Core :=
  { k with ctxs := k.ctxs.map fun x => if x.st == .dispatching then { x with st := .ready } else x }

/-- R25, R131, R133, R163, R229, R254: a cycle of a core passes. A halt whose cycles are over completes first, and no cycle
passes before it can (notes/assumptions/5.md); the deposits of the cycle land, waits that reach their limit
expire next, and messages that it holds and may
post now go out (R225). -/
def State.tick (s : State) (c : Nat) : State :=
  if (s.core c).haltDue && !s.hasHalted c then s
  else
    let s1 := (if (s.core c).haltDue then s.completeHalt c else s).landDeposits c
    ({ s1 with turns := (s1.core c).expiries c ++ s1.turns }.updCore c fun k => { k.endDispatch with counter := (k.counter + 1) % 2 ^ 64, doneCtx := [], slotsUsed := 0 }).flushAll c
/-- R3, R359: a cycle of the launch agent passes; the transport acks that are due come next. -/
def State.agentTick (s : State) : State :=
  let n := s.agent.counter + 1
  let due := (s.pod.rx.filter fun r => r.ackAt + 1024 ≤ n).map fun r => Turn.event .transportAckTimer { k := r.spkg, n := r.pclass }
  { s with turns := due ++ s.turns, agent := { s.agent with counter := n % 2 ^ 64 } }
/-- R383: the host writes its own memory. -/
def State.hostWrite (s : State) (a : Nat) (d : List Byte) : State := { s with host := s.host.store 64 false a d none }
/-- R390, R391: sensor n reads v from now on. -/
def State.setSensor (s : State) (n v : Nat) : State := { s with agent := { s.agent with sensors := tabSet s.agent.sensors n v } }
/-- R390: management reads sensor n (notes/assumptions/111.md). -/
def State.monitor (s : State) (n : Nat) : State := { s with readings := (n, (tabGet s.agent.sensors n).getD 0) :: s.readings }

/-- A block of 64 bytes that begins with the given ones. -/
def blockOf (d : List Byte) : List Byte := d ++ List.replicate (64 - d.length) 0#8

/-- A block address in the shared space. -/
def placedBlock : Nat := 0x1000

/-- s with the word in the current block of context 0 of core 0, READY to issue next. -/
def State.placeFibre (s : State) (d : List Byte) : State :=
  let k := s.core 0
  let c := { (k.ctx 0) with
    st := .ready, lvl := false, nreg := 64, pcBlk := placedBlock, pcOff := 0, bmode := false
    signed := if (markerOf (blockOf d)).isSome then some { blk := placedBlock, entry := (k.ctx 0).r } else none }
  { s.setCore 0 { (k.setCtx 0 c) with
      idN := { k.idN with jdcwb := placedBlock, jdcwl := 64 }
      blocks := [{ addr := placedBlock, data := some (blockOf d) }]
      level := .live, stopped := false, slotsUsed := 0, doneCtx := [], ptrN := 31 } with turns := [.issue 0] }

/-- s with the word in the instruction cache of hart N of core 0, RUNNING at it. -/
def State.placeHart (s : State) (d : List Byte) : State :=
  let k := s.core 0
  let cap := (capMake 0 (2 ^ 30) (permR + permW + permX + permA)).getD 0
  let h := { k.hartN with st := .running, pc := BitVec.ofNat 64 placedBlock, icache := [(placedBlock, blockOf d)]
                          pend := none, naming := false, missVa := none }
  { s.setCore 0 { k with hartN := h, idN := { k.idN with amb0 := BitVec.ofNat 128 cap }, level := .live, stopped := false }
    with turns := [.hart 0] }

end Sys2Proof.Machine
end

