-- ==== Sys2Proof/Machine/Step.lean ====
section
/-! DEFINITION. One step of the machine: the party whose turn it is moves (notes/assumptions/1.md). -/

namespace Sys2Proof.Machine

/-- The turn taken next and the state without it: the first queued turn, or the schedule's choice. -/
def State.nextTurn (s : State) : Turn × State :=
  match s.turns with
  | t :: r => (t, { s with turns := r })
  | [] => (Config.schedule s.draws, { s with draws := s.draws + 1 })

/-- The state after a Fibre's instruction. -/
def afterFibre (c i : Nat) (o : Host.Outcome State Fault Refusal) : Host.Outcome State Fault Refusal :=
  match o with
  | .next s => .next (s.afterIssue c i)
  | o => o

/-- The state after a hart's instruction or an event. -/
def afterOther (o : Host.Outcome State Fault Refusal) : Host.Outcome State Fault Refusal :=
  match o with
  | .next s => .next { s with cur := .env, stalled := false }
  | o => o

/-- R133: an issue opportunity of the Fibres of core c. -/
def stepIssue (s : State) (c : Nat) : Host.Outcome State Fault Refusal :=
  match (s.core c).pickFibre with
  | none => .next s
  | some i =>
    match s.fibreTurn c i with
    | .run ins s1 => afterFibre c i (exec ins s1)
    | .idle s1 => .next s1

/-- An issue opportunity of hart u of core c. -/
def stepOneHart (s : State) (c : Nat) (u : Bool) : Host.Outcome State Fault Refusal :=
  match s.hartTurn c u with
  | .run ins s1 => exec ins s1
  | .idle s1 => .next s1

/-- R147: an issue opportunity of the harts of core c: hart N issues only where hart U has no instruction able to issue. -/
def stepHart (s : State) (c : Nat) : Host.Outcome State Fault Refusal :=
  match (s.core c).pickHart with
  | none => .next s
  | some u =>
    afterOther <| match stepOneHart s c u with
    | .next s1 => if u && s1.stalled && (s1.core c).hartReady false then stepOneHart s1 c false else .next s1
    | o => o

/-- One turn. -/
def stepTurn (t : Turn) (s : State) : Host.Outcome State Fault Refusal :=
  match t with
  | .tick c => .next (if c < numCores then s.tick c else s)
  | .issue c => if c < numCores then stepIssue s c else .next s
  | .hart c => if c < numCores then stepHart s c else .next s
  | .agentTick => .next s.agentTick
  | .event i a => afterOther (exec i { s with ev := a, cur := .env })
  | .hostWrite a d => .next (s.hostWrite a d)
  | .sensor n v => .next (s.setSensor n v)
  | .monitor n => .next (s.monitor n)
  | .release kid => .next (s.release kid)

/-- One step. -/
def step (s : State) : Host.Outcome State Fault Refusal :=
  stepTurn s.nextTurn.1 s.nextTurn.2

/-! ### Placing an instruction where the next step fetches it -/

/-- s with an instruction of nbits bits, numbered as spec/opcode_table.json numbers them, where the next step
fetches: a jd.* word in hart N of core 0, any other word in context 0 of core 0 (notes/assumptions/4.md, 11.md). -/
def State.withFetchWord (s : State) (nbits w : Nat) : State :=
  if nbits ≤ 16 then s.placeFibre (bytesOf (w % 2 ^ 16) 2)
  else match decodeJdWord (BitVec.ofNat 32 w) with
    | some _ => s.placeHart (bytesOf (w % 2 ^ 32) 4)
    | none => s.placeFibre (bytesOf (w % 2 ^ 32) 4)

end Sys2Proof.Machine
end

