-- ==== Sys2Proof/Safety.lean ====
section
/-! DEFINITION. What counts as a safe step, and the terms in which the claims speak: when an instruction of a Fibre or a hart
may have its effect, what the effect changes, and what it leaves. -/

namespace Sys2Proof

/-- A step from s answers a next state. -/
def safeStep (s : Machine.State) : Prop := ∃ t, Machine.step s = .next t

namespace Claim
open Sys2Proof.Machine

/-! ### Memory -/

/-- Every byte, tag and full/empty bit of every memory reads as before. -/
def sameMemory (s t : State) : Prop :=
  ∀ l : Loc, t.readAt l 1 = s.readAt l 1 ∧ t.tagsAt l 16 = s.tagsAt l 16 ∧ t.isFull l = s.isFull l ∧
    t.poisonedAt l 1 = s.poisonedAt l 1

/-! ### Fibres -/

/-- R69, R55, R131, R278, R280: context i of core c is RUNNING and may run an instruction of a class that reads `rd` and writes `wr`: its registers
are allocated, aligned, PRESENT and free of errors, and nothing holds it back. -/
def ready (s : State) (c i : Nat) (cls : Cls) (rd wr : List Nat) (al : List (Nat × Nat)) : Prop :=
  s.cur = .fibre c i ∧ c < numCores ∧ i < 32 ∧ (s.ctx c i).st = .running ∧
  ((s.ctx c i).signed = none ∨ cls.barredSigned = false) ∧
  (∀ r ∈ rd ++ wr, r < (s.ctx c i).nreg) ∧ (∀ p ∈ al, p.1 % p.2 = 0) ∧
  (∀ f ∈ (s.ctx c i).flaws, ∀ r ∈ f.regs, r ∉ rd ++ wr) ∧
  (∀ r ∈ rd, ((s.ctx c i).r.cell r).bad = false ∧ ((s.ctx c i).r.cell r).pres ≠ .held) ∧
  (∀ r ∈ rd ++ wr, ((s.ctx c i).r.cell r).pres ≠ .pending) ∧
  (cls.heldByAcq = true → s.anyPending c (s.ctx c i).acqHold = false) ∧
  (cls.isWrite = true → s.anyPending c (s.ctx c i).relHold = false)

/-- Where a context executes: block, parcel offset, stream position and mode. -/
def place (x : Ctx) : Nat × Nat × Nat × Bool := (x.pcBlk, x.pcOff, x.streamPos, x.bmode)

/-- Nothing but core c changes, of it only contexts, streams and the block buffer, and of its contexts but i no register. -/
def onlyCtx (s t : State) (c i : Nat) : Prop :=
  t = { s with cores := t.cores } ∧ (∀ d, d ≠ c → t.core d = s.core d) ∧
  t.core c = { s.core c with ctxs := (t.core c).ctxs, skeins := (t.core c).skeins, blocks := (t.core c).blocks } ∧
  (∀ j, j ≠ i → (t.ctx c j).r = (s.ctx c j).r ∧ (t.ctx c j).nreg = (s.ctx c j).nreg ∧ (t.ctx c j).inc = (s.ctx c j).inc) ∧
  sameMemory s t

/-- An instruction of `len` parcels has run: context i holds the registers of x, has moved on by the instruction's length, and
nothing else changes. -/
def did (s t : State) (c i len : Nat) (x : Ctx) : Prop :=
  (t.ctx c i).r = x.r ∧ place (t.ctx c i) = place (x.advance len) ∧
  (t.ctx c i).nreg = x.nreg ∧ (t.ctx c i).inc = x.inc ∧ (t.ctx c i).skein = x.skein ∧ (t.ctx c i).rank = x.rank ∧
  onlyCtx s t c i

/-- A lane-wise result: register d of x holds v, whose lanes are g where the mask selects them and the old ones elsewhere. -/
def lanesOf (x : Ctx) (m : MReg) (w : Width) (d : VReg) (g : Nat → Nat) (v : Nat) : Prop :=
  v < 2 ^ 128 ∧ ∀ j, j < w.lanes → lane v w.bitsN j = if x.maskBit m j then g j % 2 ^ w.bitsN else lane (x.v d.toNat) w.bitsN j

/-- Context i now holds the registers and stands at the place of x, and nothing else changes. -/
def went (s t : State) (c i : Nat) (x : Ctx) : Prop :=
  (t.ctx c i).r = x.r ∧ place (t.ctx c i) = place x ∧
  (t.ctx c i).nreg = x.nreg ∧ (t.ctx c i).inc = x.inc ∧ (t.ctx c i).skein = x.skein ∧ (t.ctx c i).rank = x.rank ∧
  onlyCtx s t c i

/-- Context i of core c waits, in a wait of a kind that reports an address, at its instruction with its registers as they
were; of core c nothing but contexts changes. -/
def waits (s t : State) (c i : Nat) (kind : WKind) (addr : Nat) : Prop :=
  (t.ctx c i).st = .waiting ∧ (t.ctx c i).wait.kind = kind ∧ (t.ctx c i).wait.addr = addr ∧
  (t.ctx c i).wait.limit = (s.ctx c i).ext 7 ∧ went s t c i (s.ctx c i)

/-- R144: context i has entered FAULTED with a cause and address at its instruction, and core c has queued the fault message
that tells of it on channel 1, at the level of the channel's entry; outside a signed block its registers stay, and memory
stays. -/
def faulted (s t : State) (c i cause addr : Nat) : Prop :=
  (t.ctx c i).st = .faulted ∧ (t.ctx c i).cause = cause ∧ (t.ctx c i).faultAddr = addr % 2 ^ 64 ∧
  (t.ctx c i).faultSeq = some (s.core c).seq ∧
  ((s.ctx c i).signed = none → (t.ctx c i).r = (s.ctx c i).r ∧ place (t.ctx c i) = place (s.ctx c i) ∧
    (t.ctx c i).faultPc = (s.ctx c i).pcBlk + 2 * (s.ctx c i).pcOff) ∧
  (∃ m : Msg, m.chan = 1 ∧ m.plen = 4 ∧ m.dest = s.addrOf c ∧ m.seq = (s.core c).seq ∧ m.prio = entLvl ((s.core c).entry 1) ∧
    m.payload = (t.ctx c i).faultPayload i ∧
    (t.core c).inbox = if m.prio then { (s.core c).inbox with uFault := (s.core c).inbox.uFault ++ [m] }
      else { (s.core c).inbox with nFault := (s.core c).inbox.nFault ++ [m] }) ∧
  (∀ j, j ≠ i → t.ctx c j = s.ctx c j) ∧ (∀ d, d ≠ c → t.core d = s.core d) ∧ sameMemory s t

/-! ### Harts -/

/-- R147: hart u of core c executes an instruction. -/
def hartReady (s : State) (c : Nat) (u : Bool) : Prop :=
  s.cur = .hart c u ∧ c < numCores ∧ (s.hart c u).executes = true

/-- R146, R148: the hart with v in register d, on its way to an address. -/
def hartAt (h : Hart) (d : XReg) (v : Word) (pc : Word) : Hart :=
  { h.set d v with pc := pc, instret := h.instret + 1#64, wait := .none, missVa := none, st := .running }

/-- From s, hart u of core c has retired its instruction with v in register d, and nothing else changes. -/
def hartDone (s t : State) (c : Nat) (u : Bool) (d : XReg) (v : Word) : Prop :=
  t = s.setHart c u (hartAt (s.hart c u) d v ((s.hart c u).pc + BitVec.ofNat 64 (hartLen s.hraw)))

/-- R152: hart u of core c has taken an exception: it is FAULTED at its instruction with cause and mtval, and the exception
message on channel 2 that tells of it is queued at the level of the channel's entry; where that entry is not usable the hart is
FREE and module counter 6 counts it. Nothing else changes. -/
def excTaken (s t : State) (c : Nat) (u : Bool) (cause mtval : Nat) : Prop :=
  let k := s.core c
  let h := { k.hart u with excCause := cause, excVal := BitVec.ofNat 64 mtval, wait := .none, missVa := none }
  let m : Msg := { seq := k.seq, tenant := k.tenant, rchan := 2, rcore := s.addrOf c, plen := 4, prio := entLvl (k.entry 2), chan := 2
                   dest := s.addrOf c, payload := excPayload cause h.pc.toNat (mtval % 2 ^ 64) u }
  (k.excUsable u = true → t = s.setCore c ((({ k with seq := (k.seq + 1) % 65536 } : Core).setHart u
    { h with st := .faulted, faultSeq := some k.seq }).queueFault (entLvl (k.entry 2)) m)) ∧
  (k.excUsable u = false → t = (s.setCore c (k.setHart u { h with st := .free })).count 6)

/-- The hart is held at its instruction in a state that an instruction has prepared. -/
def hartHeld (s t : State) (c : Nat) (u : Bool) (h : Hart) : Prop := t = s.setHart c u { h with missVa := none }
/-- R147: the hart could not issue its instruction, and stalls at it; its turn of the pipeline goes to another. -/
def hartStalled (s t : State) (c : Nat) (u : Bool) (h : Hart) : Prop :=
  t = { s.setHart c u { h with missVa := none } with stalled := true }

end Claim

end Sys2Proof
end

