-- ==== Sys2Proof/Certificates/Slice0/Obligations.lean ====
section
/-! DEFINITION. The statements for the provers, and the tables in which they speak: what the rules of spec/ give each
instruction. -/

open Sys2Proof Sys2Proof.Machine

/-! ### Integer and lane instructions (R66, R83 to R89) -/

namespace Sys2Proof.Claim
open Sys2Proof.Machine

/-- R85: the lane-wise instructions of two sources: mask, width, sources b (vs2) and a (vs1), destination, and the lane result
on lane values a and b of w bits. -/
def lane2 : Instr → Option (MReg × Width × VReg × VReg × VReg × (Nat → Nat → Nat → Nat))
  | .add m w b a d => some (m, w, b, a, d, fun _ a b => a + b)
  | .sub m w b a d => some (m, w, b, a, d, fun w a b => trunc ((a : Int) - (b : Int)) w)
  | .addsS m w b a d => some (m, w, b, a, d, fun w a b => trunc (satS (sext a w + sext b w) w) w)
  | .addsZ m w b a d => some (m, w, b, a, d, fun w a b => trunc (satZ ((a : Int) + b) w) w)
  | .subsS m w b a d => some (m, w, b, a, d, fun w a b => trunc (satS (sext a w - sext b w) w) w)
  | .subsZ m w b a d => some (m, w, b, a, d, fun w a b => trunc (satZ ((a : Int) - b) w) w)
  | .mul m w b a d => some (m, w, b, a, d, fun _ a b => a * b)
  | .mulh m w b a d => some (m, w, b, a, d, fun w a b => trunc ((sext a w * sext b w) / 2 ^ w) w)
  | .mulhz m w b a d => some (m, w, b, a, d, fun w a b => a * b / 2 ^ w)
  | .div m w b a d => some (m, w, b, a, d, fun w a b =>
      trunc (if sext b w = 0 then -1 else Int.tdiv (sext a w) (sext b w)) w)
  | .divz m w b a d => some (m, w, b, a, d, fun w a b => if b = 0 then 2 ^ w - 1 else a / b)
  | .rem m w b a d => some (m, w, b, a, d, fun w a b =>
      trunc (if sext b w = 0 then sext a w else sext a w - sext b w * Int.tdiv (sext a w) (sext b w)) w)
  | .remz m w b a d => some (m, w, b, a, d, fun _ a b => if b = 0 then a else a % b)
  | .min m w b a d => some (m, w, b, a, d, fun w a b => trunc (min (sext a w) (sext b w)) w)
  | .max m w b a d => some (m, w, b, a, d, fun w a b => trunc (max (sext a w) (sext b w)) w)
  | .minz m w b a d => some (m, w, b, a, d, fun _ a b => min a b)
  | .maxz m w b a d => some (m, w, b, a, d, fun _ a b => max a b)
  | .and m w b a d => some (m, w, b, a, d, fun _ a b => a &&& b)
  | .or m w b a d => some (m, w, b, a, d, fun _ a b => a ||| b)
  | .xor m w b a d => some (m, w, b, a, d, fun _ a b => a ^^^ b)
  | .andn m w b a d => some (m, w, b, a, d, fun w a b => a &&& (2 ^ w - 1 - b))
  | .shl m w b a d => some (m, w, b, a, d, fun w a b => a * 2 ^ (b % w))
  | .shr m w b a d => some (m, w, b, a, d, fun w a b => a / 2 ^ (b % w))
  | .sra m w b a d => some (m, w, b, a, d, fun w a b => trunc (sext a w / 2 ^ (b % w)) w)
  | .rot m w b a d => some (m, w, b, a, d, fun w a b => a * 2 ^ (b % w) ||| a / 2 ^ (w - b % w))
  | _ => none

/-- R85, R87, R88: the lane-wise instructions of one source: mask, width, source, destination and lane result. A mask k0
selects every lane. -/
def lane1 : Instr → Option (MReg × Width × VReg × VReg × (Nat → Nat → Nat))
  | .neg m w a d => some (m, w, a, d, fun w a => trunc (-(a : Int)) w)
  | .abs m w a d => some (m, w, a, d, fun w a => (sext a w).natAbs)
  | .clz m w a d => some (m, w, a, d, fun w a => w - bitLength a)
  | .popc m w a d => some (m, w, a, d, fun w a => ((List.range w).filter fun i => a.testBit i).length)
  | .addi ix t a d => some (0#2, if t then .w64 else .w32, a, d, fun w a => trunc ((a : Int) + ix.toInt) w)
  | .shlImm w n a d => some (0#2, w, a, d, fun w a => a * 2 ^ (n.toNat % w))
  | .shrImm w n a d => some (0#2, w, a, d, fun w a => a / 2 ^ (n.toNat % w))
  | .sraImm w n a d => some (0#2, w, a, d, fun w a => trunc (sext a w / 2 ^ (n.toNat % w)) w)
  | .rotImm w n a d => some (0#2, w, a, d, fun w a => a * 2 ^ (n.toNat % w) ||| a / 2 ^ (w - n.toNat % w))
  | .movh ix t p d => some (0#2, if t then .w64 else .w32, d, d, fun _ a => setBits a p.toNat 12 ix.toNat)
  | _ => none

/-- R66: the parcels that compute lanes of register d from d and s: width, s, d and lane result on the lanes of d and s. -/
def parcelLane : Instr → Option (Width × Nat × Nat × (Nat → Nat → Nat))
  | .parcelAddS32 s d => some (.w32, s.toNat, d.toNat, fun a b => a + b)
  | .parcelSubS32 s d => some (.w32, s.toNat, d.toNat, fun a b => trunc ((a : Int) - b) 32)
  | .parcelAddS64 s d => some (.w64, s.toNat, d.toNat, fun a b => a + b)
  | .parcelMulS32 s d => some (.w32, s.toNat, d.toNat, fun a b => a * b)
  | .parcelMinS32 s d => some (.w32, s.toNat, d.toNat, fun a b => trunc (min (sext a 32) (sext b 32)) 32)
  | .parcelMaxS32 s d => some (.w32, s.toNat, d.toNat, fun a b => trunc (max (sext a 32) (sext b 32)) 32)
  | .parcelAnd s d => some (.w64, s.toNat, d.toNat, fun a b => a &&& b)
  | .parcelOr s d => some (.w64, s.toNat, d.toNat, fun a b => a ||| b)
  | .parcelXor s d => some (.w64, s.toNat, d.toNat, fun a b => a ^^^ b)
  | .parcelAddiS32 ix d => some (.w32, d.toNat, d.toNat, fun a _ => trunc ((a : Int) + ix.toInt) 32)
  | .parcelAddiS64 ix d => some (.w64, d.toNat, d.toNat, fun a _ => trunc ((a : Int) + ix.toInt) 64)
  | .parcelShlZ32 n d => some (.w32, d.toNat, d.toNat, fun a _ => a * 2 ^ n.toNat)
  | .parcelShrZ32 n d => some (.w32, d.toNat, d.toNat, fun a _ => a / 2 ^ n.toNat)
  | .parcelSraS32 n d => some (.w32, d.toNat, d.toNat, fun a _ => trunc (sext a 32 / 2 ^ n.toNat) 32)
  | _ => none

/-- R66, R87, R88, R89: the instructions that write every lane of one register from unmasked sources: registers read, width,
destination, and lane i of the result, on the context. -/
def wholeLanes : Instr → Option (Nat × List Nat × Width × Nat × (Ctx → Nat → Nat))
  | .sel m w b a d => some (2, [a.toNat, b.toNat], w, d.toNat, fun x i =>
      lane (x.v (if x.maskBit m i then a.toNat else b.toNat)) w.bitsN i)
  | .movi ix u w d => some (2, [], w, d.toNat, fun _ _ => if u then ix.toNat else trunc ix.toInt w.bitsN)
  | .ins m w j a d => some (2, [a.toNat, d.toNat], w, d.toNat, fun x i =>
      if i = j.toNat ∧ x.maskBit m i = true then lane (x.v a.toNat) w.bitsN 0 else lane (x.v d.toNat) w.bitsN i)
  | .parcelMoviS32 ix d => some (1, [], .w32, d.toNat, fun _ _ => trunc ix.toInt 32)
  | .parcelNegS32 s d => some (1, [s.toNat], .w32, d.toNat, fun x i => trunc (-(lane (x.v s.toNat) 32 i : Int)) 32)
  | .parcelBcstZ32 s d => some (1, [s.toNat], .w32, d.toNat, fun x _ => lane (x.v s.toNat) 32 0)
  | _ => none

/-- R89: the masked lane moves: mask, width, registers read besides a masked destination, destination, and lane i. -/
def laneMove : Instr → Option (MReg × Width × List Nat × VReg × (Ctx → Nat → Nat))
  | .mov m w a d => if m = 0#2 then none else some (m, w, maskedReads m [a] d, d, fun x i => lane (x.v a.toNat) w.bitsN i)
  | .bcst m w j a d => some (m, w, maskedReads m [a] d, d, fun x _ => lane (x.v a.toNat) w.bitsN j.toNat)
  | .shuf m w b a d => some (m, w, maskedReads m [a, b] d, d, fun x i =>
      if lane (x.v b.toNat) w.bitsN i < w.lanes then lane (x.v a.toNat) w.bitsN (lane (x.v b.toNat) w.bitsN i) else 0)
  | .perm m w b a d => some (m, w, [a.toNat, b.toNat, d.toNat], d, fun x i =>
      if lane (x.v d.toNat) w.bitsN i < w.lanes then lane (x.v a.toNat) w.bitsN (lane (x.v d.toNat) w.bitsN i)
      else if lane (x.v d.toNat) w.bitsN i < 2 * w.lanes then
        lane (x.v b.toNat) w.bitsN (lane (x.v d.toNat) w.bitsN i - w.lanes)
      else 0)
  | _ => none

end Sys2Proof.Claim

/-- R83, R85: add, sub, adds, subs, mul, mulh, mulhz, div, divz, rem, remz, min, max, minz, maxz, and, or, xor, andn, shl, shr,
sra and rot write the lane results of R85 to the lanes that the mask selects, keep the others, clear the tag, and change nothing
else. -/
def Sys2Proof.Claim.LaneResultsOfTwoSources : Prop :=
  ∀ (ins : Instr) (m : MReg) (w : Width) (b a d : VReg) (f : Nat → Nat → Nat → Nat) (s : State) (c i : Nat),
    Claim.lane2 ins = some (m, w, b, a, d, f) →
    Claim.ready s c i .plain (maskedReads m [a, b] d) [d.toNat] [] →
    ∃ t v, exec ins s = .next t ∧
      Claim.lanesOf (s.ctx c i) m w d
        (fun j => f w.bitsN (lane ((s.ctx c i).v a.toNat) w.bitsN j) (lane ((s.ctx c i).v b.toNat) w.bitsN j)) v ∧
      Claim.did s t c i 2 ((s.ctx c i).setV d.toNat v)

/-- R83, R85, R88: neg, abs, clz, popc, addi, the shifts and rotation by an immediate, and movh write their lane results and
change nothing else. -/
def Sys2Proof.Claim.LaneResultsOfOneSource : Prop :=
  ∀ (ins : Instr) (m : MReg) (w : Width) (a d : VReg) (f : Nat → Nat → Nat) (s : State) (c i : Nat),
    Claim.lane1 ins = some (m, w, a, d, f) →
    Claim.ready s c i .plain (maskedReads m [a] d) [d.toNat] [] →
    ∃ t v, exec ins s = .next t ∧
      Claim.lanesOf (s.ctx c i) m w d (fun j => f w.bitsN (lane ((s.ctx c i).v a.toNat) w.bitsN j)) v ∧
      Claim.did s t c i 2 ((s.ctx c i).setV d.toNat v)

/-- R66: the integer parcels compute every lane of their destination, which is also their first source, and change nothing
else. -/
def Sys2Proof.Claim.IntegerParcels : Prop :=
  ∀ (ins : Instr) (w : Width) (b d : Nat) (f : Nat → Nat → Nat) (s : State) (c i : Nat),
    Claim.parcelLane ins = some (w, b, d, f) →
    Claim.ready s c i .plain [d, b] [d] [] →
    ∃ t v, exec ins s = .next t ∧ v < 2 ^ 128 ∧
      (∀ j, j < w.lanes →
        lane v w.bitsN j = f (lane ((s.ctx c i).v d) w.bitsN j) (lane ((s.ctx c i).v b) w.bitsN j) % 2 ^ w.bitsN) ∧
      Claim.did s t c i 1 ((s.ctx c i).setV d v)

/-- R87 to R89: sel, movi, ins and the parcels movi, neg and bcst write every lane of their destination and change nothing
else. -/
def Sys2Proof.Claim.WholeRegisterLanes : Prop :=
  ∀ (ins : Instr) (len : Nat) (rd : List Nat) (w : Width) (d : Nat) (f : Ctx → Nat → Nat) (s : State) (c i : Nat),
    Claim.wholeLanes ins = some (len, rd, w, d, f) →
    Claim.ready s c i .plain rd [d] [] →
    ∃ t v, exec ins s = .next t ∧ v < 2 ^ 128 ∧ (∀ j, j < w.lanes → lane v w.bitsN j = f (s.ctx c i) j % 2 ^ w.bitsN) ∧
      Claim.did s t c i len ((s.ctx c i).setV d v)

/-- R87, R89: masked mov, bcst, shuf and perm write the lanes that the mask selects, keep the others, clear the tag, and change
nothing else. -/
def Sys2Proof.Claim.MaskedLaneMoves : Prop :=
  ∀ (ins : Instr) (m : MReg) (w : Width) (rd : List Nat) (d : VReg) (f : Ctx → Nat → Nat) (s : State) (c i : Nat),
    Claim.laneMove ins = some (m, w, rd, d, f) →
    Claim.ready s c i .plain rd [d.toNat] [] →
    ∃ t v, exec ins s = .next t ∧ Claim.lanesOf (s.ctx c i) m w d (f (s.ctx c i)) v ∧
      Claim.did s t c i 2 ((s.ctx c i).setV d.toNat v)

/-- R87, R89: an unmasked mov and the parcel mov copy a register with its tag; ext copies one lane to the low end of a register
that is else zero; zip and unzip write a pair of registers. They change nothing else. -/
def Sys2Proof.Claim.RegisterMoves : Prop :=
  ∀ (s : State) (c i : Nat),
    (∀ (w : Width) (a d : VReg), Claim.ready s c i .plain [a.toNat] [d.toNat] [] →
      ∃ t, exec (.mov 0#2 w a d) s = .next t ∧
        Claim.did s t c i 2 ((s.ctx c i).setV d.toNat ((s.ctx c i).v a.toNat) ((s.ctx c i).vtag a.toNat))) ∧
    (∀ (a d : BitVec 5), Claim.ready s c i .plain [a.toNat] [d.toNat] [] →
      ∃ t, exec (.parcelMov a d) s = .next t ∧
        Claim.did s t c i 1 ((s.ctx c i).setV d.toNat ((s.ctx c i).v a.toNat) ((s.ctx c i).vtag a.toNat))) ∧
    (∀ (w : Width) (j : BitVec 6) (a d : VReg), Claim.ready s c i .plain [a.toNat] [d.toNat] [] →
      ∃ t, exec (.ext w j a d) s = .next t ∧
        Claim.did s t c i 2 ((s.ctx c i).setV d.toNat (lane ((s.ctx c i).v a.toNat) w.bitsN j.toNat))) ∧
    (∀ (w : Width) (b a d : VReg), Claim.ready s c i .plain [a.toNat, b.toNat] [d.toNat, d.toNat + 1] [(d.toNat, 2)] →
      ∃ t p, exec (.zip w b a d) s = .next t ∧ p < 2 ^ 256 ∧
        (∀ j, j < w.lanes → lane p w.bitsN (2 * j) = lane ((s.ctx c i).v a.toNat) w.bitsN j ∧
          lane p w.bitsN (2 * j + 1) = lane ((s.ctx c i).v b.toNat) w.bitsN j) ∧
        Claim.did s t c i 2 (((s.ctx c i).setV d.toNat (p % 2 ^ 128)).setV (d.toNat + 1) (p / 2 ^ 128))) ∧
    (∀ (w : Width) (b a d : VReg), Claim.ready s c i .plain [a.toNat, b.toNat] [d.toNat, d.toNat + 1] [(d.toNat, 2)] →
      ∃ t p, exec (.unzip w b a d) s = .next t ∧ p < 2 ^ 256 ∧
        (∀ j, j < w.lanes →
          lane p w.bitsN j = lane ((s.ctx c i).v a.toNat + 2 ^ 128 * (s.ctx c i).v b.toNat) w.bitsN (2 * j) ∧
          lane p w.bitsN (w.lanes + j) = lane ((s.ctx c i).v a.toNat + 2 ^ 128 * (s.ctx c i).v b.toNat) w.bitsN (2 * j + 1)) ∧
        Claim.did s t c i 2 (((s.ctx c i).setV d.toNat (p % 2 ^ 128)).setV (d.toNat + 1) (p / 2 ^ 128)))

/-! ### Masks, registers and identity (R56, R57, R59, R60, R86, R87, R141) -/

namespace Sys2Proof.Claim
open Sys2Proof.Machine

/-- R86: an integer comparison of lanes of w bits. -/
def intHolds : ICond → Nat → Nat → Nat → Prop
  | .eq, _, a, b => a = b
  | .ne, _, a, b => a ≠ b
  | .lt, w, a, b => sext a w < sext b w
  | .le, w, a, b => sext a w ≤ sext b w
  | .ltz, _, a, b => a < b
  | .lez, _, a, b => a ≤ b

/-- R56, R60, R87: the instructions that write a whole mask register: registers read, destination, and its bit j. -/
def maskOp : Instr → Option (List Nat × MReg × (Ctx → Nat → Prop))
  | .cmp m w cc b a k => some ([a.toNat, b.toNat], k, fun x j => j < w.lanes ∧ x.maskBit m j = true ∧
      intHolds cc w.bitsN (lane (x.v a.toNat) w.bitsN j) (lane (x.v b.toNat) w.bitsN j))
  | .kset n k => some ([], k, fun _ j => j < n.toNat)
  | .kand b a d => some ([], d, fun x j => (x.mask a).testBit j = true ∧ (x.mask b).testBit j = true)
  | .kor b a d => some ([], d, fun x j => (x.mask a).testBit j = true ∨ (x.mask b).testBit j = true)
  | .knot a d => some ([], d, fun x j => (x.mask a).testBit j = false)
  | _ => none

/-- R59, R60, R141: the instructions that write one register from state that is no vector register: registers read,
destination and value. -/
def regRead : Instr → Option (List Nat × VReg × (State → Nat → Nat → Nat))
  | .getx x d => some ([], d, fun s c i =>
      let y := s.ctx c i
      if x.toNat < 8 then y.ext x.toNat else if x.toNat = 8 then y.r.flags.toNat else if x.toNat = 9 then y.r.srseq.toNat
      else y.mask (BitVec.ofNat 2 x.toNat))
  | .rdc d => some ([], d, fun s c _ => (s.core c).counter)
  | .rdid n d => some ([], d, fun s c i =>
      let y := s.ctx c i
      s.identity c y.lvl n.toNat i y.nreg y.skeinSeen)
  | .peer a d => some ([a.toNat], d, fun s c i => (s.core c).peerWord ((s.ctx c i).vlo a.toNat))
  | _ => none

end Sys2Proof.Claim

/-- R56, R57, R86, R87: cmp, kset, kand, kor and knot write every bit of their destination mask, the bits past the lanes with
0; a write to k0 is discarded; nothing else changes. -/
def Sys2Proof.Claim.MaskResults : Prop :=
  ∀ (ins : Instr) (rd : List Nat) (k : MReg) (p : Ctx → Nat → Prop) (s : State) (c i : Nat),
    Claim.maskOp ins = some (rd, k, p) → Claim.ready s c i .plain rd [] [] →
    ∃ t v, exec ins s = .next t ∧ v < 2 ^ 16 ∧ (∀ j, j < 16 → (v.testBit j = true ↔ p (s.ctx c i) j)) ∧
      (k ≠ 0#2 → Claim.did s t c i 2 ((s.ctx c i).setMask k v)) ∧ (k = 0#2 → Claim.did s t c i 2 (s.ctx c i))

/-- R25, R59, R60, R141: getx, rdc, rdid and peer write their value, zero-extended and without a tag, to their destination and
change nothing else. -/
def Sys2Proof.Claim.RegisterReads : Prop :=
  ∀ (ins : Instr) (rd : List Nat) (d : VReg) (f : State → Nat → Nat → Nat) (s : State) (c i : Nat),
    Claim.regRead ins = some (rd, d, f) → Claim.ready s c i .plain rd [d.toNat] [] →
    ∃ t, exec ins s = .next t ∧ Claim.did s t c i 2 ((s.ctx c i).setV d.toNat (f s c i))

/-- R60: setx writes the low half of its source to an extension register (selectors 0 to 7), the sticky flags (8) or a mask
register k1 to k3 (17 to 19), and changes nothing else. -/
def Sys2Proof.Claim.SetxWrites : Prop :=
  ∀ (a : VReg) (x : BitVec 6) (s : State) (c i : Nat), Claim.ready s c i .plain [a.toNat] [] [] →
    ∃ t, exec (.setx a x) s = .next t ∧
      (x.toNat < 8 → Claim.did s t c i 2 ((s.ctx c i).setExt x.toNat ((s.ctx c i).vlo a.toNat))) ∧
      (x.toNat = 8 → Claim.did s t c i 2
        { s.ctx c i with r := { (s.ctx c i).r with flags := BitVec.ofNat 5 ((s.ctx c i).vlo a.toNat) } }) ∧
      (16 < x.toNat → x.toNat < 20 → Claim.did s t c i 2 ((s.ctx c i).setMask (BitVec.ofNat 2 x.toNat) ((s.ctx c i).vlo a.toNat)))

/-! ### Capabilities (R92 to R97) -/

namespace Sys2Proof.Claim
open Sys2Proof.Machine

/-- R95: the address that an instruction gives the capability in register a. -/
def capAddr : Instr → Option (VReg × List Nat × VReg × (Ctx → Nat))
  | .cinc b a d => some (a, [a.toNat, b.toNat], d, fun x =>
      trunc ((x.vlo a.toNat : Int) + sext (x.vlo b.toNat) 64) 64)
  | .cset b a d => some (a, [a.toNat, b.toNat], d, fun x => x.vlo b.toNat)
  | .cincImm ix a d => some (a, [a.toNat], d, fun x => trunc ((x.vlo a.toNat : Int) + ix.toInt) 64)
  | _ => none

/-- R95, R97: the instructions that read a capability or write one with the address and bounds it has: source, registers read,
destination, value and tag. -/
def capRead : Instr → Option (List Nat × VReg × (Ctx → Nat × Bool))
  | .cgetb a d => some ([a.toNat], d, fun x => ((capDecode (x.v a.toNat)).1, false))
  | .cgetl a d => some ([a.toNat], d, fun x =>
      ((capDecode (x.v a.toNat)).2.1 - (capDecode (x.v a.toNat)).1, false))
  | .cgetp a d => some ([a.toNat], d, fun x => ((capDecode (x.v a.toNat)).2.2, false))
  | .ctag a d => some ([a.toNat], d, fun x => (if x.vtag a.toNat then 1 else 0, false))
  | .cclr a d => some ([a.toNat], d, fun x => (x.v a.toNat, false))
  | .cperm b a d => some ([a.toNat, b.toNat], d, fun x =>
      (setBits (x.v a.toNat) 64 8 (bits (x.v a.toNat) 71 64 &&& bits (x.v b.toNat) 7 0), x.vtag a.toNat))
  | _ => none

/-- R96: the instructions that narrow exactly: source, registers read, destination and length. -/
def capBound : Instr → Option (VReg × List Nat × VReg × (Ctx → Nat))
  | .cbnd b a d => some (a, [a.toNat, b.toNat], d, fun x => x.vlo b.toNat)
  | .cbndImm ix a d => some (a, [a.toNat], d, fun _ => ix.toNat)
  | _ => none

end Sys2Proof.Claim

/-- R95: cinc and cset replace the address and keep every other bit; the tag stays only where the new address is canonical and
representable, and where it stays base and top are as before. -/
def Sys2Proof.Claim.CapabilityAddresses : Prop :=
  ∀ (ins : Instr) (a : VReg) (rd : List Nat) (d : VReg) (f : Ctx → Nat) (s : State) (c i : Nat),
    Claim.capAddr ins = some (a, rd, d, f) → Claim.ready s c i .plain rd [d.toNat] [] →
    ∃ t g, exec ins s = .next t ∧
      Claim.did s t c i 2 ((s.ctx c i).setV d.toNat ((s.ctx c i).v a.toNat / 2 ^ 64 * 2 ^ 64 + f (s.ctx c i)) g) ∧
      (g = true ↔ (s.ctx c i).vtag a.toNat = true ∧ f (s.ctx c i) < 2 ^ 60 ∧
        capRepresentable ((s.ctx c i).v a.toNat) (f (s.ctx c i)) = true) ∧
      (g = true →
        capDecode ((s.ctx c i).v a.toNat / 2 ^ 64 * 2 ^ 64 + f (s.ctx c i)) = capDecode ((s.ctx c i).v a.toNat))

/-- R93, R95, R97: cgetb, cgetl, cgetp, ctag, cclr and cperm read what they name; cperm clears permissions and keeps the tag;
nothing else changes. -/
def Sys2Proof.Claim.CapabilityReads : Prop :=
  ∀ (ins : Instr) (rd : List Nat) (d : VReg) (f : Ctx → Nat × Bool) (s : State) (c i : Nat),
    Claim.capRead ins = some (rd, d, f) → Claim.ready s c i .plain rd [d.toNat] [] →
    ∃ t, exec ins s = .next t ∧ Claim.did s t c i 2 ((s.ctx c i).setV d.toNat (f (s.ctx c i)).1 (f (s.ctx c i)).2)

/-- R94, R96: cbnd narrows a tagged capability to exactly the length from its address where the new bounds lie within the old
and are representable, and keeps its permissions; without a tag it faults with CAPTAG, outside the old bounds with CAPBND, and
where no exponent represents the bounds with CAPREP. -/
def Sys2Proof.Claim.CapabilityBounds : Prop :=
  ∀ (ins : Instr) (a : VReg) (rd : List Nat) (d : VReg) (f : Ctx → Nat) (s : State) (c i : Nat),
    Claim.capBound ins = some (a, rd, d, f) → Claim.ready s c i .plain rd [d.toNat] [] →
    let x := s.ctx c i
    let v := x.v a.toNat
    let b := bits v 59 0
    let w := b + f x
    ∃ t, exec ins s = .next t ∧
      (x.vtag a.toNat = false → Claim.faulted s t c i cCAPTAG b) ∧
      (x.vtag a.toNat = true → (b < (capDecode v).1 ∨ (capDecode v).2.1 < w) → Claim.faulted s t c i cCAPBND b) ∧
      (x.vtag a.toNat = true → (capDecode v).1 ≤ b → w ≤ (capDecode v).2.1 → capExp b w = none →
        Claim.faulted s t c i cCAPREP b) ∧
      (∀ e, x.vtag a.toNat = true → (capDecode v).1 ≤ b → w ≤ (capDecode v).2.1 → capExp b w = some e →
        ∃ n, capDecode n = (b, w, (capDecode v).2.2) ∧ n % 2 ^ 64 = v % 2 ^ 64 ∧
          Claim.did s t c i 2 (x.setV d.toNat n true))

/-- R94, R96: cbnd.r rounds outward at the first exponent that represents the rounded bounds: the result spans the bounds
asked for, at the least exponent, and keeps address and permissions; where the rounded bounds leave the old ones it faults with
CAPBND. -/
def Sys2Proof.Claim.CapabilityRoundedBounds : Prop :=
  ∀ (b a d : VReg) (s : State) (c i e : Nat), Claim.ready s c i .plain [a.toNat, b.toNat] [d.toNat] [] →
    let x := s.ctx c i
    let v := x.v a.toNat
    let lo := bits v 59 0
    let hi := lo + x.vlo b.toNat
    let lo' := lo / 2 ^ e * 2 ^ e
    let hi' := (hi + 2 ^ e - 1) / 2 ^ e * 2 ^ e
    x.vtag a.toNat = true → capRoundExp lo hi = some e →
    ∃ t, exec (.cbndR b a d) s = .next t ∧
      (lo' < (capDecode v).1 ∨ (capDecode v).2.1 < hi' → Claim.faulted s t c i cCAPBND lo) ∧
      ((capDecode v).1 ≤ lo' → hi' ≤ (capDecode v).2.1 →
        ∃ n, capDecode n = (lo', hi', (capDecode v).2.2) ∧ n % 2 ^ 64 = v % 2 ^ 64 ∧
          Claim.did s t c i 2 (x.setV d.toNat n true))

/-! ### Tensor indices (R98 to R101) -/

/-- R98, R100: shp copies the 64 bytes of its entry into four registers; tix writes the coordinates of a linear index, lowest
dimension first, by the entry's extents, magics and shifts; tlin writes the sum of products of five coordinates and strides
modulo 2^64. They change nothing else. -/
def Sys2Proof.Claim.TensorOperations : Prop :=
  ∀ (s : State) (c i : Nat),
    (∀ (n d : BitVec 6),
      Claim.ready s c i .plain [] [d.toNat, d.toNat + 1, d.toNat + 2, d.toNat + 3] [(d.toNat, 4)] →
      ∃ t, exec (.shp n d) s = .next t ∧
        Claim.did s t c i 2 ((List.range 4).foldl (fun x j =>
          x.setV (d.toNat + j) (lane ((s.core c).shapeEntry n.toNat) 128 j)) (s.ctx c i))) ∧
    (∀ (b a d : VReg),
      Claim.ready s c i .plain [a.toNat, b.toNat, b.toNat + 1, b.toNat + 2, b.toNat + 3] [d.toNat, d.toNat + 1]
        [(d.toNat, 2), (b.toNat, 4)] →
      let x := s.ctx c i
      let e := packLanes 128 [x.v b.toNat, x.v (b.toNat + 1), x.v (b.toNat + 2), x.v (b.toNat + 3)]
      ∃ t p, exec (.tix b a d) s = .next t ∧ p < 2 ^ 256 ∧
        (∀ j, j < 8 → lane p 32 j =
          (((tixCoords e (x.vlo a.toNat % 2 ^ 32) 0 (shapeRank e - 1)).getD j 0) % 2 ^ 32).toNat) ∧
        Claim.did s t c i 2 ((x.setV d.toNat (p % 2 ^ 128)).setV (d.toNat + 1) (p / 2 ^ 128))) ∧
    (∀ (b a d : VReg),
      Claim.ready s c i .plain [a.toNat, a.toNat + 1, b.toNat, b.toNat + 1, b.toNat + 2] [d.toNat]
        [(a.toNat, 2), (b.toNat, 4)] →
      let x := s.ctx c i
      let k (j : Nat) : Int := sext (lane (packLanes 128 [x.v a.toNat, x.v (a.toNat + 1)]) 32 j) 32
      let w (j : Nat) : Int := sext (lane (packLanes 128 [x.v b.toNat, x.v (b.toNat + 1), x.v (b.toNat + 2)]) 64 j) 64
      ∃ t, exec (.tlin b a d) s = .next t ∧
        Claim.did s t c i 2 (x.setV d.toNat
          (((k 0 * w 0 + k 1 * w 1 + k 2 * w 2 + k 3 * w 3 + k 4 * w 4) % 2 ^ 64).toNat)))

/-! ### Branches, transfers and what ends a Fibre (R61, R62, R102 to R104, R137 to R141) -/

namespace Sys2Proof.Claim
open Sys2Proof.Machine

/-- R102: the branches: offset in parcels, register read, and when it is taken. -/
def branch : Instr → Option (BitVec 13 × List Nat × (Ctx → Prop))
  | .b o => some (o, [], fun _ => True)
  | .bAny o k => some (o, [], fun x => ∃ j, j < 16 ∧ (x.mask k).testBit j = true)
  | .bNone o k => some (o, [], fun x => ∀ j, j < 16 → (x.mask k).testBit j = false)
  | .bAll o n k => some (o, [], fun x => ∀ j, j < n.toNat → (x.mask k).testBit j = true)
  | .bNall o n k => some (o, [], fun x => ∃ j, j < n.toNat ∧ (x.mask k).testBit j = false)
  | .bZ o a => some (o, [a.toNat], fun x => x.v a.toNat % 2 ^ 64 = 0)
  | .bNz o a => some (o, [a.toNat], fun x => x.v a.toNat % 2 ^ 64 ≠ 0)
  | _ => none

/-- R104, R62, R68: the instructions whose effect is a fault of the Fibre: cause and address. -/
def trapOf : Instr → Option (Nat × Nat)
  | .trap n => some (cTRAP, n.toNat)
  | .ebrk => some (cEBRK, 0)
  | .parcelEbrk => some (cEBRK, 0)
  | .unassignedEncoding => some (cILLINST, 0)
  | _ => none

end Sys2Proof.Claim

/-- R71, R102: a branch whose target lies in its block goes to its own offset plus off13 parcels when taken and on to the next
instruction when not; one whose target lies outside faults with ILLINST, taken or not. Nothing else changes. In the run of a signed
block the first branch, whose target lies behind it and at or before the marker, does the same, and the run keeps that it has branched,
which way, and the branch on its path; any other faults with ILLINST at offset 0 of the block, whose held stores are gone and whose
registers are those at entry. That R71 holds in the run alone is the model's choice (notes/assumptions/106.md). -/
def Sys2Proof.Claim.Branches : Prop :=
  (∀ (ins : Instr) (o : BitVec 13) (rd : List Nat) (p : Ctx → Prop) (s : State) (c i : Nat),
    Claim.branch ins = some (o, rd, p) → Claim.ready s c i .branch rd [] [] → (s.ctx c i).signed = none →
    let x := s.ctx c i
    let target : Int := x.pcOff + o.toInt
    ∃ t, exec ins s = .next t ∧
      (0 ≤ target → target < 32 → p x → Claim.went s t c i { x with pcOff := target.toNat }) ∧
      (0 ≤ target → target < 32 → ¬ p x → Claim.did s t c i 2 x) ∧
      (target < 0 ∨ 32 ≤ target → Claim.faulted s t c i cILLINST 0)) ∧
  (∀ (ins : Instr) (o : BitVec 13) (rd : List Nat) (p : Ctx → Prop) (s : State) (c i m : Nat) (g : Signed) (d : List Byte),
    Claim.branch ins = some (o, rd, p) → Claim.ready s c i .branch rd [] [] → (s.ctx c i).signed = some g →
    (((s.core c).findBlock (s.ctx c i).pcBlk).bind (·.data)) = some d → markerOf d = some m →
    let x := s.ctx c i
    let target : Int := x.pcOff + o.toInt
    let ok := g.branched = false ∧ (x.pcOff : Int) + 2 ≤ target ∧ target ≤ m ∧ target < 32
    ∃ t, exec ins s = .next t ∧
      (ok → p x → Claim.went s t c i { x with pcOff := target.toNat }) ∧
      (ok → ¬ p x → Claim.did s t c i 2 x) ∧
      (ok → ∃ h, (t.ctx c i).signed = some h ∧ h.branched = true ∧ (h.taken = true ↔ p x) ∧
        h.path = g.path ++ pathBytes d x.pcOff ∧ h.stores = g.stores ∧ h.entry = g.entry ∧ h.second = g.second) ∧
      (¬ ok → Claim.faulted s t c i cILLINST 0 ∧ (t.ctx c i).signed = none ∧ (t.ctx c i).pcOff = 0 ∧
        (t.ctx c i).faultPc = x.pcBlk ∧ t.reqs.map (·.id) = s.reqs.map (·.id) ∧
        ∀ r, r < 64 → ((t.ctx c i).r.cell r).val = (g.entry.cell r).val ∧ ((t.ctx c i).r.cell r).tag = (g.entry.cell r).tag))

/-- R103, R139: jal to a block whose copy is at hand continues at its target, at own address plus twice off25, with the address
of the next instruction in e5; jr does the same from a capability that passes fetch_check, without a link; both leave broadcast
mode, and change nothing else. -/
def Sys2Proof.Claim.JumpsAndLinks : Prop :=
  ∀ (s : State) (c i : Nat) (d : List Byte),
    let x := s.ctx c i
    (∀ (o : BitVec 25),
      let a := ((x.pcBlk : Int) + 2 * x.pcOff + 2 * o.toInt) % 2 ^ 64
      Claim.ready s c i .leaves [] [] [] → s.fetchBlock c x.lvl (a.toNat - a.toNat % 64) = .ready d →
      ∃ t, exec (.jal o) s = .next t ∧
        Claim.went s t c i { x.setExt 5 ((x.pcBlk + 2 * (x.pcOff + 2)) % 2 ^ 64) with
          pcBlk := a.toNat - a.toNat % 64, pcOff := a.toNat % 64 / 2, bmode := false }) ∧
    (∀ (a : VReg) (b o : Nat),
      Claim.ready s c i .leaves [a.toNat] [] [] →
      fetchCheck (s.core c) x.lvl (x.v a.toNat) (x.vtag a.toNat) = .ok (b, o) → s.fetchBlock c x.lvl b = .ready d →
      ∃ t, exec (.jr a) s = .next t ∧ Claim.went s t c i { x with pcBlk := b, pcOff := o, bmode := false })

/-- R139: fetch_check passes exactly a tagged capability with permission X whose even address lies in a 64-byte block that
both its bounds and the code window of the level hold, and gives the block and the parcel offset. -/
def Sys2Proof.Claim.FetchCheckPasses : Prop :=
  ∀ (k : Core) (u : Bool) (v : Nat) (g : Bool) (b o : Nat),
    let a := v % 2 ^ 60
    fetchCheck k u v g = .ok (b, o) ↔
      (g = true ∧ v.testBit 66 = true ∧ a % 2 = 0 ∧ b = a / 64 * 64 ∧ o = a % 64 / 2 ∧
        (capDecode v).1 ≤ b ∧ b + 64 ≤ (capDecode v).2.1 ∧
        (k.ident u).jdcwb ≤ b ∧ b + 64 ≤ (k.ident u).jdcwb + (k.ident u).jdcwl)

/-- R139: bfetch fills the slot it names with the block and offset of its capability; bjump continues at a valid slot's block
and offset, out of broadcast mode, and empties the slot; bjump.bc returns a member to its stream at the start of a block. No
register and no memory changes. -/
def Sys2Proof.Claim.BlockControl : Prop :=
  ∀ (s : State) (c i : Nat),
    let x := s.ctx c i
    (∀ (a : VReg) (j : Bool) (b o : Nat),
      Claim.ready s c i .plain [a.toNat] [] [] →
      fetchCheck (s.core c) x.lvl (x.v a.toNat) (x.vtag a.toNat) = .ok (b, o) →
      ∃ t, exec (.bfetch a j) s = .next t ∧ (t.ctx c i).r = x.r ∧ Claim.place (t.ctx c i) = Claim.place (x.advance 2) ∧
        ((t.ctx c i).st = .running →
          (if j then (t.ctx c i).slot1 else (t.ctx c i).slot0) = { valid := true, blk := b, off := o } ∧
          (if j then (t.ctx c i).slot0 = x.slot0 else (t.ctx c i).slot1 = x.slot1)) ∧
        (∀ e, e ≠ c → t.core e = s.core e) ∧ Claim.sameMemory s t) ∧
    (∀ (j : Bool) (d : List Byte),
      let w := if j then x.slot1 else x.slot0
      Claim.ready s c i .leaves [] [] [] → w.valid = true → s.fetchBlock c x.lvl w.blk = .ready d →
      ∃ t, exec (.bjump j) s = .next t ∧
        Claim.went s t c i { x with pcBlk := w.blk, pcOff := w.off, bmode := false } ∧
        (if j then (t.ctx c i).slot1 else (t.ctx c i).slot0).valid = false) ∧
    (Claim.ready s c i .leaves [] [] [] → x.mbr = true →
      ∃ t, exec .bjumpBc s = .next t ∧
        Claim.went s t c i { x with
          bmode := true, pcOff := 0, streamPos := max (if x.bmode then x.streamPos + 1 else x.streamPos) ((s.core c).streamBase x) })

/-- R62, R104, R137: nop and its parcel only advance; the end parcel, and a signature marker outside a signed block, go on at the
start of the next block (of the stream, in broadcast mode). An end parcel inside a signed block goes on the same way, out of the
signed block, with the registers as they were at its entry (the model's choice, notes/assumptions/24.md). -/
def Sys2Proof.Claim.NopAndBlockEnd : Prop :=
  ∀ (s : State) (c i : Nat),
    let x := s.ctx c i
    (Claim.ready s c i .plain [] [] [] → ∃ t, exec .nop s = .next t ∧ Claim.did s t c i 2 x) ∧
    (Claim.ready s c i .plain [] [] [] → ∃ t, exec .parcelNop s = .next t ∧ Claim.did s t c i 1 x) ∧
    (Claim.ready s c i .plain [] [] [] → x.signed = none → x.pcOff < 32 →
      ∃ t, exec .endParcel s = .next t ∧ Claim.went s t c i
        (if x.bmode then { x with pcOff := 0, streamPos := x.streamPos + 1 } else { x with pcOff := 0, pcBlk := x.pcBlk + 64 })) ∧
    (∀ g, Claim.ready s c i .plain [] [] [] → x.signed = some g → x.pcOff < 32 →
      ∃ t, exec .endParcel s = .next t ∧ (t.ctx c i).signed = none ∧ Claim.place (t.ctx c i) = Claim.place
          (if x.bmode then { x with pcOff := 0, streamPos := x.streamPos + 1 } else { x with pcOff := 0, pcBlk := x.pcBlk + 64 }) ∧
        (∀ r, r < 64 → ((t.ctx c i).r.cell r).val = (g.entry.cell r).val ∧ ((t.ctx c i).r.cell r).tag = (g.entry.cell r).tag) ∧
        (∀ e, e ≠ c → t.core e = s.core e) ∧ Claim.sameMemory s t) ∧
    (Claim.ready s c i .plain [] [] [] → x.signed = none → x.pcOff < 32 →
      ∃ t, exec .signatureMarker s = .next t ∧ Claim.went s t c i
        (if x.bmode then { x with pcOff := 0, streamPos := x.streamPos + 1 } else { x with pcOff := 0, pcBlk := x.pcBlk + 64 }))

/-- R10, R68, R104, R144: trap, ebrk, its parcel and what decodes to no instruction take their fault: the context enters FAULTED
at the instruction, with cause and address, and its fault message is queued. -/
def Obligations.FibreTraps : Prop :=
  ∀ (ins : Instr) (cause addr : Nat) (s : State) (c i : Nat),
    Claim.trapOf ins = some (cause, addr) → Claim.ready s c i .plain [] [] [] →
    ∃ t, exec ins s = .next t ∧ Claim.faulted s t c i cause addr

/-- R140: stop and its parcel put the context into STOPPED behind the instruction, with its registers; no other register and no
memory changes. -/
def Sys2Proof.Claim.Stops : Prop :=
  ∀ (s : State) (c i : Nat), Claim.ready s c i .leaves [] [] [] →
    (∃ t, exec .stop s = .next t ∧ (t.ctx c i).st = .stopped ∧ Claim.did s t c i 2 (s.ctx c i)) ∧
    (∃ t, exec .parcelStop s = .next t ∧ (t.ctx c i).st = .stopped ∧ Claim.did s t c i 1 (s.ctx c i))

/-- R141: peerw on a peer that is another incarnation than its operand names, STOPPED or FREE, goes on; on any other it waits. -/
def Sys2Proof.Claim.PeerWaits : Prop :=
  ∀ (a : VReg) (s : State) (c i : Nat), Claim.ready s c i .wait [a.toNat] [] [] →
    let x := s.ctx c i
    let w := x.vlo a.toNat
    let p := s.ctx c (w % 32)
    x.byDispatch = false → w < 2 ^ 13 → w % 32 ≠ i → (x.lvl = false ∨ p.lvl = true ∨
      (p.st = .free ∧ (s.core c).savedAt (w % 32) = none)) →
    ∃ t, exec (.peerw a) s = .next t ∧
      (p.inc.toNat ≠ w / 32 ∨ p.st = .stopped ∨ p.st = .free → Claim.did s t c i 2 x) ∧
      (p.inc.toNat = w / 32 → p.st ≠ .stopped → p.st ≠ .free → Claim.waits s t c i .peer (w % 32))

/-! ### Floating point (R30 to R49, R105 to R126) -/

namespace Sys2Proof.Claim
open Sys2Proof.Machine

/-- R42, R44, R107: a floating-point result: lanes of w bits of register d where the mask selects them, their flags raised, and
srseq advanced by an instruction that rounds stochastically. -/
def fpDone (x : Ctx) (m : MReg) (d : Nat) (w n : Nat) (rm : Rm) (f : Nat → Nat × Nat) (y : Ctx) : Prop :=
  ∃ v fl, v < 2 ^ 128 ∧ fl < 32 ∧
    (∀ j, j < n → lane v w j = if x.maskBit m j then (f j).1 % 2 ^ w else lane (x.v d) w j) ∧
    (∀ q, q < 5 → (fl.testBit q = true ↔
      x.r.flags.toNat.testBit q = true ∨ ∃ j, j < n ∧ x.maskBit m j = true ∧ (f j).2.testBit q = true)) ∧
    y = { x with r := { (x.setV d v).r with
      flags := BitVec.ofNat 5 fl, srseq := if rm = .sr then x.r.srseq + 1#32 else x.r.srseq } }

/-- R105, R111: one rounding of an exact value to a type, beside flags already raised. -/
def rounded (f : Fmt) (rm : Rm) (draw : Nat) (e : FVal) (raised : Bool) (fl : Nat) : Nat × Nat :=
  ((fround f rm false draw e).1, (if raised then 16 else 0) ||| fl ||| (fround f rm false draw e).2)

/-- R111, R112: the arithmetic of two or three sources: length, mask, type, mode, sources a, b and destination, and the lane
result on the draw and the codes of a, b and the old destination. -/
def fpArith : Instr → Option (Nat × MReg × Fmt × Rm × VReg × VReg × VReg × (Nat → Nat → Nat → Nat → Nat × Nat))
  | .addFp r b a d t => some (2, 0#2, fmtOf t, r, a, b, d, add (fmtOf t) r)
  | .subFp r b a d t => some (2, 0#2, fmtOf t, r, a, b, d, sub (fmtOf t) r)
  | .mulFp r b a d t => some (2, 0#2, fmtOf t, r, a, b, d, mul (fmtOf t) r)
  | .divFp r b a d t => some (2, 0#2, fmtOf t, r, a, b, d, fun dr p q _ =>
      let f := fmtOf t
      rounded f r dr (fdivX (fval f p) (fval f q)).1 (f.isSnan p || f.isSnan q) (fdivX (fval f p) (fval f q)).2)
  | .minFp b a d t => some (2, 0#2, fmtOf t, .rne, a, b, d, pick (fmtOf t) false)
  | .maxFp b a d t => some (2, 0#2, fmtOf t, .rne, a, b, d, pick (fmtOf t) true)
  | .scl r b a d t => some (2, 0#2, fmtOf t, r, a, b, d, fun dr p q _ =>
      let f := fmtOf t
      rounded f r dr (fsclX (fval f p) (sext q f.w)) (f.isSnan p) 0)
  | .fma m r b a d t => some (2, m, fmtOf t, r, a, b, d, fused (fmtOf t) r false false)
  | .fms m r b a d t => some (2, m, fmtOf t, r, a, b, d, fused (fmtOf t) r false true)
  | .fnma m r b a d t => some (2, m, fmtOf t, r, a, b, d, fused (fmtOf t) r true false)
  | .fnms m r b a d t => some (2, m, fmtOf t, r, a, b, d, fused (fmtOf t) r true true)
  | .parcelAddF32 s d => some (1, 0#2, fmt32, .rne, reg5 d, reg5 s, reg5 d, add fmt32 .rne)
  | .parcelSubF32 s d => some (1, 0#2, fmt32, .rne, reg5 d, reg5 s, reg5 d, sub fmt32 .rne)
  | .parcelMulF32 s d => some (1, 0#2, fmt32, .rne, reg5 d, reg5 s, reg5 d, mul fmt32 .rne)
  | .parcelMaxF32 s d => some (1, 0#2, fmt32, .rne, reg5 d, reg5 s, reg5 d, pick fmt32 true)
  | .parcelFmaF32 s d => some (1, 0#2, fmt32, .rne, reg5 s, reg5 s + 1#6, reg5 d, fused fmt32 .rne false false)
  | .parcelAddF16 s d => some (1, 0#2, fmt16, .rne, reg5 d, reg5 s, reg5 d, add fmt16 .rne)
  | .parcelMulF16 s d => some (1, 0#2, fmt16, .rne, reg5 d, reg5 s, reg5 d, mul fmt16 .rne)
  | .parcelFmaF16 s d => some (1, 0#2, fmt16, .rne, reg5 s, reg5 s + 1#6, reg5 d, fused fmt16 .rne false false)
  | _ => none
where
  /-- a + b. -/
  add (f : Fmt) (r : Rm) (dr p q _ : Nat) : Nat × Nat :=
    rounded f r dr (fsumX [fval f p, fval f q] r)
      (f.isSnan p || f.isSnan q || bothInf [fval f p, fval f q]) 0
  /-- a − b. -/
  sub (f : Fmt) (r : Rm) (dr p q _ : Nat) : Nat × Nat :=
    rounded f r dr (fsumX [fval f p, (fval f q).negate] r)
      (f.isSnan p || f.isSnan q || bothInf [fval f p, (fval f q).negate]) 0
  /-- a · b. -/
  mul (f : Fmt) (r : Rm) (dr p q _ : Nat) : Nat × Nat :=
    rounded f r dr (fmulX (fval f p) (fval f q)) (f.isSnan p || f.isSnan q || isZeroInf (fval f p) (fval f q)) 0
  /-- min or max. -/
  pick (f : Fmt) (big : Bool) (_ p q _ : Nat) : Nat × Nat :=
    (f.pick big p q, if f.isSnan p || f.isSnan q then 16 else 0)
  /-- ±a·b ± c with one rounding. -/
  fused (f : Fmt) (r : Rm) (np nc : Bool) (dr p q o : Nat) : Nat × Nat :=
    let e := fmulX (fval f p) (fval f q)
    let ts := [if np then e.negate else e, if nc then (fval f o).negate else fval f o]
    rounded f r dr (fsumX ts r) (fsumX ts r).isNan 0

/-- The registers that an instruction of `fpArith` reads: a fused one reads its destination too. -/
def fpReads : Instr → VReg → VReg → VReg → List Nat
  | .fma .., a, b, d | .fms .., a, b, d | .fnma .., a, b, d | .fnms .., a, b, d | .parcelFmaF32 .., a, b, d
  | .parcelFmaF16 .., a, b, d => [a.toNat, b.toNat, d.toNat]
  | _, a, b, _ => [a.toNat, b.toNat]

/-- R111, R125, R126: the arithmetic of one source: type, mode, source, destination, and the lane result on the draw and the
code. The special functions of .f32 are bounded by R126 only (notes/assumptions/7.md). -/
def fpUnary : Instr → Option (Fmt × Rm × VReg × VReg × (Nat → Nat → Nat × Nat))
  | .sqrt r a d t => some (fmtOf t, r, a, d, fun dr p =>
      let f := fmtOf t
      rounded f r dr (fsqrtX (fval f p)).1 (f.isSnan p) (fsqrtX (fval f p)).2)
  | .absFp a d t => some (fmtOf t, .rne, a, d, fun _ p =>
      let f := fmtOf t
      (if f.isNan p then f.nanCode else p % 2 ^ (f.w - 1), 0))
  | .negFp a d t => some (fmtOf t, .rne, a, d, fun _ p =>
      let f := fmtOf t
      (if f.isNan p then f.nanCode else if p.testBit (f.w - 1) then p % 2 ^ (f.w - 1) else p % 2 ^ (f.w - 1) + 2 ^ (f.w - 1), 0))
  | .rnd r a d t => some (fmtOf t, r, a, d, fun _ p =>
      let f := fmtOf t
      ((fround f .rne false 0 (frndX (fval f p) r)).1, if f.isSnan p then 16 else 0))
  | .frc r a d t => some (fmtOf t, r, a, d, fun _ p =>
      let f := fmtOf t
      if (fval f p).isInf then (f.nanCode, 16)
      else ((fround f r false 0 (fsumX [fval f p, (frndX (fval f p) r).negate] r)).1, if f.isSnan p then 16 else 0))
  | .rcp t a d => some (spFmt t, .rne, a, d, fun _ p => spLane .rcp t p)
  | .rsq t a d => some (spFmt t, .rne, a, d, fun _ p => spLane .rsq t p)
  | .exp2 t a d => some (spFmt t, .rne, a, d, fun _ p => spLane .exp2 t p)
  | .log2 t a d => some (spFmt t, .rne, a, d, fun _ p => spLane .log2 t p)
  | .sin t a d => some (spFmt t, .rne, a, d, fun _ p => spLane .sin t p)
  | .cos t a d => some (spFmt t, .rne, a, d, fun _ p => spLane .cos t p)
  | .tanh t a d => some (spFmt t, .rne, a, d, fun _ p => spLane .tanh t p)
  | _ => none

/-- R117: a floating-point comparison of codes, and whether it raises NV. -/
def fpHolds (f : Fmt) (cc : FCond) (p q : Nat) : Prop :=
  let un := f.isNan p = true ∨ f.isNan q = true
  match cc with
  | .eq => ¬ un ∧ f.cmpKey p = f.cmpKey q
  | .ne => un ∨ f.cmpKey p ≠ f.cmpKey q
  | .lt => ¬ un ∧ f.cmpKey p < f.cmpKey q
  | .le => ¬ un ∧ f.cmpKey p ≤ f.cmpKey q
  | .un => un
/-- R117: lt and le raise NV for any NaN, the others for a signalling one. -/
def fpRaises (f : Fmt) (cc : FCond) (p q : Nat) : Bool :=
  if cc = .lt ∨ cc = .le then f.isNan p || f.isNan q else f.isSnan p || f.isSnan q

end Sys2Proof.Claim

/-- R107, R111, R112, R66: the arithmetic instructions and parcels of two and three sources round the exact result of each lane
once, raise the lanes' flags, advance srseq under .sr only, and change nothing else. That a fused form raises NV for a quiet NaN
too is the model's choice, from R47's words alone (notes/assumptions/25.md). -/
def Sys2Proof.Claim.FloatArithmetic : Prop :=
  ∀ (ins : Instr) (len : Nat) (m : MReg) (f : Fmt) (rm : Rm) (a b d : VReg) (g : Nat → Nat → Nat → Nat → Nat × Nat)
    (s : State) (c i : Nat),
    Claim.fpArith ins = some (len, m, f, rm, a, b, d, g) → Claim.ready s c i .plain (Claim.fpReads ins a b d) [d.toNat] [] →
    let x := s.ctx c i
    ∃ t y, exec ins s = .next t ∧
      Claim.fpDone x m d.toNat f.w (128 / f.w) rm
        (fun j => g (x.draw rm j) (lane (x.v a.toNat) f.w j) (lane (x.v b.toNat) f.w j) (lane (x.v d.toNat) f.w j)) y ∧
      Claim.did s t c i len y

/-- R111, R124 to R126: the arithmetic and special functions of one source write their lane results, raise the lanes' flags and
change nothing else. That frc rounds in its own mode is the model's choice (notes/assumptions/26.md). -/
def Sys2Proof.Claim.FloatFunctions : Prop :=
  ∀ (ins : Instr) (f : Fmt) (rm : Rm) (a d : VReg) (g : Nat → Nat → Nat × Nat) (s : State) (c i : Nat),
    Claim.fpUnary ins = some (f, rm, a, d, g) → Claim.ready s c i .plain [a.toNat] [d.toNat] [] →
    let x := s.ctx c i
    ∃ t y, exec ins s = .next t ∧
      Claim.fpDone x 0#2 d.toNat f.w (128 / f.w) rm (fun j => g (x.draw rm j) (lane (x.v a.toNat) f.w j)) y ∧
      Claim.did s t c i 2 y

/-- R117, R118: the compare writes its mask, with 0 for lanes masked off or absent, and raises NV by its condition for selected
lanes; classify writes one bit for the class of each selected lane and raises nothing. Nothing else changes. -/
def Sys2Proof.Claim.FloatComparesAndClasses : Prop :=
  ∀ (m : MReg) (t : FpT) (b a d : VReg) (s : State) (c i : Nat),
    let x := s.ctx c i
    let f := fmtOf t
    (∀ (cc : FCond) (k : MReg), Claim.ready s c i .plain [a.toNat, b.toNat] [] [] →
      ∃ u v fl, exec (.cmpFp m t cc b a k) s = .next u ∧ v < 2 ^ 16 ∧ fl < 32 ∧
        (∀ j, j < 16 → (v.testBit j = true ↔ j < 128 / f.w ∧ x.maskBit m j = true ∧
          Claim.fpHolds f cc (lane (x.v a.toNat) f.w j) (lane (x.v b.toNat) f.w j))) ∧
        (∀ q, q < 5 → (fl.testBit q = true ↔ x.r.flags.toNat.testBit q = true ∨
          (q = 4 ∧ ∃ j, j < 128 / f.w ∧ x.maskBit m j = true ∧
            Claim.fpRaises f cc (lane (x.v a.toNat) f.w j) (lane (x.v b.toNat) f.w j) = true))) ∧
        Claim.did s u c i 2 { x with r := { (x.setMask k v).r with flags := BitVec.ofNat 5 fl } }) ∧
    (Claim.ready s c i .plain (maskedReads m [a] d) [d.toNat] [] →
      ∃ u v, exec (.classify m t a d) s = .next u ∧ v < 2 ^ 128 ∧
        (∀ j, j < 128 / f.w → lane v f.w j =
          if x.maskBit m j then
            let p := lane (x.v a.toNat) f.w j
            if f.isNan p then (if f.isSnan p then 2 ^ 8 else 2 ^ 9)
            else match fval f p with
              | .inf n => if n then 2 ^ 0 else 2 ^ 7
              | e => if e.isZero then (if e.neg then 2 ^ 3 else 2 ^ 4)
                else if p % 2 ^ (f.w - 1) < 2 ^ f.f then (if e.neg then 2 ^ 2 else 2 ^ 5)
                else (if e.neg then 2 ^ 1 else 2 ^ 6)
          else lane (x.v d.toNat) f.w j) ∧
        Claim.did s u c i 2 (x.setV d.toNat v))

/-- R48, R114 to R116: rsum adds the lanes in the tree of R48, masked-off lanes as −0, and rmax takes the greatest selected
lane, or −Inf of none; both write the low lane and zero the rest. dot and dot.sr add the exact products of the selected lanes to
the accumulator lane with one rounding and keep the rest of the register. Flags and srseq follow, and nothing else changes. R116
lists a signalling NaN, 0 times Inf and both infinities as what raises NV; that a quiet NaN raises it too in a dot is the model's
choice, from R47's words alone (notes/assumptions/25.md). -/
def Sys2Proof.Claim.FloatReductions : Prop :=
  ∀ (m : MReg) (t : FpT) (b a d : VReg) (s : State) (c i : Nat),
    let x := s.ctx c i
    let f := fmtOf t
    let sel := (List.range (128 / f.w)).filter fun j => x.maskBit m j
    let done (u : State) (v fl : Nat) (rm : Rm) := Claim.did s u c i 2
      { x with r := { (x.setV d.toNat v).r with
        flags := x.r.flags ||| BitVec.ofNat 5 fl, srseq := if rm = .sr then x.r.srseq + 1#32 else x.r.srseq } }
    (∀ (r : Rm), Claim.ready s c i .plain [a.toNat] [d.toNat] [] →
      let l := (List.range (128 / f.w)).map fun j => if x.maskBit m j then lane (x.v a.toNat) f.w j else 2 ^ (f.w - 1)
      ∃ u, exec (.rsum m t r a d) s = .next u ∧
        done u (rsumTree t r (x.draw r) 0 l 4).1
          ((if l.any f.isSnan then 16 else 0) ||| (rsumTree t r (x.draw r) 0 l 4).2) r) ∧
    (Claim.ready s c i .plain [a.toNat] [d.toNat] [] →
      ∃ u v, exec (.rmax m t a d) s = .next u ∧
        (sel = [] → v = 2 ^ (f.w - 1) + f.infCode) ∧
        (∀ j ∈ sel, f.isNan (lane (x.v a.toNat) f.w j) = false →
          f.isNan v = false ∧ f.ordKey (lane (x.v a.toNat) f.w j) ≤ f.ordKey v) ∧
        (sel ≠ [] → (∃ j ∈ sel, v = lane (x.v a.toNat) f.w j ∧ f.isNan v = false) ∨
          (v = f.nanCode ∧ ∀ j ∈ sel, f.isNan (lane (x.v a.toNat) f.w j) = true)) ∧
        done u v (if sel.any fun j => f.isSnan (lane (x.v a.toNat) f.w j) then 16 else 0) .rne) ∧
    (∀ (sr : Bool), Claim.ready s c i .plain [a.toNat, b.toNat, d.toNat] [d.toNat] [] →
      let w := accFmt t
      let rm : Rm := if sr then .sr else .rne
      let c0 := lane (x.v d.toNat) w.w 0
      let prod (j : Nat) := fmulX (fval f (lane (x.v a.toNat) f.w j)) (fval f (lane (x.v b.toNat) f.w j))
      let ts := fval w c0 :: sel.map prod
      let bad := (fsumX ts rm).isNan
      let y := fround w rm false (x.draw rm 0) (fsumX ts rm)
      ∃ u, exec (if sr then .dotSr m t b a d else .dot m t b a d) s = .next u ∧
        done u (x.v d.toNat - c0 + y.1 % 2 ^ w.w) ((if bad then 16 else 0) ||| y.2) rm)

/-- R120 to R123: cvt and cvt.sat convert the elements in order between types of any widths; mxpk writes 32 elements and the
block's scale to e5, mxup reads them back with the scale in e5. Groups of registers that spread over more registers are
aligned; flags and srseq follow, and nothing else changes. -/
def Sys2Proof.Claim.Conversions : Prop :=
  ∀ (a d : VReg) (s : State) (c i : Nat),
    let x := s.ctx c i
    let done (u : State) (y : Ctx) (fl : Nat) (rm : Rm) := Claim.did s u c i 2
      { y with r := { y.r with
        flags := x.r.flags ||| BitVec.ofNat 5 fl, srseq := if rm = .sr then x.r.srseq + 1#32 else x.r.srseq } }
    (∀ (t : TyCode) (r : Rm) (q : TyCode),
      let w := min t.bitsN q.bitsN
      let na := q.bitsN / w
      let nd := t.bitsN / w
      Claim.ready s c i .plain (regSpan a.toNat na) (regSpan d.toNat nd) [(a.toNat, na), (d.toNat, nd)] →
      let e (sat : Bool) (j : Nat) := cvtElem t q r sat (x.draw r j) (lane (x.vgroup a.toNat na) q.bitsN j)
      let converted (sat : Bool) (u : State) := ∃ p fl,
        (∀ j, j < 128 / w → lane p t.bitsN j = (e sat j).1 % 2 ^ t.bitsN) ∧
        (∀ k, fl.testBit k = true ↔ ∃ j, j < 128 / w ∧ (e sat j).2.testBit k = true) ∧
        done u (x.setGroup d.toNat nd p) fl r
      (∃ u, exec (.cvt t r q a d) s = .next u ∧ converted false u) ∧
      (∃ u, exec (.cvtSat t r q a d) s = .next u ∧ converted true u)) ∧
    (∀ (f q : Bool),
      let nd := if f then 1 else 2
      Claim.ready s c i .plain (regSpan a.toNat 4) (regSpan d.toNat nd) [(a.toNat, 4), (d.toNat, nd)] →
      let ft := if q then fmtB16 else fmt16
      let codes := (List.range 32).map fun j => lane (x.vgroup a.toNat 4) 16 j
      let k := packMx (if f then fmtE2m1 else fmtE4m3) (codes.map (fval ft)) (codes.any ft.isSnan)
      ∃ u p, exec (.mxpk f q a d) s = .next u ∧
        (∀ j, j < 32 → lane p (if f then 4 else 8) j = k.2.1.getD j 0 % 2 ^ (if f then 4 else 8)) ∧
        done u ((x.setGroup d.toNat nd p).setExt 5 k.1) k.2.2 .rne) ∧
    (∀ (t f : Bool) (r : Rm),
      let na := if f then 1 else 2
      Claim.ready s c i .plain (regSpan a.toNat na) (regSpan d.toNat 4) [(a.toNat, na), (d.toNat, 4)] →
      let e (j : Nat) := fround (if t then fmtB16 else fmt16) r false (x.draw r j)
        (mxValue (if f then fmtE2m1 else fmtE4m3) (x.ext 5 % 256) (lane (x.vgroup a.toNat na) (if f then 4 else 8) j))
      ∃ u p fl, exec (.mxup t r f a d) s = .next u ∧
        (∀ j, j < 32 → lane p 16 j = (e j).1 % 2 ^ 16) ∧
        (∀ k, fl.testBit k = true ↔ ∃ j, j < 32 ∧ (e j).2.testBit k = true) ∧
        done u (x.setGroup d.toNat 4 p) fl r)

/-- R34: an infinity converted to E5M2 stays that infinity with `.sat` as without and raises nothing; converted to E4M3 it is NaN
without `.sat` and ±448 with it, and raises NV. A finite value that overflows is ±57,344 or ±448 with `.sat`, with OF and NX. -/
def Sys2Proof.Claim.EightBitInfinities : Prop :=
  ∀ (rm : Rm) (draw : Nat) (neg : Bool),
    (∀ sat, fround fmtE5m2 rm sat draw (.inf neg) = (if neg then 0xFC else 0x7C, 0)) ∧
    fround fmtE4m3 rm false draw (.inf neg) = (fmtE4m3.nanCode, 16) ∧
    fround fmtE4m3 rm true draw (.inf neg) = (if neg then 0xFE else 0x7E, 16) ∧
    (∀ (m : Nat) (e : Int), 0 < m → 17 ≤ (bitLength m : Int) + e →
      fround fmtE5m2 rm true draw (.fin neg m e false) = (if neg then 0xFB else 0x7B, 5)) ∧
    (∀ (m : Nat) (e : Int), 0 < m → 10 ≤ (bitLength m : Int) + e →
      fround fmtE4m3 rm true draw (.fin neg m e false) = (if neg then 0xFE else 0x7E, 5))

/-- R120 to R123: every form of cvt, cvt.sat, mxpk and mxup, on every value of its source registers, retires: the context moves on
by the instruction, and no register outside its destinations and e5 changes, nor anything but its context. -/
def Sys2Proof.Claim.ConversionsRetire : Prop :=
  ∀ (a d : VReg) (s : State) (c i : Nat),
    let x := s.ctx c i
    let retired (u : State) (nd : Nat) (e5 : Bool) :=
      Claim.place (u.ctx c i) = Claim.place (x.advance 2) ∧ Claim.onlyCtx s u c i ∧
      (∀ r, (r < d.toNat ∨ d.toNat + nd ≤ r) → (u.ctx c i).r.cell r = x.r.cell r) ∧
      (∀ k, (k ≠ 5 ∨ e5 = false) → (u.ctx c i).ext k = x.ext k) ∧ (∀ k, (u.ctx c i).mask k = x.mask k)
    (∀ (t : TyCode) (r : Rm) (q : TyCode),
      let na := q.bitsN / min t.bitsN q.bitsN
      let nd := t.bitsN / min t.bitsN q.bitsN
      Claim.ready s c i .plain (regSpan a.toNat na) (regSpan d.toNat nd) [(a.toNat, na), (d.toNat, nd)] →
      (∃ u, exec (.cvt t r q a d) s = .next u ∧ retired u nd false) ∧
      (∃ u, exec (.cvtSat t r q a d) s = .next u ∧ retired u nd false)) ∧
    (∀ (f q : Bool),
      let nd := if f then 1 else 2
      Claim.ready s c i .plain (regSpan a.toNat 4) (regSpan d.toNat nd) [(a.toNat, 4), (d.toNat, nd)] →
      ∃ u, exec (.mxpk f q a d) s = .next u ∧ retired u nd true) ∧
    (∀ (t f : Bool) (r : Rm),
      let na := if f then 1 else 2
      Claim.ready s c i .plain (regSpan a.toNat na) (regSpan d.toNat 4) [(a.toNat, na), (d.toNat, 4)] →
      ∃ u, exec (.mxup t r f a d) s = .next u ∧ retired u 4 false)

/-- R38, R39: rounding a finite value without a remainder marker brackets it: the code read back as a magnitude is the greatest
multiple of the step at or below the exact magnitude, or the next one; rtz takes the lower, rup and rdn the one on their side,
and rne the nearer, the even one on a tie. Where the exact magnitude is a multiple of the step the result is exact and raises
nothing. -/
def Sys2Proof.Claim.RoundingBrackets : Prop :=
  ∀ (f : Fmt) (rm : Rm) (neg : Bool) (m : Nat) (e : Int),
    f ∈ [fmt64, fmt32, fmt16, fmtB16, fmtE5m2, fmtE4m3] → rm ≠ .sr → 0 < m → m < 2 ^ 4096 →
    let y := fround f rm false 0 (.fin neg m e false)
    let u : Int := max ((bitLength m : Int) - 1 + e) (1 - (f.bias : Int)) - f.f
    let unit : Nat := 2 ^ (u - e).toNat
    let scaled : Nat := m * 2 ^ (e - u).toNat
    let q := scaled / unit
    y.2 < 4 →
    (f.mag y.1 < 2 ^ (f.w - 1) ∧ y.1.testBit (f.w - 1) = neg) ∧
    (∃ n k e', fval f (f.mag y.1) = .fin false n e' false ∧
      ((n = k ∧ e' = u) ∨ (2 * n = k ∧ e' = u + 1)) ∧
      ((k = q ∨ k = q + 1) ∧
        (scaled % unit = 0 → k = q ∧ y.2 = 0) ∧
        (scaled % unit ≠ 0 → y.2 % 2 = 1 ∧
          match rm with
          | .rtz => k = q
          | .rup => k = if neg then q else q + 1
          | .rdn => k = if neg then q + 1 else q
          | .rne => if 2 * (scaled % unit) < unit then k = q else if unit < 2 * (scaled % unit) then k = q + 1 else k % 2 = 0
          | _ => if 2 * (scaled % unit) < unit then k = q else k = q + 1)))

/-! ### Loads, stores, atomics and fences of Fibres (R269 to R287) -/

namespace Sys2Proof.Claim
open Sys2Proof.Machine

/-- R66, R276, R277, R280: the plain and ordered loads and stores: length, whether it is a load, byte offset, size, base, register,
whether it is ordered, and the codes of ordering and scope. -/
def memOp : Instr → Option (Nat × Bool × Int × Sys2Proof.Size × VReg × VReg × Bool × Nat × Nat)
  | .ld o z b d => some (2, true, o.toInt * Size.bytes z, z, b, d, false, 0, 0)
  | .st o z b d => some (2, false, o.toInt * Size.bytes z, z, b, d, false, 0, 0)
  | .ldAcq k o z b d => some (2, true, o.toInt * Size.bytes z, z, b, d, true, 1, k.ctorIdx)
  | .stRel k o z b d => some (2, false, o.toInt * Size.bytes z, z, b, d, true, 2, k.ctorIdx)
  | .parcelLd128 b d => some (1, true, 0, .b128, reg5 b, reg5 d, false, 0, 0)
  | .parcelSt128 b d => some (1, false, 0, .b128, reg5 b, reg5 d, false, 0, 0)
  | _ => none

/-- R282, R283: the atomics: operation, ordering, scope, whether 8 bytes, base and register. -/
def atomicOp : Instr → Option (AtOp × Sys2Proof.Ord × Scope × Bool × VReg × VReg)
  | .amoAdd o k z b d => some (.add, o, k, z, b, d)
  | .amoMin o k z b d => some (.min, o, k, z, b, d)
  | .amoMax o k z b d => some (.max, o, k, z, b, d)
  | .amoMinz o k z b d => some (.minz, o, k, z, b, d)
  | .amoMaxz o k z b d => some (.maxz, o, k, z, b, d)
  | .amoAnd o k z b d => some (.and, o, k, z, b, d)
  | .amoOr o k z b d => some (.or, o, k, z, b, d)
  | .amoXor o k z b d => some (.xor, o, k, z, b, d)
  | .amoSwp o k z b d => some (.swp, o, k, z, b, d)
  | .amoCas o k z b d => some (.cas, o, k, z, b, d)
  | .amoAddf o k z b d => some (.addf, o, k, z, b, d)
  | _ => none

/-- Requests as an instruction posts them: each with its op, address, home, registers and class, in order, with fresh ids. -/
def posts (s t : State) (c i : Nat) (rs : List (ReqOp × Nat × Loc × List Nat × Bool)) : Prop :=
  ∃ new, t.reqs = s.reqs ++ new ∧ t.nextReq = s.nextReq + new.length ∧
    new.map (fun r => (r.op, r.va, r.loc, r.regs, r.isWrite)) = rs ∧
    new.map (·.id) = (List.range new.length).map (s.nextReq + ·) ∧
    ∀ r ∈ new, r.core = c ∧ r.who = .fibre i (s.ctx c i).inc.toNat ∧ (r.isWrite = false → r.insn = s.nextReq) ∧
      (r.stage = .posted ∨ r.stage = .held)

/-- Everything but requests and core c's contexts is as before; context i stands behind its instruction and holds the registers
of x. -/
def issued (s t : State) (c i len : Nat) (x : Ctx) : Prop :=
  did { s with reqs := t.reqs, nextReq := t.nextReq } t c i len x

end Sys2Proof.Claim

/-- R55, R269, R272, R275, R277, R280: a load whose access passes its checks and overlaps no earlier access posts one read for each
single-copy piece at its effective address, in order, and makes its registers PENDING, with the values they hold; an acquiring one
holds later accesses back until these reads are done. Nothing else changes. -/
def Sys2Proof.Claim.LoadsIssue : Prop :=
  ∀ (ins : Instr) (len : Nat) (off : Int) (z : Sys2Proof.Size) (b d : VReg) (acq : Bool) (o k : Nat) (s : State) (c i : Nat) (ps : Span),
    Claim.memOp ins = some (len, true, off, z, b, d, acq, o, k) →
    let n := Size.bytes z
    let rs := sizeRegs z d.toNat
    let x := s.ctx c i
    let a := ((((x.v b.toNat % 2 ^ 64 : Nat) : Int) + off) % 2 ^ 64).toNat
    Claim.ready s c i .load [b.toNat] rs (sizeAlign z d.toNat) → (∀ r ∈ rs, (x.r.cell r).pres ≠ .held) →
    checkSpan s c x b a n (min n 16) permR .read = .ok ps →
    mayPost s c i ps false = true →
    ∃ t, exec ins s = .next t ∧
      Claim.posts s t c i (ps.map fun p => (.read p.2.1 d.toNat p.1 [], a + p.1, p.2.2, rs, false)) ∧
      Claim.issued s t c i len (x.pend rs) ∧
      (acq = true → (t.ctx c i).st = .running → ∀ j, j < ps.length → s.nextReq + j ∈ (t.ctx c i).acqHold)

/-- R269, R272, R273, R275, R277, R280, R371: a store outside a signed block whose access passes its checks posts one write for
each single-copy piece with the low bytes of its registers, and with their tags for whole registers; inside a signed block it is
held there and posts nothing. A releasing one is held back until the earlier accesses are done. No register changes. -/
def Sys2Proof.Claim.StoresIssue : Prop :=
  ∀ (ins : Instr) (len : Nat) (off : Int) (z : Sys2Proof.Size) (b d : VReg) (rel : Bool) (o k : Nat) (s : State) (c i : Nat) (ps : Span),
    Claim.memOp ins = some (len, false, off, z, b, d, rel, o, k) →
    let n := Size.bytes z
    let rs := sizeRegs z d.toNat
    let x := s.ctx c i
    let a := ((((x.v b.toNat % 2 ^ 64 : Nat) : Int) + off) % 2 ^ 64).toNat
    let data := (x.payload d.toNat rs.length).take n
    let tags := rs.map x.vtag
    Claim.ready s c i (if rel then .writeOp else .store) (b.toNat :: rs) [] (sizeAlign z d.toNat) →
    checkSpan s c x b a n (min n 16) permW .write = .ok ps →
    (∀ p ∈ ps, s.overlapsOutstanding c i p.2.2 p.2.1 true = false) →
    (x.signed = none → mayPost s c i ps true = true →
      ∃ t, exec ins s = .next t ∧
        Claim.posts s t c i (ps.map fun p =>
          (.write ((data.drop p.1).take p.2.1) (if n < 16 then none else some ((tags.drop (p.1 / 16)).take (p.2.1 / 16))),
            a + p.1, p.2.2, [], true)) ∧
        (rel = true → s.ctxReqs c i ≠ [] → ∀ r ∈ t.reqs.drop s.reqs.length, r.stage = .held ∧ r.after = s.reqIds c i) ∧
        Claim.issued s t c i len x) ∧
    (∀ g, x.signed = some g → g.stores.length < 8 →
      ∃ t, exec ins s = .next t ∧ t.reqs = s.reqs ∧ Claim.did s t c i len x ∧
        ((t.ctx c i).st = .running → ((t.ctx c i).signed.map (·.stores)) =
          some (g.stores ++ [{ va := a, ps := ps, data := data, tags := if n < 16 then [] else tags, fenced := g.fenced }])))

/-- R277, R287: the pieces of an access partition its bytes in order, and each lies in one aligned unit of the single-copy size of
its memory; where 32 bytes cross into another page the second half lies where that page is mapped. -/
def Sys2Proof.Claim.AccessPieces : Prop :=
  (∀ (s : State) (c : Nat) (x : Ctx) (b : VReg) (a n al pm : Nat) (kind : AccKind) (ps : Span),
    checkSpan s c x b a n al pm kind = .ok ps →
    (∀ k, k < n → ∃ p ∈ ps, p.1 ≤ k ∧ k < p.1 + p.2.1 ∧ ∀ q ∈ ps, q.1 ≤ k → k < q.1 + q.2.1 → q = p) ∧
    (n = 32 → a % 2 ^ 16 = 2 ^ 16 - 16 → a < 2 ^ 59 →
      ∃ l, (s.core c).translate (a + 16) kind = .hit l ∧ ∀ p ∈ ps, 16 ≤ p.1 → p.2.2 = l.plus (p.1 - 16))) ∧
  ∀ (l : Loc) (n : Nat),
    (∀ k, k < n → ∃ p ∈ l.pieces n, p.1 ≤ k ∧ k < p.1 + p.2 ∧ ∀ q ∈ l.pieces n, q.1 ≤ k → k < q.1 + q.2 → q = p) ∧
    (∀ p ∈ l.pieces n, 0 < p.2 ∧ p.1 + p.2 ≤ n) ∧
    (∀ a, (∃ c, l = .spad c a) ∨ l = .pma a ∨ l = .host a →
      ∀ p ∈ l.pieces n, (a + p.1) / l.atomicSize = (a + p.1 + p.2 - 1) / l.atomicSize)

/-- R281: a gather, broadcast load or scatter whose lanes all pass their checks posts one request for each selected lane in
increasing lane order (the broadcast load one read for all; a scatter's later lanes wait for the earlier that they overlap), a gather or broadcast load leaves its register PENDING with the lanes
it had, and a scatter changes no register. With no lane selected they touch no memory. -/
def Sys2Proof.Claim.GathersAndScatters : Prop :=
  ∀ (m : MReg) (w : Bool) (ix b d : VReg) (s : State) (c i : Nat),
    let x := s.ctx c i
    let n := wBits w / 8
    (∀ ls, Claim.ready s c i .load [b.toNat, ix.toNat, d.toNat] [d.toNat] [] →
      checkLanes s c x b n permR .read (laneAddrs x m (wBits w) b ix) = .ok ls → lanesFree s c i n false ls = true →
      ∃ t, exec (.ldg m w ix b d) s = .next t ∧
        Claim.posts s t c i (ls.map fun p => (.read n d.toNat (p.1 * n) [], p.2.1, p.2.2, [d.toNat], false)) ∧
        Claim.issued s t c i 2 (if ls = [] then x.setV d.toNat (x.v d.toNat) else x.pend [d.toNat])) ∧
    (∀ ls, Claim.ready s c i .store [b.toNat, ix.toNat, d.toNat] [] [] → x.signed = none →
      checkLanes s c x b n permW .write (laneAddrs x m (wBits w) b ix) = .ok ls → lanesFree s c i n true ls = true →
      ∃ t, exec (.stg m w ix b d) s = .next t ∧
        Claim.posts s t c i (ls.map fun p =>
          (.write (bytesOf (lane (x.v d.toNat) (wBits w) p.1) n) none, p.2.1, p.2.2, [], true)) ∧
        (∀ r ∈ t.reqs.drop s.reqs.length, ∀ q ∈ t.reqs.drop s.reqs.length, q.id < r.id →
          q.loc.overlaps n r.loc n = true → q.id ∈ r.after ∧ r.stage = .held) ∧
        Claim.issued s t c i 2 x) ∧
    (∀ (u : Width) (l : Loc), Claim.ready s c i .load [b.toNat, d.toNat] [d.toNat] [] →
      accessCheck (s.core c) c (x.v b.toNat) (x.vtag b.toNat) (x.vlo b.toNat) (u.bitsN / 8) (u.bitsN / 8) permR .read = .ok l →
      mayPost s c i [(0, u.bitsN / 8, l)] false = true →
      ∃ t, exec (.ldbc m u b d) s = .next t ∧
        Claim.posts s t c i (match x.selected m u.lanes with
          | [] => []
          | j :: r => [(.read (u.bitsN / 8) d.toNat (j * (u.bitsN / 8)) (r.map (· * (u.bitsN / 8))), x.vlo b.toNat, l, [d.toNat], false)]) ∧
        Claim.issued s t c i 2 (if x.selected m u.lanes = [] then x.setV d.toNat (x.v d.toNat) else x.pend [d.toNat]))

/-- R272, R282, R283: an atomic whose access passes its checks on memory with synchronization state posts its one request, with its
operand (and for cas the new value from the next register), and makes its register PENDING; nothing else changes. -/
def Sys2Proof.Claim.AtomicsIssue : Prop :=
  ∀ (ins : Instr) (op : AtOp) (o : Sys2Proof.Ord) (k : Scope) (z : Bool) (b d : VReg) (s : State) (c i : Nat) (l : Loc),
    Claim.atomicOp ins = some (op, o, k, z, b, d) →
    let n := if z then 8 else 4
    let x := s.ctx c i
    let v (r : Nat) := x.v r % 2 ^ (8 * n)
    Claim.ready s c i .atomic (b.toNat :: if op = .cas then [d.toNat, d.toNat + 1] else [d.toNat]) [d.toNat]
      (if op = .cas then [(d.toNat, 2)] else []) →
    accessCheck (s.core c) c (x.v b.toNat) (x.vtag b.toNat) (x.vlo b.toNat) n n (permR + permW + permA) .write = .ok l →
    l.hasState = true → mayPost s c i [(0, n, l)] true = true →
    ∃ t, exec ins s = .next t ∧
      Claim.posts s t c i [(.atomic op n (if op = .cas then v (d.toNat + 1) else v d.toNat) (v d.toNat), x.vlo b.toNat, l,
        [d.toNat], true)] ∧
      Claim.issued s t c i 2 (x.setPres d.toNat .pending) ∧
      (o = .acq ∨ o = .acqrel → (t.ctx c i).st = .running → s.nextReq ∈ (t.ctx c i).acqHold) ∧
      (o = .rel ∨ o = .acqrel → ∀ r ∈ t.reqs.drop s.reqs.length, r.after = s.reqIds c i)

/-- R272: the checks on an access come in the order tag, canonical address, end of the space, permissions, alignment, bounds; an
access that passes lies in the bounds of a tagged capability with the permissions, is aligned, and in the local aperture stays in
the scratchpad under permission L. -/
def Sys2Proof.Claim.AccessChecks : Prop :=
  ∀ (k : Core) (c v a n al pm : Nat) (g : Bool) (kind : AccKind),
    let b := (capDecode v).1
    let e := (capDecode v).2.1
    (g = false → accessCheck k c v g a n al pm kind = .fault cCAPTAG a) ∧
    (g = true → canonical a = false → accessCheck k c v g a n al pm kind = .fault cNONCANON a) ∧
    (g = true → canonical a = true → 2 ^ 60 < a + n → accessCheck k c v g a n al pm kind = .fault cSPACEEND a) ∧
    (g = true → canonical a = true → a + n ≤ 2 ^ 60 → bits v 71 64 &&& pm ≠ pm →
      accessCheck k c v g a n al pm kind = .fault cCAPPERM a) ∧
    (g = true → canonical a = true → a + n ≤ 2 ^ 60 → bits v 71 64 &&& pm = pm → a % al ≠ 0 →
      accessCheck k c v g a n al pm kind = .fault cALIGN a) ∧
    (g = true → canonical a = true → a + n ≤ 2 ^ 60 → bits v 71 64 &&& pm = pm → a % al = 0 → (a < b ∨ e < a + n) →
      accessCheck k c v g a n al pm kind = .fault cCAPBND a) ∧
    (∀ l, accessCheck k c v g a n al pm kind = .ok l →
      g = true ∧ a + n ≤ 2 ^ 60 ∧ bits v 71 64 &&& pm = pm ∧ a % al = 0 ∧ b ≤ a ∧ a + n ≤ e ∧
      (2 ^ 59 ≤ a → v.testBit 71 = true ∧ a + n ≤ spadBase + spadSize ∧ l = .spad c (a - spadBase)))

/-- R280: fence.acq holds later loads, waits and write-class operations back for every load and atomic of the Fibre that is
outstanding, fence.rel holds later write-class operations back for every access that is (and puts the stores that a signed block
holds before its later ones), and fence does both; they change no register and no memory. -/
def Sys2Proof.Claim.FencesHoldBack : Prop :=
  ∀ (k : Scope) (s : State) (c i : Nat), Claim.ready s c i .plain [] [] [] →
    let isLoad (r : Req) := match r.op with | .read .. => true | .atomic .. => true | _ => false
    let held (t : State) (acq rel : Bool) := (t.ctx c i).st = .running →
      (acq = true → ∀ r ∈ s.ctxReqs c i, isLoad r = true → r.id ∈ (t.ctx c i).acqHold) ∧
      (rel = true → (∀ r ∈ s.ctxReqs c i, r.id ∈ (t.ctx c i).relHold) ∧
        ∀ g, (s.ctx c i).signed = some g → (t.ctx c i).signed.map (·.fenced) = some g.stores.length)
    (∃ t, exec (.fenceAcq k) s = .next t ∧ Claim.did s t c i 2 (s.ctx c i) ∧ held t true false) ∧
    (∃ t, exec (.fenceRel k) s = .next t ∧ Claim.did s t c i 2 (s.ctx c i) ∧ held t false true) ∧
    (∃ t, exec (.fence k) s = .next t ∧ Claim.did s t c i 2 (s.ctx c i) ∧ held t true true)

/-! ### Full/empty words, join counters and presence (R222 to R231, R257 to R267) -/

namespace Sys2Proof.Claim
open Sys2Proof.Machine

/-- R260, R261: the full/empty instructions: operation, permissions, kind of access, class, byte offset, base, register, whether
it releases. -/
def feInstr : Instr → Option (FeOp × Nat × AccKind × Cls × Int × VReg × VReg × Bool)
  | .ldfe _ _ x b d => some (.ldfe, permR + permW, .write, .wait, x.toInt * 8, b, d, false)
  | .ldff _ _ x b d => some (.ldff, permR, .read, .wait, x.toInt * 8, b, d, false)
  | .stef o _ x b v => some (.stef, permW, .write, .waitWrite, x.toInt * 8, b, v, o)
  | .stff o _ x b v => some (.stff, permW, .write, .waitWrite, x.toInt * 8, b, v, o)
  | .feclr o _ x b => some (.feclr, permW, .write, .waitWrite, x.toInt * 8, b, 0#6, o)
  | _ => none
/-- The registers that a full/empty instruction reads and writes. -/
def feReads (op : FeOp) (b v : VReg) : List Nat := if op = .stef ∨ op = .stff then [b.toNat, v.toNat] else [b.toNat]
def feWrites (op : FeOp) (v : VReg) : List Nat := if op = .ldfe ∨ op = .ldff then [v.toNat] else []
/-- The word that a store form stores. -/
def feValue (op : FeOp) (x : Ctx) (v : VReg) : Nat := if op = .stef ∨ op = .stff then x.vlo v.toNat else 0

/-- R264, R265: the updates of join counters: operation, count register and address register. -/
def jcInstr : Instr → Option (JcOp × VReg × VReg)
  | .jcInit _ b a => some (.init, b, a)
  | .jcAdd _ b a => some (.add, b, a)
  | .jcDec _ b a => some (.dec, b, a)
  | _ => none

/-- The count that an update leaves, from the one it finds and its operand (R265). -/
def jcCount : JcOp → Nat → Nat → Int
  | .init, _, x => sext x 64
  | .add, old, x => satS (sext old 64 + sext x 64) 64
  | .dec, old, x => satS (sext old 64 - sext x 64) 64
  | .wait, old, _ => sext old 64

/-- No request has an id that is still to be given. -/
def freshIds (s : State) : Prop := ∀ r ∈ s.reqs, r.id < s.nextReq

end Sys2Proof.Claim

/-- R258, R261: on a scratchpad word in the state its form awaits, with no waiter queued, a full/empty instruction completes at
once: ldfe reads it and leaves it EMPTY, ldff reads it, stef and stff store and leave it FULL, feclr leaves it EMPTY; nothing else
changes. ldfe and ldff await FULL, stef awaits EMPTY, stff and feclr await nothing. -/
def Sys2Proof.Claim.FullEmptyInScratchpad : Prop :=
  ∀ (ins : Instr) (op : FeOp) (pm : Nat) (kind : AccKind) (cls : Cls) (off : Int) (b v : VReg) (rel : Bool)
    (s : State) (c i o : Nat),
    Claim.feInstr ins = some (op, pm, kind, cls, off, b, v, rel) →
    let x := s.ctx c i
    let a := effAddr x b off
    let l := Loc.spad c o
    Claim.ready s c i cls (Claim.feReads op b v) (Claim.feWrites op v) [] →
    accessCheck (s.core c) c (x.v b.toNat) (x.vtag b.toNat) a 8 8 pm kind = .ok l →
    s.overlapsOutstanding c i l 8 true = false → (rel = true → s.ctxReqs c i = []) →
    Claim.freshIds s → s.poisonedAt l 8 = false → s.waitersAt l = [] →
    (op = .ldfe ∨ op = .ldff → s.isFull l = true) → (op = .stef → s.isFull l = false) →
    ∃ t, exec ins s = .next t ∧
      match op with
      | .ldfe => Claim.did { s.setFull l false with nextReq := s.nextReq + 1 } t c i 2
          (x.setV v.toNat (ofBytes (s.readAt l 8)))
      | .ldff => Claim.did { s with nextReq := s.nextReq + 1 } t c i 2 (x.setV v.toNat (ofBytes (s.readAt l 8)))
      | .feclr => Claim.did { if s.isFull l then s.setFull l false else s with nextReq := s.nextReq + 1 } t c i 2 x
      | _ =>
        let u := s.storeAt l (bytesOf (x.vlo v.toNat) 8) none
        Claim.did { if s.isFull l then u else u.setFull l true with nextReq := s.nextReq + 1 } t c i 2 x

/-- R254, R259, R261: on a word outside the scratchpad that has synchronization state, a full/empty instruction posts its one
request and waits for the home's answer, and on a scratchpad word that is not in the state its form awaits it queues as a waiter
of the core; no register and no memory changes. -/
def Sys2Proof.Claim.FullEmptyWaits : Prop :=
  ∀ (ins : Instr) (op : FeOp) (pm : Nat) (kind : AccKind) (cls : Cls) (off : Int) (b v : VReg) (rel : Bool)
    (s : State) (c i : Nat) (l : Loc),
    Claim.feInstr ins = some (op, pm, kind, cls, off, b, v, rel) →
    let x := s.ctx c i
    let a := effAddr x b off
    Claim.ready s c i cls (Claim.feReads op b v) (Claim.feWrites op v) [] →
    accessCheck (s.core c) c (x.v b.toNat) (x.vtag b.toNat) a 8 8 pm kind = .ok l → l.hasState = true →
    s.overlapsOutstanding c i l 8 true = false → Claim.freshIds s →
    (l.isSpad = false ∧ s.entriesFree c 1 = true) ∨
      (l.isSpad = true ∧ (rel = true → s.ctxReqs c i = []) ∧ s.poisonedAt l 8 = false ∧
        ((op = .ldfe ∨ op = .ldff) ∧ s.isFull l = false ∨ op = .stef ∧ s.isFull l = true)) →
    ∃ t r, exec ins s = .next t ∧ t.reqs = s.reqs ++ [r] ∧ r.id = s.nextReq ∧ r.op = .fe op (Claim.feValue op x v) ∧ r.loc = l ∧
      r.va = a ∧ r.rd = v.toNat ∧ (l.isSpad = true → r.stage = .waiter) ∧
      Claim.waits { s with reqs := t.reqs, nextReq := s.nextReq + 1 } t c i .fullEmpty a

/-- R265, R266: an update of a join counter in the scratchpad writes its count, saturated, and jc.init its continuation too; where
the count crosses from above 0 to 0 or below (or jc.init writes one that is not above 0) every waiter of the counter is answered; the
instruction completes, unless it crosses with a continuation to post. No register and no other byte of memory changes. -/
def Sys2Proof.Claim.JoinUpdatesInScratchpad : Prop :=
  ∀ (ins : Instr) (op : JcOp) (b a : VReg) (s : State) (c i o : Nat),
    Claim.jcInstr ins = some (op, b, a) →
    let x := s.ctx c i
    let l := Loc.spad c o
    let va := x.vlo a.toNat
    let n := x.vlo b.toNat
    let cont := if op = .init then x.v b.toNat / 2 ^ 64 else 0
    let d := ofBytes (s.readAt l 16)
    let new := Claim.jcCount op (d % 2 ^ 64) n
    let crosses := new ≤ 0 ∧ (op = .init ∨ 0 < sext (d % 2 ^ 64) 64)
    Claim.ready s c i .writeOp [a.toNat, b.toNat] [] [] → s.ctxReqs c i = [] → Claim.freshIds s → s.entriesFree c 1 = true →
    accessCheck (s.core c) c (x.v a.toNat) (x.vtag a.toNat) va 16 16 (permW + permA) .write = .ok l →
    (cont = 0 ∨ contOk cont = true) → s.poisonedAt l 16 = false → (op ≠ .init → crosses → d / 2 ^ 64 = 0) →
    ∃ t u, exec ins s = .next t ∧
      u = s.storeAt l (if op = .init then bytesOf n 8 ++ bytesOf cont 8 else bytesOf (trunc new 64) 8) none ∧
      (crosses → Claim.did { u.answerWaiters l with nextReq := s.nextReq + 1 } t c i 2 x) ∧
      (¬ crosses → Claim.did { u with nextReq := s.nextReq + 1 } t c i 2 x)

/-- R265: an update of a join counter outside the scratchpad posts one request with its count and continuation and stalls until
the home answers: the context stays at its instruction, and no register and no memory changes. -/
def Sys2Proof.Claim.JoinUpdatesPosted : Prop :=
  ∀ (ins : Instr) (op : JcOp) (b a : VReg) (s : State) (c i : Nat) (l : Loc),
    Claim.jcInstr ins = some (op, b, a) →
    let x := s.ctx c i
    let va := x.vlo a.toNat
    let cont := if op = .init then x.v b.toNat / 2 ^ 64 else 0
    Claim.ready s c i .writeOp [a.toNat, b.toNat] [] [] → s.jcStalled c i = false → s.entriesFree c 1 = true →
    accessCheck (s.core c) c (x.v a.toNat) (x.vtag a.toNat) va 16 16 (permW + permA) .write = .ok l →
    l.hasState = true → l.isSpad = false → (cont = 0 ∨ contOk cont = true) → s.overlapsOutstanding c i l 16 true = false →
    ∃ t r, exec ins s = .next t ∧ t = { s with reqs := s.reqs ++ [r], nextReq := s.nextReq + 1, stalled := true } ∧
      r.id = s.nextReq ∧ r.op = .jc op (x.vlo b.toNat) cont ∧ r.loc = l ∧ r.va = va ∧ r.after = s.reqIds c i ∧
      t.jcStalled c i = true

/-- R254, R265: jc.wait on a scratchpad counter at or below 0 completes; above 0, or on a counter outside the scratchpad, it waits
with one request; no register and no memory changes. -/
def Sys2Proof.Claim.JoinWaits : Prop :=
  ∀ (k : Scope) (a : VReg) (s : State) (c i : Nat) (l : Loc),
    let x := s.ctx c i
    let va := x.vlo a.toNat
    let count := sext (ofBytes (s.readAt l 16) % 2 ^ 64) 64
    Claim.ready s c i .wait [a.toNat] [] [] → Claim.freshIds s →
    accessCheck (s.core c) c (x.v a.toNat) (x.vtag a.toNat) va 16 16 permR .read = .ok l →
    l.hasState = true → s.overlapsOutstanding c i l 16 false = false →
    ∃ t, exec (.jcWait k a) s = .next t ∧
      (l.isSpad = true → s.poisonedAt l 16 = false → count ≤ 0 → Claim.did { s with nextReq := s.nextReq + 1 } t c i 2 x) ∧
      ((l.isSpad = true ∧ s.poisonedAt l 16 = false ∧ 0 < count) ∨ (l.isSpad = false ∧ s.entriesFree c 1 = true) →
        ∃ r, t.reqs = s.reqs ++ [r] ∧ r.id = s.nextReq ∧ r.op = .jc .wait 0 0 ∧ r.loc = l ∧
          Claim.waits { s with reqs := t.reqs, nextReq := s.nextReq + 1 } t c i .join va)

/-- R222 to R224: hold and holdm make their registers HELD with their bits as they were; pres writes the bitmap of PRESENT
registers. Nothing else changes. -/
def Sys2Proof.Claim.HoldingRegisters : Prop :=
  ∀ (s : State) (c i : Nat),
    let x := s.ctx c i
    (∀ d : VReg, Claim.ready s c i .hold [] [d.toNat] [] →
      ∃ t, exec (.hold d) s = .next t ∧ Claim.did s t c i 2 (x.setPres d.toNat .held)) ∧
    (∀ a : VReg, Claim.ready s c i .hold ([a.toNat]) [] [] →
      let rs := (List.range 64).filter fun r => (x.v a.toNat).testBit r
      Claim.ready s c i .plain [] rs [] →
      ∃ t, exec (.holdm a) s = .next t ∧ Claim.did s t c i 2 (rs.foldl (fun y r => y.setPres r .held) x)) ∧
    (∀ d : VReg, Claim.ready s c i .plain [] [d.toNat] [] →
      ∃ t v, exec (.pres d) s = .next t ∧ v < 2 ^ 64 ∧
        (∀ r, r < 64 → (v.testBit r = true ↔ r < x.nreg ∧ (x.r.cell r).pres = .present)) ∧
        Claim.did s t c i 2 (x.setV d.toNat v))

/-! ### Messages, channels, hanks and the units that a Fibre commands (R171 to R177, R196 to R213, R220 to R226, R244, R315) -/

namespace Sys2Proof.Claim
open Sys2Proof.Machine

/-- Register r is of context i, and its registers r to r + n - 1 may be read as a payload (R52, R55, R197). -/
def payloadReady (s : State) (c i r n : Nat) : Prop := r < (s.ctx c i).nreg ∧ (n = 0 ∨ (r + n ≤ (s.ctx c i).nreg ∧ ready s c i .plain (regSpan r n) [] []))

/-- R196, R197: the request that a descriptor asks for, with its payload: channel, level, length, destination, reply channel and
ordered flag come from the descriptor's fields. -/
def described (d rchan flags : Nat) (p : List Byte) (m : Msg) : Prop :=
  m.chan = d / 2 ^ 34 % 2 ^ 10 ∧ m.prio = d.testBit 45 ∧ m.plen = d / 2 ^ 46 % 32 ∧
  m.dest = d / 2 ^ 2 % 2 ^ 32 ∧ m.rchan = rchan ∧ m.flags = flags ||| (if d.testBit 51 then 128 else 0) ∧ m.payload = p ∧
  m.answer = false ∧ m.dkind = 0

/-- R172, R177: core c has sent a request in a state s: its entry holds the lowest free index, the core's next sequence number
and what its answer does, and the message carries the core's tenant and address. -/
def sends (s u : State) (c : Nat) (m : Msg) (slot : Bool) (ans : AnsKind) (ctx : Option Nat) : Prop :=
  ∃ e : Entry, e.x = (s.core c).freeEntry ∧ e.id = s.nextReq ∧ e.seq = (s.core c).seq ∧ e.lvl = m.prio ∧ e.slot = slot ∧
    e.ans = ans ∧ e.ctx = ctx ∧ e.got = false ∧
    u = (({ s with nextReq := s.nextReq + 1 } : State).setCore c
      { s.core c with seq := ((s.core c).seq + 1) % 65536, table := (s.core c).table ++ [e] }).post c
        { m with seq := (s.core c).seq, tenant := (s.core c).tenant, rcore := s.addrOf c }

end Sys2Proof.Claim

/-- R196, R197, R244, R213: send, spawn and skm.put send the request that their descriptor describes, with as many registers of
payload as it names, spawn with the spawn flag; the answer goes to the reply channel or, where that is 0, to the request's own.
Nothing else changes. -/
def Sys2Proof.Claim.FibreSends : Prop :=
  ∀ (ins : Instr) (b a : VReg) (s : State) (c i : Nat),
    let x := s.ctx c i
    let d := x.vlo a.toNat
    let n := descPlen d
    descOk' d 4 = true → s.canSend c (descPrio d) true = true → Claim.payloadReady s c i b.toNat n →
    (ins = .send b a ∧ Claim.ready s c i .writeOp [a.toNat] [] [] →
      ∃ t u m, exec ins s = .next t ∧ Claim.described d (descRchan d) 0 (x.payload b.toNat n) m ∧
        Claim.sends s u c m true (.channel (answerChan d)) (some i) ∧ Claim.did u t c i 2 x) ∧
    (ins = .skmPut b a ∧ n = 1 ∧ x.v a.toNat < 2 ^ 64 ∧ Claim.ready s c i .writeOp [a.toNat, b.toNat] [] [] →
      ∃ t u m, exec ins s = .next t ∧ Claim.described d (descRchan d) 0 (x.payload b.toNat 1) m ∧
        Claim.sends s u c m true (.channel (answerChan d)) (some i) ∧ Claim.did u t c i 2 x) ∧
    (ins = .spawn b a ∧ descRchan d = 0 ∧ descChan d = 3 ∧ 0 < n ∧ Claim.ready s c i .writeOp [a.toNat] [] [] ∧
        x.vlo b.toNat % 2 = 0 ∧ (s.core c).inWindow x.lvl (x.vlo b.toNat / 64 * 64) = true →
      ∃ t u m, exec ins s = .next t ∧ Claim.described d 0 4 (x.payload b.toNat n) m ∧
        Claim.sends s u c m true (.channel 3) (some i) ∧ Claim.did u t c i 2 x)

/-- R197, R198: sendr sends its request with reply channel 0x200 plus its entry and makes its pair of registers PENDING for the
answer; reply posts an answer to the party and channel that the descriptor of its request names, or nothing where that request
wants no reply. Nothing else changes. -/
def Sys2Proof.Claim.FibreReplies : Prop :=
  ∀ (b a : VReg) (s : State) (c i : Nat),
    let x := s.ctx c i
    (∀ (d : VReg),
      let e := x.vlo a.toNat
      let n := descPlen e
      Claim.ready s c i .writeOp [a.toNat] [d.toNat, d.toNat + 1] [(d.toNat, 2)] → descOk' e 4 = true → descRchan e = 0 →
      s.canSend c (descPrio e) false = true → Claim.payloadReady s c i b.toNat n →
      ∃ t u m, exec (.sendr b a d) s = .next t ∧
        Claim.described e (0x200 + (s.core c).freeEntry) 0 (x.payload b.toNat n) m ∧
        Claim.sends s u c m false (.regs i x.inc.toNat d.toNat (descChan e)) (some i) ∧
        Claim.did u t c i 2 ((x.setPres d.toNat .pending).setPres (d.toNat + 1) .pending)) ∧
    (∀ (l : BitVec 6),
      let d := x.v a.toNat
      Claim.ready s c i .writeOp [a.toNat] [] [] → Claim.payloadReady s c i b.toNat l.toNat →
      ∃ t, exec (.reply b a l) s = .next t ∧
        (d.testBit 57 = true ∨ bits d 29 20 = 0 → Claim.did s t c i 2 x) ∧
        (d.testBit 57 = false → bits d 29 20 ≠ 0 →
          ∃ m : Msg, m.answer = true ∧ m.chan = bits d 29 20 ∧ m.dest = bits d 19 0 ∧ m.seq = bits d 45 30 ∧ m.prio = d.testBit 56 ∧
            m.plen = l.toNat ∧ m.payload = x.payload b.toNat l.toNat ∧ m.rcore = s.addrOf c ∧ m.tenant = (s.core c).tenant ∧
            m.flags = 0 ∧ m.rchan = 0 ∧ Claim.did (s.post c m) t c i 2 x))

/-- R199, R200, R202: wrep on a PRESENT register completes and on a PENDING one waits; chen and chdis set and clear E of a channel
that their level may change; chpend reads E and W of a channel; hk.prod and hk.cons take slots of a valid hank handle, or none,
and give the slot's address and count; hk.comm and hk.free move its counts. No other register, entry or handle changes. In a signed
block the change of the core is held (R371): the core stays, and the block's later instructions see it changed; what is held, and that an
instruction that took nothing holds nothing, is the model's reading (notes/assumptions/104.md). -/
def Sys2Proof.Claim.ChannelsAndHanks : Prop :=
  ∀ (s : State) (c i : Nat),
    let x := s.ctx c i
    let held (t : State) (g : Signed) (e : SigEffect) (y : Ctx) := Claim.did s t c i 2 y ∧
      ((t.ctx c i).st = .running → (t.ctx c i).signed.map (·.effects) = some (g.effects ++ [e]))
    (∀ a : VReg, Claim.ready s c i .wait [] [a.toNat] [] →
      ∃ t, exec (.wrep a) s = .next t ∧ ((x.r.cell a.toNat).pres = .present → Claim.did s t c i 2 x)) ∧
    (∀ a : VReg, Claim.ready s c i .wait [] [] [] → a.toNat < x.nreg → (∀ f ∈ x.flaws, a.toNat ∉ f.regs) →
      (x.r.cell a.toNat).pres = .pending →
      ∃ t, exec (.wrep a) s = .next t ∧ Claim.waits s t c i .reply ((s.core c).sendrChan i x a.toNat)) ∧
    (∀ (a : VReg) (on : Bool), Claim.ready s c i .plain [a.toNat] [] [] → x.vlo a.toNat < 1024 →
      (s.core c).mayChange x.lvl (x.vlo a.toNat) = true →
      let e := (s.core c).entry (x.vlo a.toNat)
      ∃ t e', exec (if on then .chen a else .chdis a) s = .next t ∧
        e'.testBit 70 = on ∧ (∀ j, j ≠ 70 → e'.testBit j = e.testBit j) ∧
        (x.signed = none → Claim.did (s.updCore c fun k => k.setEntry (x.vlo a.toNat) e') t c i 2 x) ∧
        (∀ g, x.signed = some g → held t g (.chan (x.vlo a.toNat) on) x)) ∧
    (∀ (a d : VReg), Claim.ready s c i .plain [a.toNat] [d.toNat] [] → x.vlo a.toNat < 1024 →
      let e := ((s.core c).sigView i).entry (x.vlo a.toNat)
      ∃ t, exec (.chpend a d) s = .next t ∧
        Claim.did s t c i 2 (x.setV d.toNat ((if e.testBit 70 then 1 else 0) + 2 * (if e.testBit 72 then 1 else 0)))) ∧
    (∀ (n : BitVec 6) (h : BitVec 4) (d : VReg) (prod : Bool),
      let k := ((s.core c).sigView i).hank h.toNat
      let avail := if prod then hkFree k else hkFilled k
      let ix := if prod then hkPidx k else hkCidx k
      Claim.ready s c i .plain [] [d.toNat] [] → hkValid k = true → n.toNat ≤ hkSlots k →
      ∃ t, exec (if prod then .hkProd n h d else .hkCons n h d) s = .next t ∧
        (∀ g, x.signed = some g → n.toNat ≤ avail → held t g (.hank (if prod then .prod else .cons) h.toNat n.toNat)
          (x.setV d.toNat (spadBase + hkBase k + ix * hkElem k + n.toNat * 2 ^ 64))) ∧
        (avail < n.toNat → Claim.did s t c i 2 (x.setV d.toNat 0) ∧
          ∀ g, x.signed = some g → (t.ctx c i).st = .running → (t.ctx c i).signed.map (·.effects) = some g.effects) ∧
        (x.signed = none → n.toNat ≤ avail → Claim.did
          (s.updCore c fun q => q.setHank h.toNat
            (if prod then hkSet k (hkFilled k) (avail - n.toNat) ((ix + n.toNat) % hkSlots k) (hkCidx k)
             else hkSet k (avail - n.toNat) (hkFree k) (hkPidx k) ((ix + n.toNat) % hkSlots k)))
          t c i 2 (x.setV d.toNat (spadBase + hkBase k + ix * hkElem k + n.toNat * 2 ^ 64)))) ∧
    (∀ (n : BitVec 6) (h : BitVec 4) (comm : Bool),
      let k := ((s.core c).sigView i).hank h.toNat
      Claim.ready s c i .plain [] [] [] → hkValid k = true → hkFilled k + hkFree k + n.toNat ≤ hkSlots k →
      ∃ t, exec (if comm then .hkComm n h else .hkFree n h) s = .next t ∧
        (∀ g, x.signed = some g → held t g (.hank (if comm then .comm else .free) h.toNat n.toNat) x) ∧
        (x.signed = none → Claim.did (s.updCore c fun q => q.setHank h.toNat
          (if comm then hkSet k (hkFilled k + n.toNat) (hkFree k) (hkPidx k) (hkCidx k)
           else hkSet k (hkFilled k) (hkFree k + n.toNat) (hkPidx k) (hkCidx k))) t c i 2 x))

/-- R225, R226, R231: a deposit instruction with a descriptor that is as R226 asks sends one deposit of one or four registers to
the name in its descriptor, holding a request-table entry; the .rel forms hold it back until the Fibre's earlier writes and
deposits are done. No register and no memory changes. -/
def Sys2Proof.Claim.DepositsAreSent : Prop :=
  ∀ (ins : Instr) (g rel : Bool) (b a : VReg) (s : State) (c i : Nat),
    (ins, g, rel) ∈ [(.rstv b a, false, false), (.rstv4 b a, true, false), (.rstvRel b a, false, true), (.rstv4Rel b a, true, true)] →
    let x := s.ctx c i
    let d := x.vlo a.toNat
    let n := if g then 4 else 1
    let after := if rel then s.depositAfter c i else []
    Claim.ready s c i .writeOp (a.toNat :: regSpan b.toNat n) [] (if g then [(b.toNat, 4)] else []) →
    depositOk d g = true → s.canSend c x.lvl true = true →
    ∃ t u e m, exec ins s = .next t ∧
      e.x = (s.core c).freeEntry ∧ e.id = s.nextReq ∧ e.seq = (s.core c).seq ∧ e.isDeposit = true ∧ e.ctx = some i ∧
      e.ans = .channel (bits d 53 44) ∧ e.slot = true ∧ e.lvl = x.lvl ∧ e.got = false ∧
      m.id = s.nextReq ∧ m.after = after ∧ m.msg.dest = bits d 31 0 ∧ m.msg.dkind = 1 ∧ m.msg.rchan = bits d 53 44 ∧
      m.msg.flag flagDeposit = true ∧ m.msg.prio = x.lvl ∧ m.msg.plen = (if g then 5 else 2) ∧
      m.msg.payload.drop 16 = x.payload b.toNat n ∧ m.msg.seq = (s.core c).seq ∧ m.msg.rcore = s.addrOf c ∧
      u = ({ s with nextReq := s.nextReq + 1 } : State).setCore c
        { s.core c with
          seq := ((s.core c).seq + 1) % 65536, table := (s.core c).table ++ [e], heldMsgs := (s.core c).heldMsgs ++ [m] } ∧
      Claim.did (u.flushAll c) t c i 2 x

/-- R220, R221: join with a LIVE name that is resident on the core at its level takes the lowest vacant rank of that Skein and answers
name and rank; a Fibre that is a member or already has a Skein gets status 3; join 0 asks the launch agent and leaves its register
PENDING. leave of a Fibre that joined answers its name and rank and clears both. In a signed block the change of membership is held
(R371), and the registers report it as if it were made: what join reports there is the model's reading (notes/assumptions/104.md,
71.md). -/
def Sys2Proof.Claim.JoiningAndLeaving : Prop :=
  ∀ (s : State) (c i : Nat),
    let x := s.ctx c i
    let k := s.core c
    let live (n : Nat) := ∃ e, s.nameEntry n = some e ∧ e.st = .live
    (∀ (a d : VReg) (n : Nat), Claim.ready s c i .plain [a.toNat] [d.toNat] [] → x.signed = none → n = x.vlo a.toNat → n < 2 ^ 32 →
      ∃ t, exec (.join a d) s = .next t ∧
        (x.mbr = true ∨ x.skein ≠ 0 → Claim.did s t c i 2 (x.setV d.toNat (3 * 2 ^ 64))) ∧
        (x.mbr = false → x.skein = 0 → n ≠ 0 → ((∀ r ∈ k.residents, r.name = n → r.lvl = x.lvl → False) ∨ ¬ live n) →
          Claim.did s t c i 2 (x.setV d.toNat (3 * 2 ^ 64))) ∧
        (x.mbr = false → x.skein = 0 → n ≠ 0 → (∃ r ∈ k.residents, r.name = n ∧ r.lvl = x.lvl) → live n → 32 ≤ (k.members n).length →
          Claim.did s t c i 2 (x.setV d.toNat (n + 2 ^ 64))) ∧
        (x.mbr = false → x.skein = 0 → n ≠ 0 → (∃ r ∈ k.residents, r.name = n ∧ r.lvl = x.lvl) → live n → (k.members n).length < 32 →
          ∃ r, (∀ j ∈ k.members n, (k.ctx j).rank ≠ r) ∧ (∀ q, q < r → ∃ j ∈ k.members n, (k.ctx j).rank = q) ∧
            (t.ctx c i).joined = true ∧
            Claim.did s t c i 2 ({ x with skein := n, rank := r, joined := true }.setV d.toNat (n + r * 2 ^ 32))) ∧
        (x.mbr = false → x.skein = 0 → n = 0 → s.entriesFree c 1 = true →
          ∃ e : Entry, e.ans = .join i x.inc.toNat d.toNat ∧ e.id = s.nextReq ∧
            Claim.did (({ s with
              nextReq := s.nextReq + 1
              agent := { s.agent with nameReqs := s.agent.nameReqs ++
                [{ core := c, ctx := some i, handle := none, inc := x.inc.toNat, urgent := x.lvl }] } } : State).updCore c fun k =>
                { k with table := k.table ++ [e] }) t c i 2 (x.setPres d.toNat .pending))) ∧
    (∀ (a d : VReg) (g : Signed), Claim.ready s c i .plain [a.toNat] [d.toNat] [] → x.signed = some g →
      let v := (k.sigView i).ctx i
      let ms := (k.sigView i).members (x.vlo a.toNat)
      v.mbr = false → v.skein = 0 → 0 < x.vlo a.toNat → x.vlo a.toNat < 2 ^ 32 →
      (∃ r ∈ (k.sigView i).residents, r.name = x.vlo a.toNat ∧ r.lvl = x.lvl) → live (x.vlo a.toNat) → ms.length < 32 →
      ∃ t r, exec (.join a d) s = .next t ∧ (∀ j ∈ ms, ((k.sigView i).ctx j).rank ≠ r) ∧
        Claim.did s t c i 2 (x.setV d.toNat (x.vlo a.toNat + r * 2 ^ 32)) ∧
        ((t.ctx c i).st = .running →
          (t.ctx c i).signed.map (·.effects) = some (g.effects ++ [.join (x.vlo a.toNat) r]))) ∧
    (∀ d : VReg, Claim.ready s c i .plain [] [d.toNat] [] → x.signed = none →
      ∃ t, exec (.leave d) s = .next t ∧
        (x.joined = false → Claim.did s t c i 2 (x.setV d.toNat (3 * 2 ^ 64))) ∧
        (x.joined = true → (t.ctx c i).skein = 0 ∧ (t.ctx c i).rank = 0 ∧ (t.ctx c i).joined = false ∧
          (t.ctx c i).v d.toNat = (x.skein % 2 ^ 32) + (x.rank % 2 ^ 32) * 2 ^ 32 ∧
          Claim.place (t.ctx c i) = Claim.place (x.advance 2) ∧
          (∀ r, r < 64 → r ≠ d.toNat → (t.ctx c i).v r = x.v r ∧ (t.ctx c i).vtag r = x.vtag r) ∧ Claim.sameMemory s t))

/-- R208, R212, R213: skm.cfg configures a box where R208 admits the word and answers 1 in the low half of its register where it does
not; skm.take removes or reads the entry of a rank and answers it with the box's count and whether there was one. Both stall while a
put that has arrived can be taken, which goes first. -/
def Sys2Proof.Claim.SkimmerCommands : Prop :=
  ∀ (a d : VReg) (s : State) (c i : Nat),
    let x := s.ctx c i
    let w := x.v a.toNat
    (∀ b : VReg, Claim.ready s c i .writeOp [a.toNat, b.toNat] [d.toNat] [] → w < 16 → s.skReady c = true →
      ∃ t, exec (.skmCfg b a d) s = .next t ∧ t = { s with stalled := true }) ∧
    (Claim.ready s c i .writeOp [a.toNat] [d.toNat, d.toNat + 1] [(d.toNat, 2)] → w < 2 ^ 13 → s.skReady c = true →
      ∃ t, exec (.skmTake a d) s = .next t ∧ t = { s with stalled := true }) ∧
    (∀ b : VReg, Claim.ready s c i .writeOp [a.toNat, b.toNat] [d.toNat] [] → w < 16 → s.skReady c = false →
      let box := SkBox.ofWord (x.v b.toNat)
      ∃ t, exec (.skmCfg b a d) s = .next t ∧
        ((s.core c).boxOk w box = true → Claim.did (s.updCore c fun k => k.setBox w box) t c i 2
          (x.setV d.toNat (x.v d.toNat / 2 ^ 64 * 2 ^ 64))) ∧
        ((s.core c).boxOk w box = false → Claim.did (s.setCore c (s.core c)) t c i 2
          (x.setV d.toNat (x.v d.toNat / 2 ^ 64 * 2 ^ 64 + 1)))) ∧
    (Claim.ready s c i .writeOp [a.toNat] [d.toNat, d.toNat + 1] [(d.toNat, 2)] → w < 2 ^ 13 → s.skReady c = false →
      let box := (s.core c).box (w % 16)
      let rank := w / 16 % 256
      ∃ t, exec (.skmTake a d) s = .next t ∧
        (∀ e, box.on = true → box.entries[rank]? = some e →
          let box' := if w.testBit 12 then { box with entries := box.entries.eraseIdx rank } else box
          Claim.did (s.updCore c fun k => k.setBox (w % 16) box') t c i 2
            ((x.setV d.toNat e.bits).setV (d.toNat + 1) (lanes4 box'.entries.length 1 0 0))) ∧
        (box.on = false ∨ box.entries[rank]? = none →
          Claim.did (s.setCore c (s.core c)) t c i 2
            ((x.setV d.toNat 0).setV (d.toNat + 1) (lanes4 box.entries.length 0 0 0))))

/-! ### Harts: RISC-V (R146 to R152, R270, R284 to R286) -/

namespace Sys2Proof.Claim
open Sys2Proof.Machine

/-- R146: the instructions of RV64IM, Zba, Zbb and Zicsr that write one register and go on: register and value. -/
def rvResult (s : State) (c : Nat) (u : Bool) : RvOp → Option (XReg × Word)
  | .rr op d a b => some (d, rvRRval op ((s.hart c u).get a) ((s.hart c u).get b))
  | .ri op d a i => some (d, rvRIval op ((s.hart c u).get a) i)
  | .r op d a => some (d, rvRval op ((s.hart c u).get a))
  | .lui d i => some (d, (i ++ 0#12).signExtend 64)
  | .auipc d i => some (d, (s.hart c u).pc + (i ++ 0#12).signExtend 64)
  | .csrRead r d => (s.csrRead c u r.toNat).map fun v => (d, BitVec.ofNat 64 v)
  | _ => none

/-- R74, R146, R151: the instructions of a hart whose effect is an exception: cause and mtval. -/
def hartTrap (s : State) (c : Nat) (u : Bool) : Instr → Option (Nat × Nat)
  | .ecall => some (8, 0)
  | .wfi => some (2, s.hraw.toNat)
  | .unassignedCustomWord => some (2, s.hraw.toNat)
  | .jdTrap a => some (24, ((s.hart c u).get a).toNat)
  | .jdUiret => if (s.hart c u).jdieA then none else some (2, s.hraw.toNat)
  | .rv64imacInstruction =>
    match s.hop with
    | .rv .ebreak _ => some (3, (s.hart c u).pc.toNat)
    | .rv (.illegal _) _ => some (2, s.hraw.toNat)
    | _ => none
  | _ => none

end Sys2Proof.Claim

/-- R146, R148: an integer instruction of a hart, and a CSR read, write their value to rd and go on behind the instruction; x0
stays zero. Nothing else changes. -/
def Sys2Proof.Claim.HartComputes : Prop :=
  ∀ (op : RvOp) (rvc : Bool) (d : XReg) (v : Word) (s : State) (c : Nat) (u : Bool),
    Claim.hartReady s c u → s.hop = .rv op rvc → Claim.rvResult s c u op = some (d, v) →
    ∃ t, exec .rv64imacInstruction s = .next t ∧ Claim.hartDone s t c u d v ∧ (t.hart c u).get 0#5 = 0#64

/-- R146: what each two-register operation computes: wrapping sums, differences and products, the high halves of products, quotients
toward zero with all ones for a division by zero, remainders that return the dividend then, comparisons, shifts and rotations by the
low bits of the second, the logic of each bit, and the sign-extended low words. -/
def Sys2Proof.Claim.HartArithmetic : Prop :=
  ∀ (a b : Word),
    let w (x : Int) : Word := BitVec.ofInt 64 x
    let lo (x : Word) : Int := (x.setWidth 32).toInt
    let lu (x : Word) : Nat := x.toNat % 2 ^ 32
    rvRRval .add a b = w (a.toInt + b.toInt) ∧ rvRRval .sub a b = w (a.toInt - b.toInt) ∧ rvRRval .mul a b = w (a.toInt * b.toInt) ∧
    rvRRval .mulh a b = w (a.toInt * b.toInt / 2 ^ 64) ∧ rvRRval .mulhu a b = w ((a.toNat * b.toNat / 2 ^ 64 : Nat)) ∧
    rvRRval .mulhsu a b = w (a.toInt * b.toNat / 2 ^ 64) ∧
    rvRRval .div a b = w (if b.toInt = 0 then -1 else a.toInt.tdiv b.toInt) ∧
    rvRRval .rem a b = w (if b.toInt = 0 then a.toInt else a.toInt.tmod b.toInt) ∧
    rvRRval .divu a b = w (if b.toNat = 0 then -1 else ((a.toNat / b.toNat : Nat) : Int)) ∧
    rvRRval .remu a b = w ((if b.toNat = 0 then a.toNat else a.toNat % b.toNat : Nat)) ∧
    rvRRval .slt a b = w (if a.toInt < b.toInt then 1 else 0) ∧ rvRRval .sltu a b = w (if a.toNat < b.toNat then 1 else 0) ∧
    rvRRval .sll a b = w (a.toNat * 2 ^ (b.toNat % 64) : Nat) ∧ rvRRval .srl a b = w (a.toNat / 2 ^ (b.toNat % 64) : Nat) ∧
    rvRRval .sra a b = w (a.toInt / 2 ^ (b.toNat % 64)) ∧
    rvRRval .addw a b = w ((BitVec.ofInt 32 (lo a + lo b)).toInt) ∧ rvRRval .subw a b = w ((BitVec.ofInt 32 (lo a - lo b)).toInt) ∧
    rvRRval .mulw a b = w ((BitVec.ofInt 32 (lo a * lo b)).toInt) ∧
    rvRRval .divw a b = w (if lo b = 0 then -1 else (BitVec.ofInt 32 ((lo a).tdiv (lo b))).toInt) ∧
    rvRRval .remw a b = w (if lo b = 0 then lo a else (lo a).tmod (lo b)) ∧
    rvRRval .sh1add a b = w (b.toNat + 2 * a.toNat : Nat) ∧ rvRRval .sh3addUw a b = w (b.toNat + 8 * lu a : Nat) ∧
    rvRRval .addUw a b = w (b.toNat + lu a : Nat) ∧
    rvRRval .max a b = (if a.toInt < b.toInt then b else a) ∧ rvRRval .minu a b = (if b.toNat < a.toNat then b else a) ∧
    rvRRval .min a b = (if b.toInt < a.toInt then b else a) ∧ rvRRval .maxu a b = (if a.toNat < b.toNat then b else a) ∧
    rvRRval .sh2add a b = w (b.toNat + 4 * a.toNat : Nat) ∧ rvRRval .sh3add a b = w (b.toNat + 8 * a.toNat : Nat) ∧
    rvRRval .sh1addUw a b = w (b.toNat + 2 * lu a : Nat) ∧ rvRRval .sh2addUw a b = w (b.toNat + 4 * lu a : Nat) ∧
    rvRRval .sllw a b = w ((BitVec.ofNat 32 (lu a * 2 ^ (b.toNat % 32))).toInt) ∧
    rvRRval .srlw a b = w ((BitVec.ofNat 32 (lu a / 2 ^ (b.toNat % 32))).toInt) ∧ rvRRval .sraw a b = w (lo a / 2 ^ (b.toNat % 32)) ∧
    rvRRval .divuw a b = w (if lu b = 0 then -1 else (BitVec.ofNat 32 (lu a / lu b)).toInt) ∧
    rvRRval .remuw a b = w ((BitVec.ofNat 32 (if lu b = 0 then lu a else lu a % lu b)).toInt) ∧
    (∀ j, j < 64 →
      ((rvRRval .and a b).getLsbD j = true ↔ a.getLsbD j = true ∧ b.getLsbD j = true) ∧
      ((rvRRval .or a b).getLsbD j = true ↔ a.getLsbD j = true ∨ b.getLsbD j = true) ∧
      ((rvRRval .xor a b).getLsbD j = true ↔ a.getLsbD j ≠ b.getLsbD j) ∧
      ((rvRRval .andn a b).getLsbD j = true ↔ a.getLsbD j = true ∧ b.getLsbD j = false) ∧
      ((rvRRval .orn a b).getLsbD j = true ↔ a.getLsbD j = true ∨ b.getLsbD j = false) ∧
      ((rvRRval .xnor a b).getLsbD j = true ↔ a.getLsbD j = b.getLsbD j) ∧
      (rvRRval .rol a b).getLsbD ((j + b.toNat) % 64) = a.getLsbD j ∧ (rvRRval .ror a b).getLsbD j = a.getLsbD ((j + b.toNat) % 64)) ∧
    (∀ j, j < 32 →
      (rvRRval .rolw a b).getLsbD ((j + b.toNat) % 32) = a.getLsbD j ∧ (rvRRval .rorw a b).getLsbD j = a.getLsbD ((j + b.toNat) % 32)) ∧
    (∀ j, 32 ≤ j → j < 64 → (rvRRval .rolw a b).getLsbD j = (rvRRval .rolw a b).getLsbD 31 ∧
      (rvRRval .rorw a b).getLsbD j = (rvRRval .rorw a b).getLsbD 31)

/-- R146: what each register-immediate operation computes: that of its two-register form, with the sign-extended immediate or the
shift amount for the second register. -/
def Sys2Proof.Claim.HartImmediates : Prop :=
  ∀ (a : Word) (i : BitVec 12),
    let w (x : Int) : Word := BitVec.ofInt 64 x
    let lo (x : Word) : Int := (x.setWidth 32).toInt
    let lu (x : Word) : Nat := x.toNat % 2 ^ 32
    let n := i.toNat
    let im : Word := w i.toInt
    rvRIval .addi a i = w (a.toInt + i.toInt) ∧ rvRIval .addiw a i = w ((BitVec.ofInt 32 (lo a + i.toInt)).toInt) ∧
    rvRIval .slti a i = w (if a.toInt < i.toInt then 1 else 0) ∧ rvRIval .sltiu a i = w (if a.toNat < im.toNat then 1 else 0) ∧
    (∀ j, j < 64 →
      let bj := if j < 12 then i.getLsbD j else i.getLsbD 11
      ((rvRIval .andi a i).getLsbD j = true ↔ a.getLsbD j = true ∧ bj = true) ∧
      ((rvRIval .ori a i).getLsbD j = true ↔ a.getLsbD j = true ∨ bj = true) ∧
      ((rvRIval .xori a i).getLsbD j = true ↔ a.getLsbD j ≠ bj) ∧
      (rvRIval .rori a i).getLsbD j = a.getLsbD ((j + n) % 64)) ∧
    rvRIval .slli a i = w (a.toNat * 2 ^ (n % 64) : Nat) ∧ rvRIval .srli a i = w (a.toNat / 2 ^ (n % 64) : Nat) ∧
    rvRIval .srai a i = w (a.toInt / 2 ^ (n % 64)) ∧ rvRIval .slliUw a i = w (lu a * 2 ^ (n % 64) : Nat) ∧
    rvRIval .slliw a i = w ((BitVec.ofNat 32 (lu a * 2 ^ (n % 32))).toInt) ∧
    rvRIval .srliw a i = w ((BitVec.ofNat 32 (lu a / 2 ^ (n % 32))).toInt) ∧ rvRIval .sraiw a i = w (lo a / 2 ^ (n % 32)) ∧
    (∀ j, j < 64 → (rvRIval .roriw a i).getLsbD j = a.getLsbD ((min j 31 + n) % 32))

/-- R146: what each one-register operation computes: the zeros before the first one from either end, and the ones, of the register or
its low word; the low byte or halfword extended; every byte that is not zero made all ones; and the bytes in the opposite order. -/
def Sys2Proof.Claim.HartUnaries : Prop :=
  ∀ (a : Word),
    let w (x : Int) : Word := BitVec.ofInt 64 x
    let lead (b k : Nat) : Prop := k ≤ b ∧ (∀ j, b - k ≤ j → j < b → a.getLsbD j = false) ∧ (k < b → a.getLsbD (b - 1 - k) = true)
    let trail (b k : Nat) : Prop := k ≤ b ∧ (∀ j, j < k → a.getLsbD j = false) ∧ (k < b → a.getLsbD k = true)
    let ones (b : Nat) : Nat := ((List.range b).map fun j => if a.getLsbD j then 1 else 0).sum
    lead 64 (rvRval .clz a).toNat ∧ lead 32 (rvRval .clzw a).toNat ∧ trail 64 (rvRval .ctz a).toNat ∧ trail 32 (rvRval .ctzw a).toNat ∧
    (rvRval .cpop a).toNat = ones 64 ∧ (rvRval .cpopw a).toNat = ones 32 ∧
    rvRval .sextB a = w ((a.setWidth 8).toInt) ∧ rvRval .sextH a = w ((a.setWidth 16).toInt) ∧
    rvRval .zextH a = w (a.toNat % 2 ^ 16 : Nat) ∧
    (∀ j, j < 8 → bits (rvRval .orcB a).toNat (8 * j + 7) (8 * j) = (if bits a.toNat (8 * j + 7) (8 * j) = 0 then 0 else 255) ∧
      bits (rvRval .rev8 a).toNat (8 * j + 7) (8 * j) = bits a.toNat (63 - 8 * j) (56 - 8 * j))

/-- R146, R150, R151: jal and jalr link the next instruction's address and jump, a branch jumps where its condition holds, and
jd.uiret ends the handler and continues at jdepc. Nothing else changes. -/
def Sys2Proof.Claim.HartJumps : Prop :=
  ∀ (s : State) (c : Nat) (u rvc : Bool), Claim.hartReady s c u →
    let h := s.hart c u
    let next := h.pc + BitVec.ofNat 64 (hartLen s.hraw)
    (∀ d off, s.hop = .rv (.jal d off) rvc →
      exec .rv64imacInstruction s = .next (s.setHart c u (Claim.hartAt h d next (h.pc + off.signExtend 64)))) ∧
    (∀ d a i, s.hop = .rv (.jalr d a i) rvc →
      exec .rv64imacInstruction s = .next (s.setHart c u (Claim.hartAt h d next ((h.get a + i.signExtend 64) &&& ~~~1#64)))) ∧
    (∀ op a b off, s.hop = .rv (.br op a b off) rvc →
      exec .rv64imacInstruction s = .next (s.setHart c u (Claim.hartAt h 0#5 0#64
        (if rvTaken op (h.get a) (h.get b) then h.pc + off.signExtend 64 else next)))) ∧
    (h.jdieA = true → exec .jdUiret s = .next (s.setHart c u (Claim.hartAt { h with jdieA := false } 0#5 0#64 h.jdepc)))

/-- R74, R146, R151, R152: ecall, wfi, ebreak, jd.trap, jd.uiret without a handler and every word that is no instruction take
their exception, with the cause of the rules and an mtval; that ebreak's mtval is its own address is the model's choice, PRESUMED
from RISC-V's privileged specification (notes/assumptions/65.md). -/
def Sys2Proof.Claim.HartTraps : Prop :=
  ∀ (ins : Instr) (cause v : Nat) (s : State) (c : Nat) (u : Bool),
    Claim.hartReady s c u → Claim.hartTrap s c u ins = some (cause, v) →
    ∃ t, exec ins s = .next t ∧ Claim.excTaken s t c u cause v

/-- R148: a CSR instruction that writes swaps, sets or clears jdivec, jdie.E or jdepc and reads the old value into rd; any other
CSR raises cause 2. Nothing else changes. -/
def Sys2Proof.Claim.CsrWrites : Prop :=
  ∀ (op : CsrOp) (imm : Bool) (r : BitVec 12) (d a : XReg) (s : State) (c : Nat) (u : Bool),
    Claim.hartReady s c u → s.hop = .csr op imm r d a →
    let h := s.hart c u
    let src : Word := if imm then BitVec.ofNat 64 a.toNat else h.get a
    let new (old : Word) : Word := match op with | .rw => src | .rs => old ||| src | .rc => old &&& ~~~src
    let next := h.pc + BitVec.ofNat 64 (hartLen s.hraw)
    ∃ t, exec .csrWrite s = .next t ∧
      (r = 0x800#12 → t = s.setHart c u (Claim.hartAt { h with jdivec := new h.jdivec &&& ~~~3#64 } d h.jdivec next)) ∧
      (r = 0x801#12 →
        let old : Word := BitVec.ofNat 64 ((if h.jdieE then 1 else 0) + 2 * (if h.jdieA then 1 else 0))
        t = s.setHart c u (Claim.hartAt { h with jdieE := (new old).getLsbD 0 } d old next)) ∧
      (r = 0x802#12 → t = s.setHart c u (Claim.hartAt { h with jdepc := new h.jdepc &&& ~~~1#64 } d h.jdepc next)) ∧
      (r ≠ 0x800#12 → r ≠ 0x801#12 → r ≠ 0x802#12 → Claim.excTaken s t c u 2 s.hraw.toNat)

/-- R149, R270, R284: a load of a hart from its scratchpad, the shape table or the handler window writes the sign- or zero-extended
bytes to rd at once; from any other memory it posts one request and holds the hart until the answer. A misaligned address, one
outside the ambient capabilities and poison raise causes 4, 5 and 26. -/
def Sys2Proof.Claim.HartLoads : Prop :=
  ∀ (op : LoadOp) (d a : XReg) (i : BitVec 12) (rvc : Bool) (s : State) (c : Nat) (u : Bool),
    Claim.hartReady s c u → s.hop = .load op d a i rvc → Claim.freshIds s →
    let h := s.hart c u
    let n := LoadOp.size op
    let va := (h.get a + i.signExtend 64).toNat
    let value (b : List Byte) : Word :=
      BitVec.ofInt 64 (if LoadOp.sg op then sext (ofBytes b) (8 * n) else (ofBytes b : Int))
    ∃ t, exec .hartLoad s = .next t ∧
      (∀ o, s.hartCheck c u va n permR false = .ok (.spad c o) →
        (s.poisonedAt (.spad c o) n = false →
          Claim.hartDone { s with nextReq := s.nextReq + 1 } t c u d (value (s.readAt (.spad c o) n))) ∧
        (s.poisonedAt (.spad c o) n = true → Claim.excTaken { s with nextReq := s.nextReq + 1 } t c u 26 va)) ∧
      (∀ o, s.hartCheck c u va n permR false = .ok (.shape c o) →
        Claim.hartDone s t c u d (value ((List.range n).map fun j => (tabGet (s.core c).shape (o + j)).getD 0#8))) ∧
      (∀ o, s.hartCheck c u va n permR false = .ok (.handler c o) →
        Claim.hartDone s t c u d (value (bytesOf ((s.core c).entry (o / 32) / 2 ^ (8 * (o % 32))) n))) ∧
      (∀ l, s.hartCheck c u va n permR false = .ok l → (∀ e o, l ≠ .spad e o ∧ l ≠ .shape e o ∧ l ≠ .handler e o) →
        s.entriesFree c 1 = true →
        ∃ r, r.op = .hartRead n (LoadOp.sg op) ∧ r.loc = l ∧ r.va = va ∧ r.id = s.nextReq ∧ r.isWrite = false ∧
          t = ({ s with reqs := s.reqs ++ [r], nextReq := s.nextReq + 1 } : State).setHart c u
            { h with pend := some s.nextReq, pendRd := d, pendLen := hartLen s.hraw, wait := .none, st := .running, missVa := none }) ∧
      (va % n ≠ 0 → Claim.excTaken s t c u 4 va) ∧
      (va % n = 0 → (s.core c).ambient u va n permR = false → Claim.excTaken s t c u 5 va)

/-- R149, R185, R187, R270, R284: a store of a hart writes the low bytes of its register: into its scratchpad at once, into an entry
of the handler window that its level may change, or by one posted request; it retires at once. Misaligned addresses and ones
outside the ambient capabilities raise causes 6 and 7, as does an entry that may not be changed. -/
def Sys2Proof.Claim.HartStores : Prop :=
  ∀ (op : StoreOp) (a b : XReg) (i : BitVec 12) (rvc : Bool) (s : State) (c : Nat) (u : Bool),
    Claim.hartReady s c u → s.hop = .store op a b i rvc →
    let h := s.hart c u
    let n := StoreOp.size op
    let va := (h.get a + i.signExtend 64).toNat
    let data := bytesOf (h.get b).toNat n
    ∃ t, exec .hartStore s = .next t ∧
      (∀ o, s.hartCheck c u va n permW true = .ok (.spad c o) →
        Claim.hartDone (s.storeAt (.spad c o) data none) t c u 0#5 0#64) ∧
      (∀ o, s.hartCheck c u va n permW true = .ok (.shape c o) →
        Claim.hartDone (s.updCore c fun k => k.writeShape o data) t c u 0#5 0#64) ∧
      (∀ o, s.hartCheck c u va n permW true = .ok (.handler c o) →
        (∀ k, (s.core c).storeWindow u o data = some k → Claim.hartDone (s.setCore c k) t c u 0#5 0#64) ∧
        ((s.core c).storeWindow u o data = none → Claim.excTaken s t c u 7 va)) ∧
      (∀ l, s.hartCheck c u va n permW true = .ok l → (∀ e o, l ≠ .spad e o ∧ l ≠ .shape e o ∧ l ≠ .handler e o) →
        s.entriesFree c 1 = true →
        ∃ r, r.op = .write data none ∧ r.loc = l ∧ r.va = va ∧ r.id = s.nextReq ∧ r.isWrite = true ∧
          Claim.hartDone { s with reqs := s.reqs ++ [r], nextReq := s.nextReq + 1 } t c u 0#5 0#64) ∧
      (va % n ≠ 0 → Claim.excTaken s t c u 6 va) ∧
      (va % n = 0 → (s.core c).ambient u va n permW = false → Claim.excTaken s t c u 7 va)

/-- R284, R286: on a scratchpad word, with nothing of the hart outstanding, an AMO writes its result and answers the old value,
sign-extended; lr answers the word and replaces the hart's reservation; sc stores and answers 0 where the hart holds a reservation
of the word and stores nothing and answers 1 where it does not. On another word with atomics each posts one request and holds the
hart. -/
def Sys2Proof.Claim.HartAtomics : Prop :=
  ∀ (dbl : Bool) (o : Sys2Proof.Ord) (d a b : XReg) (s : State) (c : Nat) (u : Bool),
    Claim.hartReady s c u → Claim.freshIds s → s.hartReqs c u = [] →
    let h := s.hart c u
    let n := if dbl then 8 else 4
    let va := (h.get a).toNat
    let x := (h.get b).toNat % 2 ^ (8 * n)
    let signed (l : List Byte) : Word := BitVec.ofInt 64 (sext (ofBytes l) (8 * n))
    let held (t : State) (op : ReqOp) (l : Loc) : Prop := ∃ r, r.op = op ∧ r.loc = l ∧ r.va = va ∧ r.id = s.nextReq ∧
      t = ({ s with reqs := s.reqs ++ [r], nextReq := s.nextReq + 1 } : State).setHart c u
        { h with pend := some s.nextReq, pendRd := d, pendLen := hartLen s.hraw, wait := .none, st := .running, missVa := none }
    let outside (l : Loc) : Prop := l.hartAtomic = true ∧ l.isSpad = false ∧ s.entriesFree c 1 = true
    (∀ op, s.hop = .amo op dbl o d a b →
      ∃ t, exec .hartAmo s = .next t ∧
        (∀ e v, s.hartCheck c u va n (permR + permW + permA) true = .ok (.spad c e) → s.poisonedAt (.spad c e) n = false →
          atomicNew (AmoOp.at op) n x 0 (ofBytes (s.readAt (.spad c e) n)) = some v →
          Claim.hartDone { s.storeAt (.spad c e) (bytesOf v n) none with nextReq := s.nextReq + 1 } t c u d
            (signed (s.readAt (.spad c e) n))) ∧
        (∀ l, s.hartCheck c u va n (permR + permW + permA) true = .ok l → outside l → held t (.atomic (AmoOp.at op) n x 0) l)) ∧
    (s.hop = .lr dbl o d a →
      ∃ t, exec .lr s = .next t ∧
        (∀ e, s.hartCheck c u va n (permR + permA) false = .ok (.spad c e) → s.poisonedAt (.spad c e) n = false →
          Claim.hartDone { s with
            nextReq := s.nextReq + 1
            resvs := (s.resvs.filter fun r => !(r.core == c && r.urgent == u)) ++
              [{ core := c, urgent := u, loc := .spad c e, n := n }] } t c u d (signed (s.readAt (.spad c e) n))) ∧
        (∀ l, s.hartCheck c u va n (permR + permA) false = .ok l → outside l → held t (.lr n) l)) ∧
    (s.hop = .sc dbl o d a b →
      ∃ t, exec .sc s = .next t ∧
        (∀ e, s.hartCheck c u va n (permW + permA) true = .ok (.spad c e) → s.poisonedAt (.spad c e) n = false →
          (s.reserved c u (.spad c e) n = true →
            Claim.hartDone { (s.storeAt (.spad c e) (bytesOf x n) none).dropResv c u with nextReq := s.nextReq + 1 } t c u d 0#64) ∧
          (s.reserved c u (.spad c e) n = false → Claim.hartDone { s with nextReq := s.nextReq + 1 } t c u d 1#64)) ∧
        (∀ l, s.hartCheck c u va n (permW + permA) true = .ok l → outside l → held t (.sc n x) l))

/-- R146, R284, R285: with nothing of the hart outstanding fence, fence.i and jd.fence of a legal operand retire, fence.i with an
empty instruction cache; with accesses outstanding a fence that orders writes before it, fence.i and a jd.fence that releases stall
the hart. An operand of jd.fence that is not legal raises cause 25. -/
def Sys2Proof.Claim.HartFences : Prop :=
  ∀ (s : State) (c : Nat) (u : Bool), Claim.hartReady s c u →
    let h := s.hart c u
    (∀ fm pred succ, s.hop = .fence fm pred succ →
      ∃ t, exec .riscvFence s = .next t ∧
        (s.hartReqs c u = [] ∨ pred.getLsbD 0 = false ∨ succ = 0#4 → Claim.hartDone s t c u 0#5 0#64) ∧
        (s.hartReqs c u ≠ [] → pred.getLsbD 0 = true → succ ≠ 0#4 → Claim.hartStalled s t c u h)) ∧
    (∃ t, exec .fenceI s = .next t ∧
      (s.hartReqs c u = [] → t = s.setHart c u (Claim.hartAt { h with icache := [] } 0#5 0#64
        (h.pc + BitVec.ofNat 64 (hartLen s.hraw)))) ∧
      (s.hartReqs c u ≠ [] → Claim.hartStalled s t c u h)) ∧
    (∀ a, ∃ t, exec (.jdFence a) s = .next t ∧
      let v := (h.get a).toNat
      (4 ≤ v → v < 16 → (v < 8 ∨ s.hartReqs c u = []) → Claim.hartDone s t c u 0#5 0#64) ∧
      (8 ≤ v → v < 16 → s.hartReqs c u ≠ [] → Claim.hartStalled s t c u h) ∧
      (v < 4 ∨ 16 ≤ v → Claim.excTaken s t c u 25 v))

/-! ### Harts: messages, Skeins, contexts and engines (R153 to R160, R203 to R207, R213, R219, R248, R295 to R313, R327) -/

namespace Sys2Proof.Claim
open Sys2Proof.Machine

/-- R296, R299, R327: an engine command with a reply channel reserves an entry and a reply-queue slot, and its sequence number is
the core's next one; with reply channel 0 it reserves nothing and its sequence number is 0. -/
def reserves (s u : State) (c : Nat) (l : Bool) (ch seq : Nat) : Prop :=
  (ch = 0 → seq = 0 ∧ u = s) ∧
  (ch ≠ 0 → seq = (s.core c).seq ∧ ∃ e : Entry, e.x = (s.core c).freeEntry ∧ e.id = s.nextReq ∧ e.seq = seq ∧ e.lvl = l ∧
    e.slot = true ∧ e.ans = .channel ch ∧
    u = { s.setCore c { s.core c with seq := ((s.core c).seq + 1) % 65536, table := (s.core c).table ++ [e] } with
      nextReq := s.nextReq + 1 })

/-- R303: the compute commands of the Twister: funct7 and the registers of rs2, rs1 and rd. -/
def twCompute : Instr → Option (Nat × XReg × XReg × XReg)
  | .jdTwmma b a d => some (0, b, a, d)
  | .jdTwrot b a d => some (1, b, a, d)
  | .jdTwring b a d => some (2, b, a, d)
  | .jdTwbmm b a d => some (3, b, a, d)
  | _ => none

/-- The first of a list of failing checks gives its number; none where none fails. -/
def firstBad (o : Option Nat) : List (Prop × Nat) → Prop
  | [] => o = none
  | p :: l => (p.1 → o = some p.2) ∧ (¬ p.1 → firstBad o l)

/-- R319: the Carder instructions of a Fibre: operation, command word, record and capability. -/
def cdrInstr : Instr → Option (Nat × VReg × VReg × VReg)
  | .cdrCpy w r v => some (0, w, r, v)
  | .cdrDeal w r v => some (1, w, r, v)
  | .cdrPut w r v => some (2, w, r, v)
  | .cdrFill w r v => some (3, w, r, v)
  | .cdrCvt w r v => some (4, w, r, v)
  | _ => none

/-- R248: the counters of a level by selector. -/
def counter (s : State) (c : Nat) (u : Bool) : Nat → Option Nat
  | 0 => some (if u then (s.core c).sentU else (s.core c).sentN)
  | 1 => some (if u then (s.core c).recvU else (s.core c).recvN)
  | 2 => some (s.entriesUsed c)
  | 3 => some ((s.core c).held u)
  | 4 => some (2048 - (s.core c).poolUsed)
  | 5 => some (s.core c).transients
  | _ => none

end Sys2Proof.Claim

/-- R204, R206: jd.send and jd.sendx send the request that their descriptor describes, with payload from a0 to a7 or from the
scratchpad, and answer 0, or answer 1 with no effect where no entry or slot is free; jd.ack posts the answer to the message that
jdimsg describes, or answers 3 where there is none to give. A descriptor that R197 refuses raises cause 25, as does a length above 4
(also where there is no answer to give: notes/assumptions/96.md). -/
def Sys2Proof.Claim.HartSends : Prop :=
  ∀ (a b d : XReg) (s : State) (c : Nat) (u : Bool), Claim.hartReady s c u →
    let h := s.hart c u
    let v := (h.get a).toNat
    let n := descPlen v
    (∃ t, exec (.jdSend a d) s = .next t ∧
      (descOk' v 4 = true → s.canSend c (descPrio v) true = true →
        ∃ w m, Claim.described v (descRchan v) 0 (h.payload n) m ∧ Claim.sends s w c m true (.channel (answerChan v)) none ∧
          Claim.hartDone w t c u d 0#64) ∧
      (descOk' v 4 = true → s.canSend c (descPrio v) true = false → Claim.hartDone s t c u d 1#64) ∧
      (descOk' v 4 = false → Claim.excTaken s t c u 25 v)) ∧
    (∃ t, exec (.jdSendx b a d) s = .next t ∧
      (∀ o, descOk' v 16 = true → s.hartSpad c u (h.get b).toNat (16 * n) permR = .ok o → s.spadPoison c o (16 * n) = none →
        (s.canSend c (descPrio v) true = true →
          ∃ w m, Claim.described v (descRchan v) 0 (s.readAt (.spad c o) (16 * n)) m ∧
            Claim.sends s w c m true (.channel (answerChan v)) none ∧ Claim.hartDone w t c u d 0#64) ∧
        (s.canSend c (descPrio v) true = false → Claim.hartDone s t c u d 1#64)) ∧
      (descOk' v 16 = false → Claim.excTaken s t c u 25 v)) ∧
    (∃ t, exec (.jdAck a d) s = .next t ∧
      let w := h.jdimsg.toNat
      (v ≤ 4 → (w.testBit 45 = true ∨ bits w 44 35 = 0) → Claim.hartDone s t c u d 3#64) ∧
      (v ≤ 4 → w.testBit 45 = false → bits w 44 35 ≠ 0 →
        ∃ m : Msg, m.answer = true ∧ m.seq = bits w 62 47 ∧ m.chan = bits w 44 35 ∧ m.dest = bits w 34 15 ∧ m.plen = v ∧ m.prio = u ∧
          m.payload = h.payload v ∧ m.rcore = s.addrOf c ∧ m.tenant = (s.core c).tenant ∧ m.flags = 0 ∧
          Claim.hartDone (s.post c m) t c u d 0#64) ∧
      (4 < v → Claim.excTaken s t c u 25 v))

/-- R205: outside a handler jd.recv makes its hart wait for a message; jd.tryrecv takes the first message for the hart that can be
served, into a0 to a7, jdimsg and rd, and answers 2^63 where there is none. With a handler active both raise cause 2. -/
def Sys2Proof.Claim.HartReceives : Prop :=
  ∀ (d : XReg) (s : State) (c : Nat) (u : Bool), Claim.hartReady s c u →
    let h := s.hart c u
    (∃ t, exec (.jdRecv d) s = .next t ∧
      (h.jdieA = false → Claim.hartHeld s t c u { h with st := .waiting, wait := .recv, pendRd := d }) ∧
      (h.jdieA = true → Claim.excTaken s t c u 2 s.hraw.toNat)) ∧
    (∃ t, exec (.jdTryrecv d) s = .next t ∧
      (h.jdieA = false → (s.core c).hartHead u = none → Claim.hartDone s t c u d (BitVec.ofNat 64 (2 ^ 63))) ∧
      (∀ q m, h.jdieA = false → (s.core c).hartHead u = some (q, m) → m.flag flagPoison = false → m.plen ≤ 4 →
        (t.hart c u).jdimsg = BitVec.ofNat 64 m.word ∧
        (∀ j, j < 8 → BitVec.ofNat 5 (10 + j) ≠ d →
          (t.hart c u).get (BitVec.ofNat 5 (10 + j)) = BitVec.ofNat 64 (m.num (8 * j) 8)) ∧
        (d ≠ 0#5 → (t.hart c u).get d = BitVec.ofNat 64 m.word) ∧
        (t.hart c u).pc = h.pc + BitVec.ofNat 64 (hartLen s.hraw) ∧
        (t.core c).inbox = (((s.core c).popHead q).inbox) ∧ (∀ e, e ≠ c → t.core e = s.core e) ∧ Claim.sameMemory s t) ∧
      (h.jdieA = true → Claim.excTaken s t c u 2 s.hraw.toNat))

/-- R187, R201, R202, R207: jd.chset writes a word of an entry that its level may change or of a hank handle, or operates on a
handle; jd.chget reads a word; jd.chen and jd.chdis set and clear E of such an entry and answer what it was. Other operands raise
cause 25, with the selector; a refused operation on a valid handle reports the slot count (notes/assumptions/96.md). -/
def Sys2Proof.Claim.HartChannels : Prop :=
  ∀ (a b d : XReg) (s : State) (c : Nat) (u : Bool), Claim.hartReady s c u →
    let k := s.core c
    let h := s.hart c u
    let v := (h.get a).toNat
    let x := (h.get b).toNat
    let kind := bits v 15 14
    (∃ t, exec (.jdChset b a d) s = .next t ∧
      (selOk v = true → kind = 0 → ∀ k1,
        k.storeEntry u (v % 1024) (x * 2 ^ (64 * bits v 11 10)) ((2 ^ 64 - 1) * 2 ^ (64 * bits v 11 10)) = some k1 →
        Claim.hartDone (s.setCore c k1) t c u d 0#64) ∧
      (selOk v = true → kind = 1 →
        Claim.hartDone (s.setCore c (k.setHank (v % 16) (setBits (k.hank (v % 16)) (64 * bits v 10 10) 64
          (x &&& hankMask (bits v 10 10))))) t c u d 0#64) ∧
      (∀ g o, selOk v = true → kind = 2 → hkApply (HkOp.ofCode (bits v 9 8)) (k.hank (v % 16)) x = .ok (g, o) →
        Claim.hartDone (s.setCore c (k.setHank (v % 16) g)) t c u d (BitVec.ofNat 64 (hankResult x o))) ∧
      (selOk v = true → kind = 0 →
        k.storeEntry u (v % 1024) (x * 2 ^ (64 * bits v 11 10)) ((2 ^ 64 - 1) * 2 ^ (64 * bits v 11 10)) = none →
        Claim.excTaken s t c u 25 v) ∧
      (∀ e, selOk v = true → kind = 2 → hkApply (HkOp.ofCode (bits v 9 8)) (k.hank (v % 16)) x = .error e →
        Claim.excTaken s t c u 25 (if hkValid (k.hank (v % 16)) then x else v)) ∧
      (selOk v = false → Claim.excTaken s t c u 25 v)) ∧
    (∃ t, exec (.jdChget a d) s = .next t ∧
      (selOk v = true → kind = 0 → Claim.hartDone s t c u d (BitVec.ofNat 64 (lane (k.entry (v % 1024)) 64 (bits v 11 10)))) ∧
      (selOk v = true → kind = 1 → Claim.hartDone s t c u d (BitVec.ofNat 64 (lane (k.hank (v % 16)) 64 (bits v 10 10)))) ∧
      (selOk v = false ∨ kind = 2 → Claim.excTaken s t c u 25 v)) ∧
    (∀ on : Bool, ∃ t, exec (if on then .jdChen a d else .jdChdis a d) s = .next t ∧
      (v < 1024 → k.mayChange u v = true →
        Claim.hartDone (s.setCore c (k.setE v on)) t c u d (if (k.entry v).testBit 70 then 1#64 else 0#64)) ∧
      (1024 ≤ v ∨ k.mayChange u v = false → Claim.excTaken s t c u 25 v))

/-- R154, R155: jd.skalloc with room allocates the lowest free handle and the lowest FREE contexts, STOPPED, with fresh registers,
the next incarnation and ranks in order, answers the handle, and changes no other context, no memory and no other Skein; without room
it answers 2^63 + 1 and changes nothing. -/
def Sys2Proof.Claim.SkeinAllocation : Prop :=
  ∀ (a d : XReg) (s : State) (c : Nat) (u : Bool), Claim.hartReady s c u →
    let k := s.core c
    let v := ((s.hart c u).get a).toNat
    let n := v % 64
    let regs := 16 * (bits v 7 6 + 1)
    let free := ((List.range 32).filter fun i => (k.ctx i).st == .free).take n
    ∃ t, exec (.jdSkalloc a d) s = .next t ∧
      (v < 256 → 0 < n → n ≤ 32 → k.canCreate u (List.replicate n regs) = true →
        ∀ g, g < 16 → k.skeins.toList.getD g none = none → (∀ j, j < g → k.skeins.toList.getD j none ≠ none) →
        free.length = n ∧
        (t.core c).skeins.toList.getD g none = some { urgent := u, members := free, code := bits v 7 6 } ∧
        (∀ j, j ≠ g → (t.core c).skeins.toList.getD j none = k.skeins.toList.getD j none) ∧
        (∀ p, p < n → ∀ i, free[p]? = some i → t.ctx c i =
          { ({} : Ctx) with st := .stopped, inc := (k.ctx i).inc + 1#8, lvl := u, nreg := regs, mbr := true, handle := some g, rank := p }) ∧
        (∀ i, i ∉ free → t.ctx c i = s.ctx c i) ∧
        t.hart c u = Claim.hartAt (s.hart c u) d (BitVec.ofNat 64 g) ((s.hart c u).pc + BitVec.ofNat 64 (hartLen s.hraw)) ∧
        (∀ e, e ≠ c → t.core e = s.core e) ∧ Claim.sameMemory s t) ∧
      (v < 256 → 0 < n → n ≤ 32 →
        (k.canCreate u (List.replicate n regs) = false ∨ ∀ j, j < 16 → k.skeins.toList.getD j none ≠ none) →
        Claim.hartDone s t c u d (BitVec.ofNat 64 (2 ^ 63 + 1))) ∧
      (256 ≤ v ∨ n = 0 ∨ 32 < n → Claim.excTaken s t c u 25 v)

/-- R156, R157: on a handle of its own jd.skstart starts a Skein whose members are all STOPPED with nothing outstanding, with rank,
size and argument in v0 and the scratchpad capability in v4; jd.skstop closes its stream; jd.skfree frees its contexts; jd.bcast
appends a block of its code window to an open stream with room. jd.skstart and jd.bcast, which release, stall while accesses of the
hart are outstanding (notes/assumptions/47.md). Each answers its status and touches no memory; on any other handle
they raise cause 25. -/
def Sys2Proof.Claim.SkeinControl : Prop :=
  ∀ (a b d : XReg) (s : State) (c : Nat) (u : Bool), Claim.hartReady s c u →
    let k := s.core c
    let h := s.hart c u
    let g := (h.get a).toNat
    let arg := (h.get b).toNat
    (k.handleOf u g = none → ∀ ins ∈ [Instr.jdSkstart b a d, .jdSkstop a d, .jdSkfree a d, .jdBcast b a d, .jdBcastw b a d],
      ∃ t, exec ins s = .next t ∧ Claim.excTaken s t c u 25 g) ∧
    (∀ sk, k.handleOf u g = some sk →
      (∃ t, exec (.jdSkstart b a d) s = .next t ∧
        ((∃ i ∈ sk.members, (s.ctx c i).st = .faulted) → Claim.hartDone s t c u d 2#64) ∧
        ((∀ i ∈ sk.members, (s.ctx c i).st ≠ .faulted) → (∃ i ∈ sk.members, s.memberDone c i = false) → Claim.hartDone s t c u d 3#64) ∧
        ((∀ i ∈ sk.members, s.memberDone c i = true) → s.hartIds c u ≠ [] → Claim.hartStalled s t c u h) ∧
        ((∀ i ∈ sk.members, s.memberDone c i = true) → s.hartIds c u = [] → sk.members.Nodup → (∀ i ∈ sk.members, i < 32 ∧ 16 ≤ (s.ctx c i).nreg) →
          (∀ i ∈ sk.members,
            (t.ctx c i).st = .ready ∧ (t.ctx c i).bmode = true ∧ (t.ctx c i).pcOff = 0 ∧
            (t.ctx c i).streamPos = sk.basePos + sk.stream.length ∧
            (t.ctx c i).v 0 = lanes4 (s.ctx c i).rank sk.members.length (arg % 2 ^ 32) (arg / 2 ^ 32) ∧
            (t.ctx c i).v 4 = spadCap ∧ (t.ctx c i).vtag 4 = true ∧
            ∀ r, r ≠ 0 → r ≠ 4 → (t.ctx c i).v r = (s.ctx c i).v r) ∧
          (∀ i, i ∉ sk.members → t.ctx c i = s.ctx c i) ∧
          (t.core c).skeins.toList.getD g none =
            some { sk with started := true, opened := true, stream := [], basePos := sk.basePos + sk.stream.length } ∧
          t.hart c u = Claim.hartAt h d 0#64 (h.pc + BitVec.ofNat 64 (hartLen s.hraw)) ∧ Claim.sameMemory s t)) ∧
      (∃ t, exec (.jdSkstop a d) s = .next t ∧
        (t.core c).skeins.toList.getD g none ≠ none ∧
        (∀ q, (t.core c).skeins.toList.getD g none = some q → q.opened = false ∧ q.members = sk.members) ∧
        (∀ i, (t.ctx c i).r = (s.ctx c i).r) ∧ Claim.sameMemory s t ∧
        t.hart c u = Claim.hartAt h d 0#64 (h.pc + BitVec.ofNat 64 (hartLen s.hraw))) ∧
      (∃ t, exec (.jdSkfree a d) s = .next t ∧
        ((∃ i ∈ sk.members, s.memberDone c i = false ∧ (s.ctx c i).st ≠ .faulted) → Claim.hartDone s t c u d 3#64) ∧
        ((∀ i ∈ sk.members, s.memberDone c i = true ∨ (s.ctx c i).st = .faulted) → (∀ i ∈ sk.members, i < 32) →
          (∀ i ∈ sk.members, (t.ctx c i).st = .free ∧ (t.ctx c i).inc = (s.ctx c i).inc) ∧
          (t.core c).skeins.toList.getD g none = none ∧ Claim.sameMemory s t ∧
          t.hart c u = Claim.hartAt h d 0#64 (h.pc + BitVec.ofNat 64 (hartLen s.hraw)))) ∧
      (∀ wait : Bool, ∃ t, exec (if wait then .jdBcastw b a d else .jdBcast b a d) s = .next t ∧
        (arg % 64 ≠ 0 ∨ k.inWindow u arg = false → Claim.excTaken s t c u 25 arg) ∧
        (arg % 64 = 0 → k.inWindow u arg = true →
          (s.bcastStatus c sk arg = 0 → s.hartIds c u ≠ [] → Claim.hartStalled s t c u h) ∧
          (s.bcastStatus c sk arg = 0 → s.hartIds c u = [] →
            (t.core c).skeins.toList.getD g none = some { sk with stream := sk.stream ++ [arg] } ∧
            (∀ i, t.ctx c i = s.ctx c i) ∧ Claim.sameMemory s t ∧
            t.hart c u = Claim.hartAt h d 0#64 (h.pc + BitVec.ofNat 64 (hartLen s.hraw))) ∧
          (s.bcastStatus c sk arg = 1 → wait = true → Claim.hartStalled s t c u { h with st := .waiting, wait := .bcastw }) ∧
          (s.bcastStatus c sk arg = 1 → wait = false → Claim.hartDone s t c u d 1#64) ∧
          (2 ≤ s.bcastStatus c sk arg → Claim.hartDone s t c u d (BitVec.ofNat 64 (s.bcastStatus c sk arg))))))

/-- R158, R159: jd.skwait waits while a member is busy and else answers the ranks of its FAULTED members; jd.skq answers the status
word of a Skein; jd.fpeek reads a register, extension register, mask or status of a context, as they were at the entry of a signed
block that it runs (R371); jd.fpoke writes one of a STOPPED or FAULTED context and leaves every other register of it. Hart U's use of
an index that a SAVED context occupies raises cause 25, as do a selector that is not assigned, a jd.fpoke of a status or of srseq, and
a register at or beyond the allocation or a context of the other level, where the context is neither FREE nor DISPATCHING; such a one
reads 0 and takes no jd.fpoke (3), nor does one that is not STOPPED or FAULTED. That bit 14 is refused for kinds other than 0
(notes/assumptions/69.md), and what jd.skwait awaits (notes/assumptions/47.md), is the model's choice. -/
def Sys2Proof.Claim.SkeinStatusAndContexts : Prop :=
  ∀ (a b d : XReg) (s : State) (c : Nat) (u : Bool), Claim.hartReady s c u →
    let k := s.core c
    let h := s.hart c u
    let v := (h.get a).toNat
    let w := (h.get b).toNat
    let x := s.ctx c (v % 32)
    let y : Ctx := match x.signed with | some g => { x with r := g.entry } | none => x
    let kind := bits v 7 6
    let i := bits v 13 8
    let there := x.st ≠ .free ∧ x.st ≠ .dispatching
    let mine := x.lvl = u ∧ (kind = 0 → i < x.nreg)
    let poke := kind ≠ 3 ∧ (kind = 2 → i ≠ 9)
    (fselOk v = true ↔ v.testBit 5 = false ∧ v < 2 ^ 15 ∧ (kind ≠ 0 → v.testBit 14 = false) ∧ (kind = 1 → i < 8) ∧
      (kind = 2 → i < 4 ∨ i = 8 ∨ i = 9) ∧ (kind = 3 → i < 3)) ∧
    (∀ sk, k.handleOf u v = some sk →
      (∃ t, exec (.jdSkwait a d) s = .next t ∧
        ((∃ i ∈ sk.members, s.memberBusy c i = true) → Claim.hartStalled s t c u { h with st := .waiting, wait := .skwait }) ∧
        ((∀ i ∈ sk.members, s.memberBusy c i = false) → Claim.hartDone s t c u d (BitVec.ofNat 64
          ((sk.members.map fun i => if (s.ctx c i).st = .faulted then 2 ^ (s.ctx c i).rank else 0).foldl (· + ·) 0)))) ∧
      (∃ t r, exec (.jdSkq a d) s = .next t ∧ Claim.hartDone s t c u d (BitVec.ofNat 64 r) ∧
        (sk.members.length ≤ 32 → sk.code < 4 → sk.stream.length < 16 → sk.members.Nodup → (∀ i ∈ sk.members, i < 32) →
          bits r 5 0 = sk.members.length ∧ bits r 7 6 = sk.code ∧ r.testBit 8 = u ∧ r.testBit 9 = sk.opened ∧
          bits r 15 10 = (sk.members.filter fun i => (s.ctx c i).st == .stopped).length ∧
          bits r 21 16 = (sk.members.filter fun i => (s.ctx c i).st == .faulted).length ∧
          bits r 31 28 = sk.stream.length ∧ ∀ i, i < 32 → (r.testBit (32 + i) = true ↔ i ∈ sk.members)))) ∧
    (k.handleOf u v = none → ∀ ins ∈ [Instr.jdSkwait a d, .jdSkq a d], ∃ t, exec ins s = .next t ∧ Claim.excTaken s t c u 25 v) ∧
    (∃ t, exec (.jdFpeek a d) s = .next t ∧
      (fselOk v = false ∨ k.savedOther u (v % 32) = true → Claim.excTaken s t c u 25 v) ∧
      (fselOk v = true → k.savedOther u (v % 32) = false → (x.st = .free ∨ x.st = .dispatching) → Claim.hartDone s t c u d 0#64) ∧
      (fselOk v = true → there → ¬ mine → Claim.excTaken s t c u 25 v) ∧
      (fselOk v = true → there → mine →
        (bits v 7 6 = 0 → Claim.hartDone s t c u d (BitVec.ofNat 64 (lane (y.v (bits v 13 8)) 64 (bits v 14 14)))) ∧
        (bits v 7 6 = 1 → Claim.hartDone s t c u d (BitVec.ofNat 64 (y.ext (bits v 13 8)))) ∧
        (bits v 7 6 = 2 → bits v 13 8 < 4 → Claim.hartDone s t c u d (BitVec.ofNat 64 (y.mask (BitVec.ofNat 2 (bits v 13 8))))) ∧
        (bits v 7 6 = 2 → bits v 13 8 = 8 → Claim.hartDone s t c u d (BitVec.ofNat 64 y.r.flags.toNat)) ∧
        (bits v 7 6 = 2 → bits v 13 8 = 9 → Claim.hartDone s t c u d (BitVec.ofNat 64 y.r.srseq.toNat)) ∧
        (bits v 7 6 = 3 → bits v 13 8 = 0 → Claim.hartDone s t c u d (BitVec.ofNat 64 (y.status (v % 32)))) ∧
        (bits v 7 6 = 3 → bits v 13 8 = 1 → Claim.hartDone s t c u d (BitVec.ofNat 64 x.faultAddr)) ∧
        (bits v 7 6 = 3 → bits v 13 8 = 2 → Claim.hartDone s t c u d (BitVec.ofNat 64 x.faultPc)))) ∧
    (∃ t, exec (.jdFpoke b a d) s = .next t ∧
      (fselOk v = false ∨ ¬ poke ∨ k.savedOther u (v % 32) = true → Claim.excTaken s t c u 25 v) ∧
      (fselOk v = true → poke → k.savedOther u (v % 32) = false → ¬ there → Claim.hartDone s t c u d 3#64) ∧
      (fselOk v = true → poke → there → ¬ mine → Claim.excTaken s t c u 25 v) ∧
      (fselOk v = true → poke → there → mine →
        (x.st ≠ .stopped → x.st ≠ .faulted → Claim.hartDone s t c u d 3#64) ∧
        (x.st = .stopped ∨ x.st = .faulted →
          t.hart c u = Claim.hartAt h d 0#64 (h.pc + BitVec.ofNat 64 (hartLen s.hraw)) ∧
          (∀ i, i ≠ v % 32 → t.ctx c i = s.ctx c i) ∧ Claim.sameMemory s t ∧
          let y := t.ctx c (v % 32)
          (bits v 7 6 = 0 → x.nreg ≤ 64 → lane (y.v (bits v 13 8)) 64 (bits v 14 14) = w ∧
            lane (y.v (bits v 13 8)) 64 (1 - bits v 14 14) = lane (x.v (bits v 13 8)) 64 (1 - bits v 14 14) ∧
            y.vtag (bits v 13 8) = false ∧ ∀ r, r ≠ bits v 13 8 → y.v r = x.v r ∧ y.vtag r = x.vtag r) ∧
          (bits v 7 6 = 1 → y.r = (x.setExt (bits v 13 8) w).r) ∧
          (bits v 7 6 = 2 → bits v 13 8 < 4 → y.r = (x.setMask (BitVec.ofNat 2 (bits v 13 8)) w).r) ∧
          (bits v 7 6 = 2 → bits v 13 8 = 8 → y.r = { x.r with flags := BitVec.ofNat 5 w }))))

/-- R212, R213, R219, R248: jd.skm configures a box, takes an entry into the scratchpad or sends a put, and answers as the Fibre forms do;
a put that has arrived and can be taken goes before a configuration or a take;
jd.name answers a Skein's name or stalls for the launch agent; jd.cnt answers the counter that its selector names. -/
def Sys2Proof.Claim.HartUnits : Prop :=
  ∀ (a b d : XReg) (s : State) (c : Nat) (u : Bool), Claim.hartReady s c u →
    let k := s.core c
    let h := s.hart c u
    let v := (h.get a).toNat
    (v < 2 ^ 15 → v % 4 < 2 → s.skReady c = true → ∃ t, exec (.jdSkm b a d) s = .next t ∧ Claim.hartStalled s t c u h) ∧
    (∀ o, v < 2 ^ 15 → (v % 4 < 2 → s.skReady c = false) →
      let box := bits v 5 2
      ∃ t, exec (.jdSkm b a d) s = .next t ∧
        (v % 4 = 0 → s.hartSpad c u (h.get b).toNat 16 permR = .ok o → s.spadPoison c o 16 = none →
          let new := SkBox.ofWord (ofBytes (s.readAt (.spad c o) 16))
          (k.boxOk box new = true → Claim.hartDone (s.setCore c (k.setBox box new)) t c u d 0#64) ∧
          (k.boxOk box new = false → Claim.hartDone (s.setCore c k) t c u d 1#64)) ∧
        (∀ e, v % 4 = 1 → s.hartSpad c u (h.get b).toNat 16 permW = .ok o → (k.box box).on = true →
          (k.box box).entries[bits v 13 6]? = some e →
          let new := if v.testBit 14 then { k.box box with entries := (k.box box).entries.eraseIdx (bits v 13 6) } else k.box box
          Claim.hartDone ((s.setCore c (k.setBox box new)).storeAt (.spad c o) (bytesOf e.bits 16) none) t c u d
            (BitVec.ofNat 64 (2 ^ 32 + new.entries.length))) ∧
        (v % 4 = 1 → s.hartSpad c u (h.get b).toNat 16 permW = .ok o →
          ((k.box box).on = false ∨ (k.box box).entries[bits v 13 6]? = none) →
          Claim.hartDone (s.setCore c k) t c u d (BitVec.ofNat 64 (k.box box).entries.length)) ∧
        (v % 4 = 2 → s.hartSpad c u (h.get b).toNat 32 permR = .ok o → s.spadPoison c o 32 = none →
          let x := ofBytes (s.readAt (.spad c o) 32)
          let w := x % 2 ^ 64
          bits x 127 64 = 0 → descOk' w 4 = true → descPlen w = 1 → s.canSend c (descPrio w) true = true →
          ∃ q m, Claim.described w (descRchan w) 0 (bytesOf (x / 2 ^ 128) 16) m ∧
            Claim.sends s q c m true (.channel (answerChan w)) none ∧ Claim.hartDone q t c u d 0#64)) ∧
    (∀ sk, k.handleOf u v = some sk →
      ∃ t, exec (.jdName a d) s = .next t ∧
        (sk.name ≠ 0 → Claim.hartDone s t c u d (BitVec.ofNat 64 sk.name)) ∧
        (sk.name = 0 → (∀ r ∈ s.agent.nameReqs, ¬ (r.core = c ∧ r.handle = some v)) →
          Claim.hartHeld { s with agent := { s.agent with nameReqs := s.agent.nameReqs ++
            [{ core := c, ctx := none, handle := some v, urgent := u }] } } t c u { h with naming := true, pendRd := d })) ∧
    (∃ t, exec (.jdCnt a d) s = .next t ∧
      (∀ n, Claim.counter s c u v = some n → Claim.hartDone s t c u d (BitVec.ofNat 64 n)) ∧
      (5 < v → Claim.excTaken s t c u 25 v))

/-- R299, R301, R303, R308, R311, R317, R319, R324: which operand fails which check. The first failing check of a compute command or an
epilogue gives the operand that cause 25 reports; the first breaking field of a Carder command, in increasing bit order, gives the bit
that is reported. Where the rules name no operand or no bit for a breach, the one here is the model's choice (notes/assumptions/50.md,
57.md). -/
def Sys2Proof.Claim.EngineChecks : Prop :=
  (∀ (k : Core) (u : Bool) (f7 r1 r2 : Nat), f7 < 4 →
    let m := 16 * (bits r2 2 0 + 1)
    let n := 16 * (bits r2 5 3 + 1)
    let kk := 16 * (bits r2 13 6 + 1)
    let ty := bits r2 16 14
    let cnt := bits r2 28 25
    let mx := ty = 4 ∨ ty = 5
    let up (a : Nat) := (a + 15) / 16 * 16
    let elems (rows : Nat) := if ty ≤ 1 then 2 * (rows * kk) else if ty = 5 then rows * kk / 2 else rows * kk
    let size (rows : Nat) := if mx then up (elems rows) + up (rows * kk / 32) else elems rows
    let srcs := [(bits r1 20 0, m), (bits r1 41 21, n)]
    let kind (f : Nat) := f / 2 ^ 19 % 4
    let off (f : Nat) := f % 2 ^ 19
    let hank (f : Nat) := k.hank (f % 16)
    Claim.firstBad (k.twBad u f7 r1 r2) [
      (¬ (k.tw.openB = true ∧ k.tw.ownerU = u), r1),
      (bits r1 63 52 ≠ 0 ∨ ∃ f ∈ srcs, kind f.1 = 3 ∨ (kind f.1 = 1 ∧ off f.1 / 16 ≠ 0) ∨ (kind f.1 = 2 ∧ off f.1 ≠ 0), r1),
      (bits r2 63 29 ≠ 0 ∨ ty = 7 ∨ (f7 = 3 ∧ (bits r2 21 19 ≠ 0 ∨ bits r2 24 22 ≠ 0)) ∨ (f7 ≠ 3 ∧ cnt ≠ 0), r2),
      (mx ∧ kk % 32 ≠ 0, r2),
      (if f7 = 3 then 128 < (cnt / (128 / n) + 1) * m else 128 < 16 * bits r2 21 19 + m ∨ 128 < 16 * bits r2 24 22 + n, r2),
      (∃ f ∈ srcs, kind f.1 = 0 ∧ (off f.1 % 16 ≠ 0 ∨ 524288 < off f.1 + (cnt + 1) * size f.2), r1),
      (∃ f ∈ srcs, kind f.1 = 1 ∧ (hkValid (hank f.1) = false ∨ size f.2 % (16 * 2 ^ hkLel (hank f.1)) ≠ 0), r1),
      (f7 = 1 ∧ ((∃ f ∈ srcs, kind f.1 = 1) ∨ k.tw.dom = 0 ∨ k.tw.dom.testBit 24 = true), r1),
      (f7 = 1 ∧ ∃ f ∈ srcs, 32768 < elems f.2, r2),
      (f7 = 2 ∧ (kind (bits r1 41 21) = 1 ∨ k.tw.dom = 0), r1),
      (f7 = 2 ∧ 32768 < elems n, r2),
      (k.replyOk u (bits r1 51 42) = false, r1)]) ∧
  (∀ (k : Core) (u : Bool) (r1 r2 : Nat),
    let m := 16 * (bits r2 2 0 + 1)
    let n := 16 * (bits r2 5 3 + 1)
    let ot := bits r2 15 13
    let osize := if ot = 0 then 4 else if ot ≤ 2 then 2 else 1
    let pitch := 16 * bits r1 63 48
    let par := r2.testBit 22 = true
    Claim.firstBad (k.epiBad u r1 r2) [
      (¬ (k.tw.openB = true ∧ k.tw.ownerU = u), r1),
      (bits r2 21 20 = 3 ∨ 6 ≤ ot ∨ 4 < bits r2 18 16 ∨ (r2.testBit 19 = true ∧ ot ≠ 3 ∧ ot ≠ 4), r2),
      (bits r2 63 23 ≠ 0, r2),
      (k.replyOk u (bits r1 47 38) = false, r1),
      (128 < 16 * bits r2 8 6 + m ∨ 128 < 16 * bits r2 11 9 + n, r2),
      (pitch < n * osize, r1),
      (bits r1 18 0 % 16 ≠ 0 ∨ (par ∧ bits r1 37 19 % 16 ≠ 0), r1),
      (524288 < bits r1 18 0 + pitch * (m - 1) + n * osize ∨ (par ∧ 524288 < bits r1 37 19 + 8 * n), r1)]) ∧
  (∀ (k : Core) (u : Bool) (ch : Nat), k.replyOk u ch = true ↔
    ch = 0 ∨ (ch ≤ 511 ∧ entReply (k.entry ch) = true ∧ entLvl (k.entry ch) = u ∧ entTarget (k.entry ch) ≤ 2)) ∧
  (∀ (x : CdCmd) (k : Core) (c vw : Nat) (chOk : Bool), vw < 2 ^ 64 → x.op ≤ 4 →
    let r := min 5 (bits x.record 66 64 + 1)
    let used (i : Nat) := i < r
    let d := k.ident x.lvl
    let p := x.pattern
    Claim.firstBad (x.layoutBad k c chOk vw) ([
      (x.base % x.esz ≠ 0, 0),
      (13 < bits x.record 63 60 ∨ (x.op = 4 ∧ bits x.record 63 60 ≠ 9), 60),
      (4 < bits x.record 66 64, 64),
      ((x.op = 2 ∧ x.fill = true) ∨ (x.op = 3 ∧ x.fill = false), 67),
      ((x.op = 4 ∧ x.cnv = false) ∨ ((x.op = 3 ∨ x.op = 1) ∧ x.cnv = true), 68),
      (x.trn = true ∧ (r < 2 ∨ x.op = 4), 69),
      (x.tagp = true ∧ ¬ (r = 1 ∧ x.s 0 = x.esz ∧ x.cnv = false ∧ x.trn = false ∧ x.fill = false ∧ x.mode = 0 ∧ x.base % 16 = 0 ∧
        x.off % 16 = 0 ∧ x.w 0 * x.esz % 16 = 0), 70),
      (bits x.record 74 71 ≠ 0, 71),
      (1 < x.mode ∨ ((x.op = 4 ∨ x.op = 1) ∧ x.mode ≠ 0), 75),
      (bits x.record 127 78 ≠ 0, 78)] ++
      (List.range 5).map (fun i => ((used i ∧ x.d i = 0) ∨ (¬ used i ∧ x.d i ≠ 0), 128 + 32 * i)) ++
      (List.range 5).map (fun i => ((used i ∧ x.s i % x.esz ≠ 0) ∨ (¬ used i ∧ x.s i ≠ 0), 288 + 36 * i)) ++
      (List.range 5).map (fun i => ((used i ∧ (x.w i = 0 ∨ (i = 0 ∧ ((x.op = 4 ∧ x.w 0 % 32 ≠ 0) ∨ 2 ^ 32 < x.stream)))) ∨
        (¬ used i ∧ x.w i ≠ 0), 468 + 16 * i)) ++
      (List.range 5).map (fun i => (¬ used i ∧ x.o i ≠ 0, 548 + 32 * i)) ++ [
      (x.fill = true ∧ 2 ^ x.ty.bitsN ≤ x.fillv, 708),
      (x.mode = 0 ∧ x.sbank ≠ 0, 740),
      ((x.mode = 0 ∧ x.bstr ≠ 0) ∨ (x.mode ≠ 0 ∧ x.bstr % 2 = 0), 748),
      (bits x.record 767 756 ≠ 0, 756),
      (x.off % 16 ≠ 0 ∨ (x.mode = 1 ∧ x.off % 4096 ≠ 0) ∨ (x.op = 3 ∧ x.off ≠ 0) ∨ (x.op ≠ 3 ∧ x.op ≠ 1 ∧ 524288 < x.spanEnd), 768),
      (chOk = false, 768 + 19),
      ((x.op = 4 ∧ x.ctype ≠ 0xC ∧ x.ctype ≠ 0xE) ∨ (x.op ≠ 4 ∧ x.cnv = true ∧ x.cvtOk = false) ∨
        (x.op ≠ 4 ∧ x.cnv = false ∧ x.ctype ≠ 0), 768 + 29),
      (4 < x.rm, 768 + 33),
      (x.sat = true ∧ (x.op = 4 ∨ (x.ctype ≠ 12 ∧ x.ctype ≠ 13)), 768 + 36),
      (x.flg = true ∧ x.op ≠ 2, 768 + 37),
      (bits x.word 63 38 ≠ 0, 768 + 38)] ++
      (if x.op = 1 then [
        (bits p 11 0 = 0 ∨ 256 < bits p 11 0 ∨ k.footprint < x.landEnd, 832),
        (let px := coreX c - d.x
         let py := coreY c - d.y
         ¬ (px ≤ bits p 17 12 ∧ bits p 17 12 + (bits p 29 24 + 1) ≤ px + d.w ∧ py ≤ bits p 23 18 ∧
           bits p 23 18 + (bits p 35 30 + 1) ≤ py + d.h), 832 + 12),
        (bits p 63 37 ≠ 0, 832 + 37)] else []) ++
      (List.range 64).map (fun b => (vw.testBit b = true, 896 + b))))

/-- R295, R296, R299, R303, R311: a Twister command whose checks pass, of the hart that holds the open batch, with no command running
and its reservation free, becomes the running command and answers its sequence number; a command that fails a check raises cause 25
with the operand that fails, and a busy Twister stalls the hart. Accumulators and memory stay. -/
def Sys2Proof.Claim.TwisterCommands : Prop :=
  ∀ (s : State) (c : Nat) (u : Bool), Claim.hartReady s c u →
    let k := s.core c
    let h := s.hart c u
    let runs (t : State) (d : XReg) (f7 r1 r2 ch : Nat) : Prop :=
      (k.tw.busy = true ∨ s.canCommand c u ch = false → Claim.hartStalled s t c u h) ∧
      (k.tw.busy = false → s.canCommand c u ch = true →
        ∃ w seq, Claim.reserves s w c u ch seq ∧
          t.hart c u = Claim.hartAt h d (BitVec.ofNat 64 seq) (h.pc + BitVec.ofNat 64 (hartLen s.hraw)) ∧
          ∃ x : TwCmd, x.f7 = f7 ∧ x.rs1 = r1 ∧ x.rs2 = r2 ∧ x.seq = seq ∧ x.chan = ch ∧ x.tiles = 0 ∧ x.kpos = 0 ∧ x.steps = 0 ∧
            x.after = s.hartIds c u ∧
            t = (w.updCore c fun q => { q with tw := { q.tw with cmd := some x, seq := seq } }).setHart c u (t.hart c u))
    (∀ ins f7 b a d, Claim.twCompute ins = some (f7, b, a, d) →
      let r1 := (h.get a).toNat
      let r2 := (h.get b).toNat
      ∃ t, exec ins s = .next t ∧
        (∀ v, k.twBad u f7 r1 r2 = some v → Claim.excTaken s t c u 25 v) ∧
        (k.twBad u f7 r1 r2 = none → runs t d f7 r1 r2 (bits r1 51 42))) ∧
    (∀ b a d,
      let r1 := (h.get a).toNat
      let r2 := (h.get b).toNat
      ∃ t, exec (.jdTwepi b a d) s = .next t ∧
        (∀ v, k.epiBad u r1 r2 = some v → Claim.excTaken s t c u 25 v) ∧
        (k.epiBad u r1 r2 = none → runs t d 4 r1 r2 (bits r1 47 38)))

/-- R299, R305, R308, R312: jd.twclr clears the front bank or the back bank as it names, jd.twswp changes the front bank and jd.twdom sets the domain, for the
hart that holds the batch and with the Twister at rest (no command running and no image being written); jd.twclaim opens a batch on a free Twister, with clear latches and clear banks
for another kernel, and closes its own; jd.twq answers the state word. Other operands raise cause 25. -/
def Sys2Proof.Claim.TwisterControl : Prop :=
  ∀ (a d : XReg) (s : State) (c : Nat) (u : Bool), Claim.hartReady s c u →
    let k := s.core c
    let tw := k.tw
    let h := s.hart c u
    let v := (h.get a).toNat
    let put (t : State) (x : Twister) (r : Nat) := Claim.hartDone (s.updCore c fun q => { q with tw := x }) t c u d (BitVec.ofNat 64 r)
    (∃ t, exec (.jdTwclr a d) s = .next t ∧
      (tw.heldBy u = true → tw.busy = false → v < 2 →
        put t (if tw.front = (v == 1) then { tw with bank0 := {} } else { tw with bank1 := {} }) 0) ∧
      (tw.heldBy u = true → tw.busy = true → v < 2 → Claim.hartStalled s t c u h) ∧
      (tw.heldBy u = false ∨ 2 ≤ v → Claim.excTaken s t c u 25 v)) ∧
    (∃ t, exec (.jdTwswp d) s = .next t ∧
      (tw.heldBy u = true → tw.busy = false → put t { tw with front := !tw.front } 0) ∧
      (tw.heldBy u = true → tw.busy = true → Claim.hartStalled s t c u h)) ∧
    (∃ t, exec (.jdTwdom a d) s = .next t ∧
      (tw.heldBy u = true → tw.busy = false → k.domBad c u v = false → put t { tw with dom := v } 0) ∧
      (tw.heldBy u = true → tw.busy = true → k.domBad c u v = false → Claim.hartStalled s t c u h) ∧
      (tw.heldBy u = false ∨ k.domBad c u v = true → Claim.excTaken s t c u 25 v)) ∧
    (∃ t, exec (.jdTwclaim a d) s = .next t ∧
      (v = 0 → tw.openB = false →
        ∃ x : Twister, x.openB = true ∧ x.ownerU = u ∧ x.lastKernel = (k.ident u).kernel ∧
          x.a.v = false ∧ x.b.v = false ∧ x.a.e = false ∧ x.b.e = false ∧ x.front = tw.front ∧ x.dom = tw.dom ∧ x.cmd = tw.cmd ∧
          (tw.lastKernel = (k.ident u).kernel → x.bank0 = tw.bank0 ∧ x.bank1 = tw.bank1) ∧
          (tw.lastKernel ≠ (k.ident u).kernel → x.bank0 = {} ∧ x.bank1 = {}) ∧ put t x 0) ∧
      (v = 0 → tw.openB = true → Claim.hartDone s t c u d (if tw.ownerU = u then 0#64 else 3#64)) ∧
      (v = 1 → tw.heldBy u = true → tw.busy = false →
        ∃ x : Twister, x.openB = false ∧ x.bank0 = tw.bank0 ∧ x.bank1 = tw.bank1 ∧ x.dom = tw.dom ∧ x.lastKernel = tw.lastKernel ∧
          x.a.v = false ∧ x.b.v = false ∧ x.a.e = false ∧ x.b.e = false ∧ put t x 0) ∧
      (v = 1 → tw.heldBy u = true → tw.busy = true → Claim.hartStalled s t c u h) ∧
      (v = 1 → tw.heldBy u = false → Claim.hartDone s t c u d 3#64) ∧ (2 ≤ v → Claim.excTaken s t c u 25 v)) ∧
    (∃ t, exec (.jdTwq a d) s = .next t ∧
      (v = 0 ∨ (v = 1 ∧ tw.busy = false) → Claim.hartDone s t c u d (BitVec.ofNat 64 tw.word)) ∧
      (v = 1 → tw.busy = true → Claim.hartStalled s t c u h) ∧ (2 ≤ v → Claim.excTaken s t c u 25 v))

/-- R299, R313: jd.twsave of the hart that holds the batch, on an area it may write, writes the Twister's image and holds the hart,
the batch open, until the write is done; then it closes the batch with clear latches and answers 0. jd.twrest on a closed Twister
reads an image back, of which the last batch is one of the owner's kernel, and answers 0. Both answer 3 where another batch stands in
the way, and raise cause 25 at an address that the hart may not write or that is not a multiple of 64. -/
def Sys2Proof.Claim.TwisterImages : Prop :=
  ∀ (a b d : XReg) (s : State) (c : Nat) (u : Bool), Claim.hartReady s c u →
    let k := s.core c
    let h := s.hart c u
    let v := (h.get a).toNat
    (∃ t, exec (.jdTwsave b a d) s = .next t ∧
      (k.tw.saving = some u → s.hartReqs c u = [] →
        ∃ x : Twister, x.openB = false ∧ x.cmd = none ∧ x.saving = none ∧ x.bank0 = k.tw.bank0 ∧ x.bank1 = k.tw.bank1 ∧
          x.dom = k.tw.dom ∧ x.lastKernel = k.tw.lastKernel ∧ x.a.v = false ∧ x.b.v = false ∧ x.a.e = false ∧ x.b.e = false ∧
          Claim.hartDone (s.updCore c fun q => { q with tw := x }) t c u d 0#64) ∧
      (k.tw.saving = some u → s.hartReqs c u ≠ [] → Claim.hartStalled s t c u h) ∧
      (k.tw.saving ≠ some u → (h.get b).toNat = 0 → (k.tw.heldBy u = false ∨ k.twAddrBad u v permW = true) →
        Claim.excTaken s t c u 25 v) ∧
      (k.tw.saving ≠ some u → (h.get b).toNat = 1 → k.twAddrBad u v permW = false →
        (k.tw.openB = false ∨ k.tw.ownerU = u ∨ ((k.hart (!u)).st ≠ .faulted ∧ (k.hart (!u)).st ≠ .waiting)) →
        Claim.hartDone s t c u d 3#64) ∧
      (k.tw.saving ≠ some u → (h.get b).toNat = 0 → k.tw.heldBy u = true → k.tw.cmd = none → k.twAddrBad u v permW = false →
        ∀ ps, s.twArea c u v true 2049 = .ok ps →
          (t.core c).tw = { k.tw with saving := some u } ∧ (t.hart c u).pc = h.pc ∧ (t.hart c u).st = h.st ∧
          ∀ l, t.memOf l = (s.twWrite c u k.tw.image v ps).memOf l)) ∧
    (∃ t, exec (.jdTwrest a d) s = .next t ∧
      (k.twAddrBad u v permW = true → Claim.excTaken s t c u 25 v) ∧
      (k.twAddrBad u v permW = false → k.tw.openB = true → Claim.hartDone s t c u d 3#64) ∧
      (k.twAddrBad u v permW = false → k.tw.openB = false →
        ∀ ps, s.twArea c u v false 2049 = .ok ps → (∀ p ∈ ps, p.2.isLocal = true) →
          let img := (ps.map fun p => s.readAt p.2 64).reverse.flatten
          (ofBytes ((img.drop 30).take 2) ≠ 0 → Claim.hartDone { s with frees := s.frees + 2 } t c u d 3#64) ∧
          (ofBytes ((img.drop 30).take 2) = 0 →
          (t.core c).tw.openB = true ∧ (t.core c).tw.ownerU = (ofBytes ((img.drop 17).take 1)).testBit 1 ∧
          (t.core c).tw.lastKernel = (k.ident ((ofBytes ((img.drop 17).take 1)).testBit 1)).kernel ∧
          (t.core c).tw.front = (ofBytes ((img.drop 17).take 1)).testBit 2 ∧
          t.hart c u = Claim.hartAt h d 0#64 (h.pc + BitVec.ofNat 64 (hartLen s.hraw)) ∧ Claim.sameMemory s t)))

/-- R299, R305, R308, R312, R313: where each Twister instruction that answers at once completes: of the hart that holds the batch,
with the Twister at rest, jd.twclr, jd.twswp and jd.twdom of a legal operand, jd.twclaim and jd.twq retire with their answer in rd
and the hart behind the instruction; jd.twsave retires once its image is performed, and jd.twrest on a closed Twister with an area it
may write. No byte of memory changes in these steps. -/
def Sys2Proof.Claim.TwisterInstructionsRetire : Prop :=
  ∀ (a b d : XReg) (s : State) (c : Nat) (u : Bool), Claim.hartReady s c u →
    let k := s.core c
    let tw := k.tw
    let h := s.hart c u
    let v := (h.get a).toNat
    let retired (t : State) (r : Word) := Claim.sameMemory s t ∧ (∀ e, e ≠ c → t.core e = s.core e) ∧
      t.hart c u = Claim.hartAt h d r (h.pc + BitVec.ofNat 64 (hartLen s.hraw))
    (tw.heldBy u = true → tw.busy = false → v < 2 → ∃ t, exec (.jdTwclr a d) s = .next t ∧ retired t 0#64) ∧
    (tw.heldBy u = true → tw.busy = false → ∃ t, exec (.jdTwswp d) s = .next t ∧ retired t 0#64) ∧
    (tw.heldBy u = true → tw.busy = false → k.domBad c u v = false → ∃ t, exec (.jdTwdom a d) s = .next t ∧ retired t 0#64) ∧
    (v = 0 → tw.openB = false → ∃ t, exec (.jdTwclaim a d) s = .next t ∧ retired t 0#64 ∧ (t.core c).tw.heldBy u = true) ∧
    (v = 1 → tw.heldBy u = true → tw.busy = false →
      ∃ t, exec (.jdTwclaim a d) s = .next t ∧ retired t 0#64 ∧ (t.core c).tw.openB = false) ∧
    (v = 0 ∨ (v = 1 ∧ tw.busy = false) → ∃ t, exec (.jdTwq a d) s = .next t ∧ retired t (BitVec.ofNat 64 tw.word)) ∧
    (tw.saving = some u → s.hartReqs c u = [] →
      ∃ t, exec (.jdTwsave b a d) s = .next t ∧ retired t 0#64 ∧ (t.core c).tw.openB = false ∧ (t.core c).tw.cmd = none) ∧
    (∀ ps, k.twAddrBad u v permW = false → tw.openB = false → s.twArea c u v false 2049 = .ok ps → (∀ p ∈ ps, p.2.isLocal = true) →
      ∃ t r, exec (.jdTwrest a d) s = .next t ∧ retired t r ∧ (r = 0#64 → (t.core c).tw.openB = true) ∧
        (r ≠ 0#64 → r = 3#64 ∧ (t.core c).tw = tw))

/-- R295, R317, R319, R320, R327: a Carder instruction whose record, command word and capability pass their checks, with a free slot
and reservation, appends its command to its level's queue and changes nothing else; a field that breaks a rule faults with LAYOUT and
its bit index; jd.cdr does the same from 128 bytes of scratchpad and answers the sequence number in the high half of rd, or 1 where
there is no room; an operation above 4 raises cause 25. -/
def Sys2Proof.Claim.CarderCommands : Prop :=
  ∀ (s : State) (c : Nat),
    let k := s.core c
    let accepts (w t : State) (x : CdCmd) (y : CdCmd) (seq : Nat) : Prop :=
      Claim.reserves s w c x.lvl x.chan seq ∧ y = { x with id := w.nextReq, seq := seq } ∧
      t = ({ w with nextReq := w.nextReq + 1 } : State).updCore c fun q => q.setCdQueue x.lvl (q.cdQueue x.lvl ++ [y])
    (∀ ins op w r v i, Claim.cdrInstr ins = some (op, w, r, v) →
      Claim.ready s c i .writeOp (v.toNat :: w.toNat :: regSpan r.toNat 6) [] [(r.toNat, 8)] →
      let z := s.ctx c i
      let x : CdCmd := { id := 0, op := op, record := packLanes 128 ((regSpan r.toNat 6).map z.v), word := z.vlo w.toNat
                         flagAddr := z.ext 0, flagVal := z.ext 1, pattern := z.ext 2, lvl := z.lvl, after := s.ctxIds c i }
      let bad := x.layoutBad k c (k.replyOk x.lvl x.chan) (z.v w.toNat / 2 ^ 64)
      ∃ t, exec ins s = .next t ∧
        (∀ n, bad = some n → Claim.faulted s t c i cLAYOUT n) ∧
        (∀ e, bad = none → x.capBad k c (z.v v.toNat) (z.vtag v.toNat) = some e → Claim.faulted s t c i e.1 e.2) ∧
        (bad = none → x.capBad k c (z.v v.toNat) (z.vtag v.toNat) = none → k.cdFree x.lvl = true → s.canCommand c x.lvl x.chan = true →
          ∃ q q' y seq, accepts q q' x y seq ∧ Claim.did q' t c i 2 z)) ∧
    (∀ a b d u o, Claim.hartReady s c u →
      let h := s.hart c u
      let op := (h.get b).toNat
      let x : CdCmd := { cdOfRecord op (ofBytes (s.readAt (.spad c o) 128)) u with byHart := true, after := s.hartIds c u }
      (4 < op → (∀ w, s.hartSpad c u (h.get a).toNat 128 permR ≠ .error (25, w)) →
        ∃ t, exec (.jdCdr b a d) s = .next t ∧ Claim.excTaken s t c u 25 op) ∧
      (s.hartSpad c u (h.get a).toNat 128 permR = .ok o → op ≤ 4 → s.spadPoison c o 128 = none →
      x.layoutBad k c (k.replyOk u x.chan) 0 = none → x.ambientBad k = none →
      ∃ t, exec (.jdCdr b a d) s = .next t ∧
        (k.cdFree u = true → s.canCommand c u x.chan = true →
          ∃ q q' y seq, accepts q q' x y seq ∧ Claim.hartDone q' t c u d (BitVec.ofNat 64 (seq * 2 ^ 32))) ∧
        (k.cdFree u = false ∨ s.canCommand c u x.chan = false → Claim.hartDone s t c u d 1#64)))

/-! ### Rules that say what a computation of the machine comes to -/

/-- R94: bounds are exactly representable when some exponent from 0 to 38 divides both and their distance is below 3 · 2^(e + 22); the
encoding takes the smallest, and decoding it at address b gives b and t exactly. -/
def Sys2Proof.Claim.BoundsDecodeExactly : Prop :=
  ∀ (b t : Nat),
    let fits (e : Nat) := b % 2 ^ e = 0 ∧ t % 2 ^ e = 0 ∧ t - b < 3 * 2 ^ (e + 22)
    (capExp b t = none ↔ ∀ e, e ≤ 38 → ¬ fits e) ∧
    (∀ e, capExp b t = some e ↔ e ≤ 38 ∧ fits e ∧ ∀ j, j < e → ¬ fits j) ∧
    (∀ e c, capExp b t = some e → b ≤ t → t ≤ 2 ^ 60 → bits c 59 0 = b →
      let n := capWithBounds c e b t
      bits n 77 72 = e ∧ bits n 101 78 = b / 2 ^ e % 2 ^ 24 ∧ bits n 125 102 = t / 2 ^ e % 2 ^ 24 ∧
        capDecode n = (b, t, bits c 71 64))

/-- R99, R101: with an entry whose magics and shifts are those of R99 for its extents, each step of tix divides exactly: coordinate j
is the running index modulo extent j, and the next index is the quotient, for every index below 2^32. -/
def Sys2Proof.Claim.TixDividesExactly : Prop :=
  ∀ (e n r : Nat), n < 2 ^ 32 → r ≤ 4 →
    (∀ i, i < r → ∃ l, 1 ≤ shapeExtent e i ∧ shapeExtent e i ≤ 2 ^ l ∧ (∀ k, k < l → 2 ^ k < shapeExtent e i) ∧
      shapeShift e i = 32 + l ∧ shapeMagic e i = (2 ^ (32 + l) + shapeExtent e i - 1) / shapeExtent e i) →
    let index (j : Nat) : Nat := (List.range j).foldl (fun q i => q / shapeExtent e i) n
    (∀ j, j < r → (tixCoords e n 0 r)[j]? = some ((index j % shapeExtent e j : Nat) : Int) ∧
      index (j + 1) = index j / shapeExtent e j) ∧
    (tixCoords e n 0 r)[r]? = some (index r : Int)

/-- R211: after a list of puts, in any order, a box that is on holds the `depth` highest-ranked of its old entries and the puts, in rank order, and
what it does not hold has been dropped and ranks above nothing that it holds; two orders leave entries that agree in key, tiebreak and
value, place by place, and the same count of drops. -/
def Sys2Proof.Claim.PutsKeepTheHighest : Prop :=
  ∀ (b : SkBox) (ps qs : List SkEntry), qs.Perm ps → b.on = true → b.entries.length ≤ b.depth →
    (b.entries.Pairwise fun f g => g.above f = false) →
    let after (l : List SkEntry) : SkBox := l.foldl (fun b e => (b.put e).1) b
    let r := (after qs).entries
    r.length = min b.depth (b.entries.length + ps.length) ∧ (r.Pairwise fun f g => g.above f = false) ∧
      (∃ dropped : List SkEntry, (r ++ dropped).Perm (b.entries ++ ps) ∧ ∀ f ∈ dropped, ∀ g ∈ r, f.above g = false) ∧
      r.map (fun e => (e.key, e.tb, e.value)) = (after ps).entries.map (fun e => (e.key, e.tb, e.value)) ∧
      (after qs).ndrop = (after ps).ndrop

/-! ### Homes of memory (R255, R257 to R259, R265, R273, R283, R286 to R288, R341, R368) -/

namespace Sys2Proof.Claim
open Sys2Proof.Machine

/-- A request of this package named by the event is on its way to a home of this package that admits its tenant. -/
def homeAt (s : State) (r : Req) : Prop :=
  s.ev.codes = [] ∧ s.findReq s.ev.k = some r ∧ s.onWay r = true ∧ r.loc.isLocal = true ∧ s.memOf r.loc ≠ none ∧
  s.ownerOk (s.core r.core).tenant r.loc = true

/-- Only the stage of a request changes. -/
def restaged (s t : State) (r : Req) (st : Stage) : Prop :=
  t = { s with reqs := s.reqs.map fun q => if q.id = r.id then { q with stage := st } else q }

/-- The memory of a location is in canonical form. -/
def wfAt (s : State) (l : Loc) : Prop := ∀ m, s.memOf l = some m → m.1.wf = true

/-- The bytes d stand from location l on, and every other byte of every memory reads as before. -/
def wrote (s t : State) (l : Loc) (d : List Byte) : Prop :=
  (∀ k, k < d.length → t.readAt (l.plus k) 1 = (d.drop k).take 1) ∧
  (∀ m, (∀ k, k < d.length → m ≠ l.plus k) → t.readAt m 1 = s.readAt m 1)

/-- The event of a full/empty operation and of a join-counter operation at its home. -/
def feEventOf : FeOp → Instr
  | .ldfe => .homeLdfe | .ldff => .homeLdff | .stef => .homeStef | .stff => .homeStff | .feclr => .homeFeclr
def jcEventOf : JcOp → Instr
  | .init => .homeJcInit | .add => .homeJcAdd | .dec => .homeJcDec | .wait => .homeJcWait

/-- R283: the value that an atomic on n bytes leaves, where it writes: signed and unsigned comparison, sums modulo the width. -/
def atomicLeaves (op : AtOp) (n x c old v : Nat) : Prop :=
  let w := 8 * n
  v < 2 ^ w ∧
  match op with
  | .add => (v : Int) % 2 ^ w = (sext old w + sext x w) % 2 ^ w
  | .min => sext v w = min (sext old w) (sext x w)
  | .max => sext v w = max (sext old w) (sext x w)
  | .minz => v = min old x
  | .maxz => v = max old x
  | .and => ∀ j, v.testBit j = (old.testBit j && x.testBit j)
  | .or => ∀ j, v.testBit j = (old.testBit j || x.testBit j)
  | .xor => ∀ j, v.testBit j = (old.testBit j != x.testBit j)
  | .swp => v = x
  | .cas => v = if old = c then x else old
  | .addf =>
    let f := if n = 4 then fmt32 else fmt64
    v = (fround f .rne false 0 (fsumX [fval f old, fval f x] .rne)).1

end Sys2Proof.Claim

/-- R278, R288: a read at its home answers the bytes it names, or is refused poisoned, and changes nothing else; a write there
changes exactly the bytes that it names and is performed; on a page that is being moved it is refused BUSY; a home that does not
admit the tenant refuses both FENCED. -/
def Sys2Proof.Claim.HomeReadsAndWrites : Prop :=
  ∀ (s : State) (r : Req), s.ev.codes = [] → s.findReq s.ev.k = some r → s.onWay r = true → r.loc.isLocal = true →
    s.memOf r.loc ≠ none →
    let admits := s.ownerOk (s.core r.core).tenant r.loc
    (∀ n, ((∃ d p ls, r.op = .read n d p ls) ∨ ∃ g, r.op = .hartRead n g) →
      ∃ t, exec .memoryReadRequest s = .next t ∧
        (admits = false → Claim.restaged s t r .fenced) ∧
        (admits = true → s.poisonedAt r.loc n = true → Claim.restaged s t r .poisoned) ∧
        (admits = true → s.poisonedAt r.loc n = false →
          Claim.restaged s t r (.answered (s.readAt r.loc n) (s.tagsAt r.loc n)))) ∧
    (∀ d ts, r.op = .write d ts →
      ∃ t, exec .memoryWriteRequest s = .next t ∧
        (admits = false → Claim.restaged s t r .fenced) ∧
        (admits = true → s.frozen r.loc = true → Claim.restaged s t r (.busy (s.core r.core).counter)) ∧
        (admits = true → s.frozen r.loc = false → s.poisonedAt r.loc d.length = false → Claim.wfAt s r.loc →
          t.stageOf r.id = some .performed ∧ Claim.wrote s t r.loc d ∧ (∀ q, q ≠ r.id → t.stageOf q = s.stageOf q)))

/-- R273: a store that brings no tags clears the tag of every granule that it touches and leaves every other tag. -/
def Sys2Proof.Claim.StoresClearTags : Prop :=
  ∀ (m : Mem) (g a k : Nat) (d : List Byte), m.wf = true → g ∈ [16, 32] → d ≠ [] → m.poisoned g a d.length = false →
    setHas (m.store g true a d none).tags k = (setHas m.tags k && !(decide (a < 16 * k + 16) && decide (16 * k < a + d.length)))

/-- R283: an atomic at a home on a word that is not poisoned answers the old value and leaves the value of its operation, `cas`
only where it finds the value it compares with; R286: lr sets its hart's one reservation; sc stores and answers 0 with the
reservation, and answers 1 and stores nothing without. -/
def Sys2Proof.Claim.HomeAtomics : Prop :=
  ∀ (s : State) (r : Req), Claim.homeAt s r → s.frozen r.loc = false → s.poisonedAt r.loc r.op.size = false → Claim.wfAt s r.loc →
    let old := s.readAt r.loc r.op.size
    (∀ op n x c, r.op = .atomic op n x c → (n = 4 ∨ n = 8) → x < 2 ^ (8 * n) →
      ∃ t v, exec .atomicRequest s = .next t ∧ Claim.atomicLeaves op n x c (ofBytes old) v ∧
        t.stageOf r.id = some (.answered old []) ∧ Claim.wrote s t r.loc (bytesOf v n)) ∧
    (∀ n x u, r.op = .sc n x → r.who = .hart u →
      ∃ t, exec .atomicRequest s = .next t ∧
        (s.reserved r.core u r.loc n = true → t.stageOf r.id = some (.answered [0#8] []) ∧ Claim.wrote s t r.loc (bytesOf x n) ∧
          t.reserved r.core u r.loc n = false) ∧
        (s.reserved r.core u r.loc n = false → Claim.restaged s t r (.answered [1#8] []))) ∧
    (∀ n u, r.op = .lr n → r.who = .hart u →
      ∃ t, exec .lrReservation s = .next t ∧ t.stageOf r.id = some (.answered old []) ∧ Claim.sameMemory s t ∧
        t.resvs = (s.resvs.filter fun v => !(v.core == r.core && v.urgent == u)) ++
          [{ core := r.core, urgent := u, loc := r.loc, n := n }])

/-- R258, R259: an operation at a home on a word in the state that it awaits, with no waiter there, is performed and leaves the
word's state as its form says; one that must wait becomes the last waiter, or is refused WAITFULL where 4,096 wait at that home. -/
def Sys2Proof.Claim.HomeFullEmpty : Prop :=
  ∀ (s : State) (r : Req) (op : FeOp) (x : Nat), Claim.homeAt s r → s.frozen r.loc = false → r.op = .fe op x →
    ∃ t, exec (Claim.feEventOf op) s = .next t ∧
      (s.poisonedAt r.loc 8 = true → Claim.restaged s t r .poisoned) ∧
      let v := s.readAt r.loc 8
      let awaits := ((op = .ldfe ∨ op = .ldff) ∧ s.isFull r.loc = false) ∨ (op = .stef ∧ s.isFull r.loc = true)
      (s.poisonedAt r.loc 8 = false → awaits →
        (r.loc.isSpad = true ∨ s.waiters r.loc < 4096 →
          t = { s with reqs := (s.reqs.filter fun q => q.id != r.id) ++ [{ r with stage := .waiter }] }) ∧
        (r.loc.isSpad = false → 4096 ≤ s.waiters r.loc → Claim.restaged s t r (.waitFull (s.core r.core).counter))) ∧
      (s.poisonedAt r.loc 8 = false → ¬ awaits → s.waitersAt r.loc = [] → Claim.wfAt s r.loc → r.loc.hasState = true →
        t.stageOf r.id = some (.answered (if op = .ldfe ∨ op = .ldff then v else []) []) ∧
        (op = .ldfe ∨ op = .feclr → t.isFull r.loc = false) ∧ (op = .ldff ∨ op = .stef ∨ op = .stff → t.isFull r.loc = true) ∧
        (op = .stef ∨ op = .stff → Claim.wrote s t r.loc (bytesOf x 8)) ∧
        (op = .ldfe ∨ op = .ldff ∨ op = .feclr → ∀ l, t.readAt l 1 = s.readAt l 1))

/-- R258: a store that fills a word answers the queued readers, oldest first, up to the first ldfe, which leaves it EMPTY. -/
def Sys2Proof.Claim.HomeServesReaders : Prop :=
  ∀ (s : State) (r q : Req) (op : FeOp) (x y : Nat) (pre post : List Req), Claim.homeAt s r → s.frozen r.loc = false →
    r.op = .fe op x → op = .stef ∨ op = .stff → s.poisonedAt r.loc 8 = false → s.isFull r.loc = false → Claim.wfAt s r.loc →
    (s.reqs.map (·.id)).Nodup → r.loc.hasState = true →
    s.waitersAt r.loc = pre ++ q :: post → q.op = .fe .ldfe y → (∀ p ∈ pre, ∃ z, p.op = .fe .ldff z) →
    ∃ t, exec (Claim.feEventOf op) s = .next t ∧ t.isFull r.loc = false ∧
      (∀ p ∈ pre, t.stageOf p.id = some (.answered (bytesOf x 8) [])) ∧
      t.stageOf q.id = some (.answered (bytesOf x 8) []) ∧ (∀ p ∈ post, t.stageOf p.id = some .waiter)

/-- R265: a join-counter operation at a home writes the count, saturated; where it crosses from above 0 to 0 or below it answers
`crossed` with the continuation that the counter holds and the count, and every jc.wait there is answered, while the waiters of a
full/empty word there stay (R258); jc.init writes count and
continuation and answers the waiters where its count is not above 0; jc.wait answers at or below 0 and waits above. -/
def Sys2Proof.Claim.HomeJoinCounters : Prop :=
  ∀ (s : State) (r : Req) (op : JcOp) (x cont : Nat), Claim.homeAt s r → s.frozen r.loc = false → r.op = .jc op x cont →
    ∃ t, exec (Claim.jcEventOf op) s = .next t ∧
      (s.poisonedAt r.loc 16 = true → Claim.restaged s t r .poisoned) ∧
      let d := ofBytes (s.readAt r.loc 16)
      let old := sext (d % 2 ^ 64) 64
      let new := Claim.jcCount op (d % 2 ^ 64) x
      let crosses := new ≤ 0 ∧ (op = .init ∨ 0 < old)
      (op ≠ .wait → s.poisonedAt r.loc 16 = false → Claim.wfAt s r.loc → x < 2 ^ 64 →
        Claim.wrote s t r.loc (if op = .init then bytesOf x 8 ++ bytesOf cont 8 else bytesOf (trunc new 64) 8) ∧
        (crosses → ∀ w ∈ s.waitersAt r.loc, w.id ≠ r.id → (s.reqs.map (·.id)).Nodup →
          t.stageOf w.id = some (if w.op.isJcWait then .answered [] [] else .waiter)) ∧
        t.stageOf r.id = some (if op ≠ .init ∧ crosses then .crossed (d / 2 ^ 64) (trunc new 64) else .answered [] []))  ∧
      (op = .wait → s.poisonedAt r.loc 16 = false →
        (old ≤ 0 → Claim.restaged s t r (.answered [] [])) ∧
        (0 < old → r.loc.isSpad = true ∨ s.waiters r.loc < 4096 →
          t = { s with reqs := (s.reqs.filter fun q => q.id != r.id) ++ [{ r with stage := .waiter }] }))

/-- R255: a cancel that reaches the home removes the waiter, or finds it served; R259, R340, R341: a request that was refused WAITFULL
or BUSY is sent again 256 cycles later to the address that its translation then gives, an access that only reads translated as one;
where the translation refuses it, it is refused FENCED; where it misses, the miss is recorded and the request waits for its answer. -/
def Sys2Proof.Claim.CancelsAndRetries : Prop :=
  ∀ (s : State) (r : Req), s.findReq s.ev.k = some r →
    (r.core < outsideCore → r.cancel = true → r.cancelAns = none → r.loc.isLocal = true → r.stage ≠ .posted → r.stage ≠ .held →
      let queued := r.stage = .waiter ∨ (∃ n, r.stage = .waitFull n) ∨ ∃ n, r.stage = .busy n
      ∃ t q, exec .homeCancel s = .next t ∧ t = { s with reqs := t.reqs } ∧ t.findReq r.id = some q ∧
        (queued → q = { r with cancelAns := some false, stage := .performed }) ∧
        (¬ queued → q = { r with cancelAns := some true })) ∧
    (∀ (ins : Instr) (n : Nat), (ins = .waitfullRetry ∧ r.stage = .waitFull n) ∨ (ins = .busyRetry ∧ r.stage = .busy n) →
      let reads := (∃ k d p ls, r.op = .read k d p ls) ∨ (∃ k g, r.op = .hartRead k g) ∨ (∃ k, r.op = .lr k) ∨
        (∃ x, r.op = .fe .ldff x) ∨ ∃ x y, r.op = .jc .wait x y
      (reads → r.op.kind = .read) ∧ (¬ reads → r.op.kind = .write) ∧
      ((s.core r.core).counter < n + 256 → exec ins s = .next s) ∧
      (r.cancelAns = none → n + 256 ≤ (s.core r.core).counter →
        (r.loc.isSpad = true → ∃ t, exec ins s = .next t ∧ Claim.restaged s t r .posted) ∧
        (∀ l, r.loc.isSpad = false → (s.core r.core).translate r.va r.op.kind = .hit l →
          ∃ t q, exec ins s = .next t ∧ t = { s with reqs := t.reqs } ∧ t.findReq r.id = some q ∧
            q = { r with loc := l, stage := .posted, asked := false }) ∧
        (r.loc.isSpad = false → (s.core r.core).translate r.va r.op.kind = .miss →
          ∃ t q, exec ins s = .next t ∧ t.findReq r.id = some q ∧ q = { r with asked := true } ∧
            t.core r.core = (s.core r.core).addMiss r.va r.op.kind ∧ ∀ c, c ≠ r.core → t.core c = s.core c) ∧
        (r.loc.isSpad = false → (s.core r.core).translate r.va r.op.kind = .refused →
          ∃ t, exec ins s = .next t ∧ Claim.restaged s t r .fenced)))

/-- R332, R336, R341, R368: an access of another package, of a requester k at the address n, passes a gateway's translation: a read
at a home that admits its tenant answers the bytes there, and a write leaves its bytes there; a home that does not admit the tenant,
and a translation that is refused, answer FENCED, and a write of a page that moves answers BUSY. A read changes no byte, and the tags of
whole granules go with its bytes (R273); `ldff`, which only reads, needs no page that may be written. The answer leaves the package. -/
def Sys2Proof.Claim.OtherPackagesAccess : Prop :=
  ∀ (s s1 : State) (tenant die n : Nat) (l : Loc) (rest : List Nat), s.ev.codes = tenant :: die :: n :: rest →
    let read := s.gateTranslate (die % 2) tenant s.ev.n .read
    let write := s.gateTranslate (die % 2) tenant s.ev.n .write
    let answers (t : State) (code : Nat) (d : List Byte) (ts : List Bool) : Prop :=
      t = { s1 with nextReq := s1.nextReq + 1, pod := { s1.pod with memOut := (s.ev.k, code, d, ts) :: s1.pod.memOut } }
    Claim.freshIds s1 →
    (read = (s1, .hit l) →
      ∃ t, exec .memoryReadRequest s = .next t ∧
        (s1.ownerOk tenant l = false → answers t 5 [] []) ∧
        (s1.ownerOk tenant l = true → s1.poisonedAt l n = true → answers t 1 [] []) ∧
        (s1.ownerOk tenant l = true → s1.poisonedAt l n = false → answers t 0 (s1.readAt l n) (s1.tagsAt l n))) ∧
    (read = (s1, .hit l) → s1.ownerOk tenant l = true → l.hasState = true → s1.poisonedAt l 8 = false → s1.isFull l = true →
      ∃ t, exec .homeLdff s = .next t ∧ answers t 0 (s1.readAt l 8) []) ∧
    (write = (s1, .hit l) →
      ∃ t, exec .memoryWriteRequest s = .next t ∧
        (s1.ownerOk tenant l = false → answers t 5 [] []) ∧
        (s1.ownerOk tenant l = true → s1.frozen l = true → answers t 2 [] []) ∧
        (s1.ownerOk tenant l = true → s1.frozen l = false → s1.memOf l ≠ none → s1.poisonedAt l s.ev.data.length = false →
          Claim.wfAt s1 l → t.pod.memOut = (s.ev.k, 0, [], []) :: s1.pod.memOut ∧ Claim.wrote s1 t l s.ev.data)) ∧
    (read = (s1, .refused) → exec .memoryReadRequest s =
      .next { s1 with pod := { s1.pod with memOut := (s.ev.k, 5, [], []) :: s1.pod.memOut } }) ∧
    (write = (s1, .refused) → exec .memoryWriteRequest s =
      .next { s1 with pod := { s1.pod with memOut := (s.ev.k, 5, [], []) :: s1.pod.memOut } })

/-! ### Answers that land, waits, blocks and signed blocks (R131, R135, R140, R254, R255, R261, R265, R266, R275, R277, R278, R283,
R284, R368, R371 to R375) -/

/-- R277, R278, R281, R368: an answered read of a context that exists puts its bytes and tags into its register positions, leaves
every other byte, and makes the registers PRESENT with the last answer of its instruction, which zeroes the rest of the register of
a plain load of fewer than 16 bytes; a poisoned one is recorded against its
registers, which stay as they are; a refused one faults with NOMAP. -/
def Sys2Proof.Claim.LoadsLand : Prop :=
  ∀ (s : State) (r : Req) (n d first : Nat) (lanes : List Nat) (i inc : Nat),
    s.findReq s.ev.k = some r → r.op = .read n d first lanes → r.who = .fibre i inc → s.alive r.core i inc = true →
    let x := s.ctx r.core i
    ∃ t, exec .loadLands s = .next t ∧
      let y := t.ctx r.core i
      (∀ data tags, r.stage = .answered data tags → x.signed = none → r.discard = false → r.overlay = [] → r.overTags = [] →
        data.length = n → (first :: lanes).Pairwise (fun p q => p + n ≤ q) → (∀ p ∈ first :: lanes, 16 * d + p + n ≤ 1024) →
        (∀ p ∈ first :: lanes, r.size = 0 ∨ p + n ≤ r.size) →
        t.reqs = s.reqs.filter (fun q => q.id != r.id) ∧
        (∀ p ∈ first :: lanes, ∀ k, k < n → lane (y.v (d + (p + k) / 16)) 8 ((p + k) % 16) = (data.getD k 0#8).toNat) ∧
        (∀ q, (∀ p ∈ first :: lanes, q < p ∨ p + n ≤ q) → (s.lastOf r = true → 0 < r.size → r.size < 16 → q < r.size ∨ 16 ≤ q) →
          lane (y.v (d + q / 16)) 8 (q % 16) = lane (x.v (d + q / 16)) 8 (q % 16)) ∧
        (s.lastOf r = true → 0 < r.size → ∀ q, r.size ≤ q → q < 16 → lane (y.v d) 8 q = 0) ∧
        (∀ g, g < d → y.v g = x.v g ∧ y.vtag g = x.vtag g) ∧
        (∀ j, j < tags.length → d + first / 16 + j < 64 → y.vtag (d + first / 16 + j) = tags.getD j false) ∧
        (s.lastOf r = true → ∀ g ∈ r.regs, (y.r.cell g).pres = .present) ∧
        (s.lastOf r = false → ∀ g, (y.r.cell g).pres = (x.r.cell g).pres) ∧
        Claim.sameMemory s t ∧ (∀ j, j ≠ i → (t.ctx r.core j).r = (s.ctx r.core j).r) ∧ (∀ e, e ≠ r.core → t.core e = s.core e)) ∧
      (r.stage = .poisoned → r.discard = false → r.regs ≠ [] →
        t.findReq r.id = none ∧ y.r = x.r ∧ ∃ f ∈ y.flaws, f.regs = r.regs ∧ f.cause = cPOISON ∧ f.addr = r.va) ∧
      (r.stage = .fenced → r.discard = true → s.lastOf r = false → t.reqs = s.reqs.filter (fun q => q.id != r.id) ∧ y.r = x.r) ∧
      (r.stage = .fenced → r.discard = false → x.st ≠ .stopped → x.st ≠ .faulted → x.st ≠ .halted →
        Claim.faulted (((s.updCtx r.core i fun x => x.present r.regs).orphan r).dropReq r.id) t r.core i cNOMAP r.va)

/-- R283, R275, R368: the answer of an atomic writes the old value, zero-extended, to its register and raises the flags of a
floating-point addition; the answer that a write has been performed frees its entry, and a refused write faults its Fibre or raises
cause 15 of its hart. -/
def Sys2Proof.Claim.AtomicsAndWritesLand : Prop :=
  ∀ (s : State) (r : Req), s.findReq s.ev.k = some r →
    (∀ op n v c i inc data tags, r.op = .atomic op n v c → r.who = .fibre i inc → s.alive r.core i inc = true →
      (s.ctx r.core i).signed = none → r.stage = .answered data tags →
      ∃ t, exec .atomicAnswerLands s = .next t ∧ t.reqs = s.reqs.filter (fun q => q.id != r.id) ∧
        (t.ctx r.core i).r = (((s.ctx r.core i).setV r.rd (ofBytes data)).raise
          (if op = .addf then atomicFlags op n v (ofBytes data) else 0)).r ∧
        (∀ j, j ≠ i → (t.ctx r.core j).r = (s.ctx r.core j).r) ∧ Claim.sameMemory s t) ∧
    (∀ data tags, r.op = .write data tags →
      ∃ t, exec .writePerformed s = .next t ∧
        (r.stage = .performed → t = { s with reqs := s.reqs.filter fun q => q.id != r.id }) ∧
        (∀ i inc, r.stage = .fenced → r.who = .fibre i inc → s.alive r.core i inc = true →
          (s.ctx r.core i).st ≠ .stopped → (s.ctx r.core i).st ≠ .faulted → (s.ctx r.core i).st ≠ .halted →
          Claim.faulted (((s.updCtx r.core i fun x => x.present r.regs).orphan r).dropReq r.id) t r.core i cNOMAP r.va) ∧
        (∀ u, r.stage = .fenced → r.who = .hart u →
          (s.hart r.core u).st = .running ∨ (s.hart r.core u).st = .waiting → (s.hart r.core u).missVa = none →
          Claim.excTaken (s.dropReq r.id) t r.core u 15 r.va))

/-- R261, R265, R266: the answer of a full/empty operation or of jc.wait completes the instruction that its context waits in, a
load form with the word in its register; the answer of an update of a join counter completes it, and posts the continuation that a
crossing names; a poisoned one faults with POISON. -/
def Sys2Proof.Claim.ServiceAnswers : Prop :=
  ∀ (s : State) (r : Req) (i inc : Nat), s.findReq s.ev.k = some r → r.who = .fibre i inc → s.alive r.core i inc = true →
    r.cancel = false → r.core < outsideCore →
    let c := r.core
    let x := s.ctx c i
    let u := s.dropReq r.id
    (∀ op v, r.op = .fe op v → x.st = .waiting → x.wait.kind = .fullEmpty → x.wait.req = r.id →
      ∃ t, exec .feAnswerLands s = .next t ∧
        (∀ data tags, r.stage = .answered data tags → (t.ctx c i).st ≠ .waiting ∧
          Claim.did u t c i 2 (if op = .ldfe ∨ op = .ldff then x.setV r.rd (ofBytes data) else x)) ∧
        (r.stage = .poisoned → Claim.faulted u t c i cPOISON r.va)) ∧
    (∀ v w, r.op = .jc .wait v w → x.st = .waiting → x.wait.kind = .join → x.wait.req = r.id →
      ∃ t, exec .jcAnswerLands s = .next t ∧
        (∀ data tags, r.stage = .answered data tags → (t.ctx c i).st ≠ .waiting ∧ Claim.did u t c i 2 x) ∧
        (r.stage = .poisoned → Claim.faulted u t c i cPOISON r.va)) ∧
    (∀ op v w, r.op = .jc op v w → op ≠ .wait → x.st = .ready →
      ∃ t, exec .jcAnswerLands s = .next t ∧
        (∀ data tags, r.stage = .answered data tags → Claim.did u t c i 2 x) ∧
        (∀ n, r.stage = .crossed 0 n → Claim.did u t c i 2 x) ∧
        (∀ d n, r.stage = .crossed d n → d ≠ 0 → contOk d = true →
          ∃ w m, Claim.described d 0 0 (bytesOf r.va 8 ++ bytesOf n 8) m ∧
            Claim.sends u w c m true (.channel (descChan d)) (some i) ∧ Claim.did w t c i 2 x) ∧
        (r.stage = .poisoned → Claim.faulted u t c i cPOISON r.va))

/-- R254, R255: when the cycle in which the limit of a wait ends is over, a wait on presence, a reply or a peer, and one queued in the scratchpad, faults
with WAITLIM at the address that the wait reports; one at another home sends a cancel first, and faults when the home answers that
the waiter was removed; a cancel that finds it served changes nothing for the Fibre. -/
def Sys2Proof.Claim.WaitLimits : Prop :=
  (∀ (s : State) (c i : Nat),
    let x := s.ctx c i
    s.ev.core = c → s.ev.k = i → c < numCores → i < 32 → x.st = .waiting → x.wait.limit ≠ 0 →
    x.wait.start + x.wait.limit < (s.core c).counter → x.wait.cancelSent = false →
    ∃ t, exec .waitLimitExpiry s = .next t ∧
      (x.wait.kind = .presence ∨ x.wait.kind = .reply ∨ x.wait.kind = .peer → Claim.faulted s t c i cWAITLIM x.wait.addr) ∧
      (∀ r, x.wait.kind = .fullEmpty ∨ x.wait.kind = .join → s.findReq x.wait.req = some r → r.loc.isSpad = true →
        r.stage = .waiter → Claim.faulted (s.dropReq r.id) t c i cWAITLIM x.wait.addr) ∧
      (∀ r, x.wait.kind = .fullEmpty ∨ x.wait.kind = .join → s.findReq x.wait.req = some r → r.loc.isSpad = false →
        t = (s.updReq r.id fun q => { q with cancel := true }).setCtx c i { x with wait := { x.wait with cancelSent := true } })) ∧
  (∀ (s : State) (r : Req) (i inc : Nat), s.findReq s.ev.k = some r → r.who = .fibre i inc →
    ∃ t, exec .cancelAnswer s = .next t ∧
      (r.cancelAns = some false → s.alive r.core i inc = true → (s.ctx r.core i).waitsFor r.id = true →
        Claim.faulted (s.dropReq r.id) t r.core i cWAITLIM (s.ctx r.core i).wait.addr) ∧
      (r.cancelAns = some true → r.stage = .performed → t = s.dropReq r.id) ∧
      (r.cancelAns = some true → r.stage ≠ .performed →
        t = s.updReq r.id fun q => { q with cancel := false, cancelAns := none }))

/-- R284: the answer of the access that holds a hart writes rd and retires the instruction, sc with 0 or 1; a poisoned one raises
cause 26. -/
def Sys2Proof.Claim.HartAccessesEnd : Prop :=
  ∀ (s : State) (r : Req) (id : Nat), let c := s.ev.core
    let u := s.ev.b
    let h := s.hart c u
    h.pend = some id → s.findReq id = some r →
    ∃ t, exec .hartAccessAnswer s = .next t ∧
      (∀ data tags, r.stage = .answered data tags → h.st = .running ∨ h.st = .waiting →
        t = (s.dropReq r.id).setHart c u (Claim.hartAt { h with pend := none } h.pendRd (BitVec.ofNat 64 (hartValue r.op data))
          (h.pc + BitVec.ofNat 64 h.pendLen))) ∧
      (r.stage = .poisoned → h.st = .running → h.missVa = none →
        Claim.excTaken ((s.dropReq r.id).setHart c u { h with pend := none }) t c u 26 r.va)

/-- R135, R136: the fetch of a block that completes gives its entry the 64 bytes at the block's location, or a failure where they
are poisoned or their home does not admit the tenant; R131, R140: a STOPPED context that is no member of an allocated Skein enters FREE
once nothing of it is outstanding, and keeps its incarnation and the flags that it raised (R42); R217, R221: one that joined a Skein
leaves it, and the last member to leave ends the Skein, whose name becomes EXITED. -/
def Sys2Proof.Claim.BlocksAndDrains : Prop :=
  (∀ (s : State) (e : BlkEntry), let c := s.ev.core
    ((s.core c).blocks.filter fun b => b.data.isNone && b.failed.isNone)[s.ev.k]? = some e →
    ∃ t e', exec .blockFetchComplete s = .next t ∧ e'.addr = e.addr ∧ e'.loc = e.loc ∧
      t = s.setCore c { s.core c with blocks := (s.core c).blocks.map fun b => if b.addr = e.addr then e' else b } ∧
      (s.ownerOk (s.core c).tenant e.loc = true → s.poisonedAt e.loc 64 = false → e'.data = some (s.readAt e.loc 64) ∧ e'.failed = none) ∧
      (s.ownerOk (s.core c).tenant e.loc = true → s.poisonedAt e.loc 64 = true → e'.data = none ∧ e'.failed = some cFETCH) ∧
      (s.ownerOk (s.core c).tenant e.loc = false → e'.data = none ∧ e'.failed = some cNOMAP)) ∧
  (∀ (s : State), let c := s.ev.core
    let i := s.ev.k
    let x := s.ctx c i
    c < numCores → i < 32 → x.st = .stopped → x.mbr = false → s.outstanding c i = false →
    ∃ t, exec .contextDrainComplete s = .next t ∧
      t.ctx c i = { ({} : Ctx) with inc := x.inc, r := { ({} : FibreRegs) with flags := x.r.flags } } ∧
      (∀ j, j ≠ i → (t.ctx c j).r = (s.ctx c j).r) ∧ (∀ e, e ≠ c → t.core e = s.core e) ∧ Claim.sameMemory s t ∧
      (x.joined = false → (t.core c).residents = (s.core c).residents ∧ t.agent = s.agent) ∧
      (x.joined = true → x.skein ≠ 0 →
        let others := (s.core c).members x.skein |>.filter fun j => j != i
        (t.core c).members x.skein = others ∧
        (others ≠ [] → (t.core c).residents = (s.core c).residents ∧ t.agent = s.agent) ∧
        (others = [] → (t.core c).residents = ((s.core c).residents.filter fun r => r.name != x.skein) ∧
          ∀ e, ((s.core c).residents.any fun r => r.name == x.skein) = true → s.nameEntry x.skein = some e →
            t.nameEntry x.skein = some { e with st := .exited })))

/-- R371 to R375: a READY Fibre at the start of a block with a marker, of which a copy is at hand, enters the signed block when the
checker is free. At the marker, where the CRC of the path is the block's word, the held stores are posted, each behind the earlier ones
that it overlaps, the held effects on channels and hanks are made, the checker is free and the block is left; where it is not, the first run ends with the registers, the block slots and the
entry point as at entry, without the errors that its loads met, and runs a second time, and a second run faults with SIGFAIL and
drains the core. That a block's effects on channels and hanks are held and made at the marker is the model's reading (notes/assumptions/104.md). -/
def Obligations.SignedBlocks : Prop :=
  (∀ (s : State) (b : Nat) (d : List Byte), let c := s.ev.core
    let i := s.ev.k
    let k := s.core c
    let x := k.ctx i
    x.st = .ready → x.signed = none → x.pcOff = 0 → k.checker = none → k.stopped = false → (x.lvl = true ∨ k.level = .live) →
    k.currentBlock x = some b → s.fetchBlock c x.lvl b = .ready d → markerOf d ≠ none →
    exec .signedBlockEntry s = .next (s.setCore c (({ k with checker := some i } : Core).setCtx i
      { x with pcBlk := b, signed := some { blk := b, entry := x.r, slot0 := x.slot0, slot1 := x.slot1 } }))) ∧
  (∀ (s : State) (c i : Nat) (g : Signed) (e : BlkEntry) (d : List Byte),
    let x := s.ctx c i
    Claim.ready s c i .plain [] [] [] → x.signed = some g → x.pcOff < 32 → (s.core c).findBlock x.pcBlk = some e → e.data = some d →
    let good := parcelAt d (if g.taken then x.pcOff + 2 else x.pcOff + 1) = crc32c g.path % 2 ^ 16
    ∃ t, exec .signatureMarker s = .next t ∧
      (good → (∀ f ∈ g.effects, ∀ r, f ≠ .named r) →
        s.entriesFree c (g.stores.filter fun h => h.ps.any fun p => !p.2.2.isSpad).length = true →
        Claim.posts s t c i (g.stores.flatMap fun h => h.ps.map fun p =>
          (.write ((h.data.drop p.1).take p.2.1) (if h.tags = [] then none else some ((h.tags.drop (p.1 / 16)).take (p.2.1 / 16))),
            h.va + p.1, p.2.2, [], true)) ∧
        (∀ q ∈ t.reqs.drop s.reqs.length, ∀ r ∈ t.reqs.drop s.reqs.length, q.id < r.id →
          q.loc.overlaps q.op.size r.loc r.op.size = true → q.id ∈ r.after ∧ r.stage = .held) ∧
        (t.ctx c i).signed = none ∧ (t.core c).checker = none ∧
        (∀ ch, (t.core c).entry ch = ((s.core c).sigView i).entry ch) ∧ (∀ h, (t.core c).hank h = ((s.core c).sigView i).hank h) ∧
        (g.effects = [] → Claim.went (({ s with reqs := t.reqs, nextReq := t.nextReq } : State).updCore c fun k =>
            { k with
              checker := none
              transients := if g.second then min (k.transients + 1) (2 ^ 64 - 1) else k.transients
              sigLog := if g.second then x.pcBlk :: k.sigLog else k.sigLog }) t c i
          (if x.bmode then { x with pcOff := 0, streamPos := x.streamPos + 1 } else { x with pcOff := 0, pcBlk := x.pcBlk + 64 }))) ∧
      (¬ good → g.second = false →
        (∀ r, (t.ctx c i).v r = (g.entry.cell r).val.toNat ∧ (t.ctx c i).vtag r = (g.entry.cell r).tag) ∧
        (t.ctx c i).r.ext = g.entry.ext ∧ (t.ctx c i).r.flags = g.entry.flags ∧ (t.ctx c i).pcOff = 0 ∧ (t.ctx c i).pcBlk = x.pcBlk ∧
        (t.ctx c i).signed.map (·.second) = some true ∧ (t.ctx c i).signed.map (·.stores) = some [] ∧
        (t.ctx c i).slot0 = g.slot0 ∧ (t.ctx c i).slot1 = g.slot1 ∧ (t.ctx c i).flaws = (x.flaws.filter fun f => !f.run) ∧
        (∀ f ∈ x.flaws, f.run = true → ∀ r ∈ f.regs, r < 64 → ((t.ctx c i).r.cell r).pres = .present) ∧ Claim.sameMemory s t) ∧
      (¬ good → g.second = true →
        (t.ctx c i).st = .faulted ∧ (t.ctx c i).cause = cSIGFAIL ∧ (t.ctx c i).faultAddr = x.pcBlk % 2 ^ 64 ∧
        (t.core c).stopped = true ∧ (t.core c).drained = true ∧ coreCluster c ∈ t.agent.drained ∧ Claim.sameMemory s t))

/-! ### Translation, page moves and errors (R334 to R344, R369, R375, R377) -/

namespace Sys2Proof.Claim
open Sys2Proof.Machine

/-- No restored load awaits a translation. -/
def noneUntranslated (s : State) : Prop := ∀ r ∈ s.reqs, r.stage ≠ .untranslated

end Sys2Proof.Claim

/-- R336: the translation buffer answers with an entry that matches the address, of the smallest page among those that match, and
misses exactly where none matches. -/
def Sys2Proof.Claim.BufferLookups : Prop :=
  ∀ (t : Tlb) (va : Nat),
    (∀ d, t.find va = some d → (∃ e ∈ t.entries, e.2 = d) ∧ descMatches d va = true ∧
      ∀ e ∈ t.entries, descMatches e.2 va = true → descSize d ≤ descSize e.2) ∧
    (t.find va = none ↔ ∀ e ∈ t.entries, descMatches e.2 va = false)

/-- R335, R337, R344: the walk of one of the first eight misses answers it with the descriptor where the leaf admits the access,
and with a refusal where it does not or there is none; a page in transition is held; a local frame of an access that resolves is
counted. -/
def Sys2Proof.Claim.MissesAreWalked : Prop :=
  ∀ (s : State) (m : Miss), let c := s.ev.core
    let k := s.core c
    k.tlb.misses[s.ev.k]? = some m → s.ev.k < 8 → m.walked = false →
    ∃ t, exec .translationMiss s = .next t ∧
      let n := (t.core c).tlb.misses[s.ev.k]?
      (s.walk k.tenant m.va = none → n.map (·.fill) = some (some none) ∧ n.map (·.walked) = some true ∧ t.agent = s.agent) ∧
      (∀ d a, s.walk k.tenant m.va = some (d, a) →
        (descSt d = 2 ∨ descSt d = 3 → t = s) ∧
        (descSt d ≠ 2 → descSt d ≠ 3 →
          n.map (·.fill) = some (some (if leafAllows d (AccKind.ofCode m.kind) then some d else none)) ∧
          n.map (·.walked) = some true ∧
          (descKind d = 0 → leafAllows d (AccKind.ofCode m.kind) = true → ∀ h, tabGet s.agent.hot (leafTarget d) = some h → h.count + 1 < 2 ^ 32 →
            tabGet t.agent.hot (leafTarget d) = some { count := h.count + 1, sx := h.sx + coreX c, sy := h.sy + coreY c }) ∧
          (descKind d ≠ 0 ∨ leafAllows d (AccKind.ofCode m.kind) = false → t.agent = s.agent))) ∧
      Claim.sameMemory s t

/-- R131, R337, R339: a fill of the buffer's epoch or a later one ends its miss, puts its descriptor into the next slot of the
buffer, and makes every Fibre that waits for a translation in the granule READY; an older one is discarded and its miss sent again.
A refusal makes those Fibres fault with NOMAP at the address that missed, ends a Carder command there once it has written what comes
before (R326), and is the answer to a request that was to be sent again and asked for that translation. -/
def Sys2Proof.Claim.FillsAndRefusals : Prop :=
  ∀ (s : State) (m : Miss), let c := s.ev.core
    let k := s.core c
    k.tlb.misses[s.ev.k]? = some m → Claim.noneUntranslated s →
    let waiting (x : Ctx) : Prop := x.st = .translating ∧ m.va / 2 ^ 16 = x.missVa / 2 ^ 16
    (∀ d, m.fill = some (some d) →
      ∃ t, exec .translationFill s = .next t ∧
        (m.epoch < k.tlb.epoch →
          (t.core c).tlb.misses[s.ev.k]? = some { m with walked := false, fill := none } ∧ ∀ i, t.ctx c i = s.ctx c i) ∧
        (k.tlb.epoch ≤ m.epoch →
          (t.core c).tlb.misses = k.tlb.misses.eraseIdx s.ev.k ∧
          ((∀ e ∈ k.tlb.entries, ¬ (descMatches e.2 m.va = true ∧ descSize e.2 = descSize d)) →
            (t.core c).tlb.entries = tabSet k.tlb.entries k.tlb.next d ∧ (t.core c).tlb.next = (k.tlb.next + 1) % 128) ∧
          (∀ i, i < 32 → waiting (s.ctx c i) → t.ctx c i = { s.ctx c i with st := .ready, missVa := 0 }) ∧
          (∀ i, ¬ waiting (s.ctx c i) → t.ctx c i = s.ctx c i)) ∧
        Claim.sameMemory s t) ∧
    (m.fill = some none → k.tlb.epoch ≤ m.epoch →
      ∃ t, exec .translationRefusal s = .next t ∧
        (t.core c).tlb.misses = k.tlb.misses.eraseIdx s.ev.k ∧
        (∀ i, i < 32 → waiting (s.ctx c i) → (t.ctx c i).st = .faulted ∧ (t.ctx c i).cause = cNOMAP ∧
          (t.ctx c i).faultAddr = (s.ctx c i).missVa % 2 ^ 64) ∧
        (∀ i, ¬ waiting (s.ctx c i) → t.ctx c i = s.ctx c i) ∧
        (∀ u va, (s.hart c u).missVa = some va → m.va / 2 ^ 16 = va / 2 ^ 16 →
          (t.hart c u).excVal = BitVec.ofNat 64 va ∧
          (t.hart c u).excCause = if (s.hart c u).missKind = 1 then 15 else if (s.hart c u).missKind = 3 then 1 else 13) ∧
        (let ends (x : CdCmd) : CdCmd :=
          if (∃ va, x.missVa = some va ∧ m.va / 2 ^ 16 = va / 2 ^ 16) then { x with missVa := none, refused := x.missVa } else x
         (t.core c).carderU = k.carderU.map ends ∧ (t.core c).carderN = k.carderN.map ends) ∧
        ((s.reqs.map (·.id)).Nodup → ∀ r ∈ s.reqs, r.core = c → m.va / 2 ^ 16 = r.va / 2 ^ 16 → r.retries = true → r.asked = true →
          t.stageOf r.id = some .fenced) ∧
        Claim.sameMemory s t)

/-- R339: an invalidate removes the entries of the page from the buffer of a core and raises its epoch, or from the buffer of a
gateway; a core where nothing uses the page answers; a shootdown without an answer outstanding ends, a page move going on or the host's removal replied to. -/
def Sys2Proof.Claim.Shootdowns : Prop :=
  (∀ (s : State) (q : Shoot), let c := s.ev.core
    s.agent.shoots.find? (fun p => p.await.contains c) = some q → c < numCores →
    ∃ t, exec .shootdownInvalidate s = .next t ∧
      (t.core c).tlb.entries = (s.core c).tlb.entries.filter (fun e => !q.hits e.2) ∧
      (t.core c).tlb.epoch = max (s.core c).tlb.epoch q.epoch ∧ (t.core c).tlb.misses = (s.core c).tlb.misses ∧
      (s.usesPage c q = true → t.agent = s.agent) ∧
      (s.usesPage c q = false → ∀ p ∈ t.agent.shoots, p.leaf = q.leaf → p.epoch = q.epoch → (∀ o ∈ s.agent.shoots,
        o.leaf = q.leaf → o.epoch = q.epoch → o = q) → p.await.contains c = false) ∧
      (∀ i, t.ctx c i = s.ctx c i) ∧ Claim.sameMemory s t) ∧
  (∀ (s : State) (q : Shoot) (io : Nat), s.ev.core = numCores + io → io < 2 →
    s.agent.shoots.find? (fun p => p.await.contains s.ev.core) = some q →
    ∃ t, exec .shootdownInvalidate s = .next t ∧
      (t.pod.gate io).entries = (s.pod.gate io).entries.filter (fun e => e.2.1 != q.leaf.tenant || !q.hits e.2.2) ∧
      t.cores = s.cores ∧ Claim.sameMemory s t) ∧
  (∀ (s : State) (q : Shoot), s.agent.shoots.find? (fun p => p.await.isEmpty) = some q →
    ∃ t, exec .shootdownComplete s = .next t ∧ t.agent.shoots = s.agent.shoots.filter (fun p => p != q) ∧
      (q.move = true → t.agent.moves = s.agent.moves.map fun m => if m.leaf = q.leaf then { m with shot := true } else m) ∧
      (∀ cmd, q.move = false → s.agent.cmd = some cmd → t.agent.cmd = none ∧
        (cmd.slot < 32 → bits (slotHeader (t.agent.replySlots.toList.getD cmd.slot [])) 31 24 = 0 ∧
          (slotHeader (t.agent.replySlots.toList.getD cmd.slot [])).testBit 64 = true)) ∧
      Claim.sameMemory s t)

/-- R340: the copier moves a frame with its bytes once the shootdown of its page is complete; its descriptor then names the new
frame and is MAPPED, the page keeps its hotness record, reservations and the stores that signed blocks hold back go with it (R286,
R342), a retired frame is marked with its size, and a move that the host did not ask for is reported to it. -/
def Sys2Proof.Claim.PageCopies : Prop :=
  ∀ (s : State) (m : PageMove), s.agent.moves.find? (fun m => m.shot) = some m → s.mem.wf = true →
    m.src % 64 = 0 → m.dst % 64 = 0 → m.size % 64 = 0 → m.leaf.desc % 16 = 0 →
    (m.src + m.size ≤ m.dst ∨ m.dst + m.size ≤ m.src) →
    (m.leaf.desc + 16 ≤ m.dst ∨ m.dst + m.size ≤ m.leaf.desc) → s.poisonedAt (.pma m.leaf.desc) 16 = false →
    ∃ t, exec .pageCopyComplete s = .next t ∧
      (∀ k, k < m.size → t.readAt (.pma (m.dst + k)) 1 = s.readAt (.pma (m.src + k)) 1) ∧
      (∀ a, (a < m.dst ∨ m.dst + m.size ≤ a) → (a < m.src ∨ m.src + m.size ≤ a) → (a < m.leaf.desc ∨ m.leaf.desc + 16 ≤ a) →
        t.readAt (.pma a) 1 = s.readAt (.pma a) 1) ∧
      (let d := t.mem.num m.leaf.desc 16
       descSt d = 1 ∧ descTarget d = m.dst / 2 ^ 16 % 2 ^ 52) ∧
      t.agent.moves = s.agent.moves.filter (fun n => n != m) ∧
      (m.retiring = true → (m.src, m.size) ∈ t.agent.retired) ∧
      tabGet t.agent.hot m.dst = tabGet s.agent.hot m.src ∧
      (∀ v ∈ s.resvs, ∀ p, v.loc = .pma p → m.src ≤ p → p + v.n ≤ m.src + m.size → 0 < v.n →
        { v with loc := .pma (p - m.src + m.dst) } ∈ t.resvs) ∧
      (∀ c i g, (s.ctx c i).signed = some g → ∃ g', (t.ctx c i).signed = some g' ∧ g'.stores.length = g.stores.length ∧
        ∀ (j : Nat) (h h' : HeldStore), g.stores[j]? = some h → g'.stores[j]? = some h' → h'.va = h.va ∧ h'.data = h.data ∧
          ∀ o n p, (o, n, .pma p) ∈ h.ps → m.src ≤ p → p < m.src + m.size → (o, n, .pma (p - m.src + m.dst)) ∈ h'.ps) ∧
      (m.byHost = false → t.pldm = 3 :: s.pldm)

/-- R338: a MAPPED frame with 16 corrected errors starts to retire to the first frame of the pool of its size that is not retired, or
is counted once where the pool has none; a frame whose poisoned granules pass 64 becomes POISONED, its unfinished move is abandoned, and an event tells
the host. -/
def Sys2Proof.Claim.FramesRetire : Prop :=
  ∀ (s : State) (a : Nat) (f : Frame) (l : Leaf), s.frameAt s.ev.k = some (a, f) → f.leaf = some l →
    s.mem.wf = true → l.desc % 16 = 0 → s.poisonedAt (.pma l.desc) 16 = false →
    (16 ≤ f.corrected → descSt (s.mem.num l.desc 16) = 1 →
      ∃ t, exec .correctedErrorLimit s = .next t ∧
        let fits (p : Nat × Nat) : Bool := p.2 == f.size && !s.isRetired p.1 (2 ^ pageShift p.2)
        (s.agent.pool.find? fits = none →
          (f.reported = false →
            t.agent.counters.toList.getD 5 0 = min (s.agent.counters.toList.getD 5 0 + 1) (2 ^ 64 - 1) ∧ Claim.sameMemory s t) ∧
          (f.reported = true → t = s)) ∧
        (∀ p, s.agent.pool.find? fits = some p →
          descSt (t.mem.num l.desc 16) = 3 ∧ t.agent.pool = s.agent.pool.erase p ∧
          t.agent.moves = s.agent.moves ++ [{ leaf := l, src := a, dst := p.1, size := 2 ^ pageShift f.size, retiring := true,
                                              byHost := false }])) ∧
    (64 < f.poisoned.length → descSt (s.mem.num l.desc 16) ≠ 0 → descSt (s.mem.num l.desc 16) ≠ 4 →
      ∃ t, exec .framePoisoned s = .next t ∧ descSt (t.mem.num l.desc 16) = 4 ∧ t.pldm = 2 :: s.pldm ∧
        (∀ m, s.agent.moves.find? (fun m => m.src == a) = some m → t.agent.moves = s.agent.moves.filter (fun n => n != m)))

/-- R338, R369: an uncorrectable error poisons what it strikes, changes no byte and no other register, and is noted in its frame by its
granule; a correctable one is corrected without effect. -/
def Sys2Proof.Claim.ErrorsStrike : Prop :=
  (∀ (s : State), let e := s.ev.site
    ∃ t, exec .uncorrectableError s = .next t ∧ (∀ l, t.readAt l 1 = s.readAt l 1) ∧
      (∀ a, e = .memory a → pmaOk a 1 = true → s.mem.wf = true → t.poisonedAt (.pma a) 1 = true ∧
        ∀ b f, s.poisonedAt (.pma a) 1 = false → s.frameAt a = some (b, f) →
          tabGet t.agent.frames b = some { f with poisoned := setAdd f.poisoned (a / 32) }) ∧
      (∀ c o, e = .scratch c o → c < numCores → o < spadSize → (s.core c).spad.wf = true → t.poisonedAt (.spad c o) 1 = true) ∧
      (∀ c i r, e = .vreg c i r → c < numCores → i < 32 → r < (s.ctx c i).nreg → r < 64 →
        ((t.ctx c i).r.cell r).bad = true ∧ ((t.ctx c i).r.cell r).val = ((s.ctx c i).r.cell r).val ∧
        ∀ q, q ≠ r → (t.ctx c i).r.cell q = (s.ctx c i).r.cell q) ∧
      (∀ c a, e = .block c a → c < numCores → (∃ b ∈ (s.core c).blocks, b.addr = a ∧ b.data ≠ none) →
        ∀ b ∈ (t.core c).blocks, b.addr = a → b.data = none) ∧
      (∀ c b r, e = .accRow c b r → c < numCores → r < 128 → setSorted (if b = 0 then (s.core c).tw.bank0 else (s.core c).tw.bank1).poison = true →
        setHas (if b = 0 then (t.core c).tw.bank0 else (t.core c).tw.bank1).poison r = true)) ∧
  (∀ (s : State), ∃ t, exec .correctableError s = .next t ∧ t.cores = s.cores ∧ t.mem = s.mem ∧ t.host = s.host ∧ t.reqs = s.reqs)

/-- R375: a lasting fault drains its core, which stops, and a link fault (R347) every core of the cluster; R377: a margin sample of eight codes raises the rail of its cluster below 8
up to 20 steps, and lowers it above 24, marks a cluster that can rise no further, and records the codes; other samples do nothing. -/
def Sys2Proof.Claim.FaultsAndMargins : Prop :=
  (∀ (s : State), s.ev.core < numCores → s.ev.b = false → (s.core s.ev.core).residents = [] →
    ∃ t, exec .lastingFault s = .next t ∧ (t.core s.ev.core).drained = true ∧ (t.core s.ev.core).stopped = true ∧
      t.agent.drained = setAdd s.agent.drained (coreCluster s.ev.core) ∧ (∀ d, d ≠ s.ev.core → t.core d = s.core d) ∧
      Claim.sameMemory s t) ∧
  (∀ (s : State), let link := clusterCores (coreCluster s.ev.core)
    s.ev.core < numCores → s.ev.b = true → (∀ d ∈ link, (s.core d).residents = []) →
    ∃ t, exec .lastingFault s = .next t ∧ (∀ d ∈ link, (t.core d).drained = true ∧ (t.core d).stopped = true) ∧
      (∀ d, d ∉ link → t.core d = s.core d) ∧ Claim.sameMemory s t) ∧
  (∀ (s : State), let n := s.ev.k
    let codes := s.ev.codes
    let low := codes.foldl min 63
    let rail := (tabGet s.agent.rails n).getD 0
    n < 168 → codes.length = 8 → (∀ x ∈ codes, x < 64) → 2 ≤ low →
    ∃ t, exec .marginSample s = .next t ∧ t.cores = s.cores ∧ tabGet t.agent.margins n = some codes ∧
      (low < 8 → rail < 20 → tabGet t.agent.rails n = some (rail + 1)) ∧
      (low < 8 → 20 ≤ rail → tabGet t.agent.rails n = some rail ∧ t.agent.atRisk = setAdd s.agent.atRisk n) ∧
      (24 < low → 0 < rail → tabGet t.agent.rails n = some (rail - 1)) ∧
      (8 ≤ low → low ≤ 24 → tabGet t.agent.rails n = some rail ∧ t.agent.atRisk = s.agent.atRisk))

/-! ### Pre-emption and migration (R161 to R170, R218, R230, R238) -/

/-- R131, R132, R161, R162, R238: a halt request that a kernel in placement causes, in a cycle in which the core has applied no fault
reply, halts every normal context that exists, but a STOPPED
one that is no member, and hart N, each with its state recorded and its registers as they were; urgent contexts go on. In a later cycle,
when every component has halted, the duration is recorded and the image write begins, and the normal Skeins of the core are PREEMPTED.
R163: a halt takes at most 18 cycles without an open Twister batch and a Carder command, and 1,106 with: when those of the halt are
over, no further cycle of the core passes before it completes (how the bound is kept is the model's choice: notes/assumptions/5.md). -/
def Sys2Proof.Claim.NormalLevelHalts : Prop :=
  (∀ (s : State) (k : Kernel), let c := s.ev.core
    s.wantsHalt c = some k → (s.core c).settledAt ≠ some (s.core c).counter → (∀ r ∈ s.reqs, r.core = c → r.loc.isSpad = false) →
    ∃ t, exec .haltRequest s = .next t ∧ (t.core c).level = .halting ∧ (t.core c).haltCycle = (s.core c).counter ∧
      (∀ i, i < 32 →
        let x := s.ctx c i
        let halts := x.st ≠ .free ∧ x.st ≠ .halted ∧ x.lvl = false ∧ (x.st ≠ .stopped ∨ x.mbr = true)
        (halts → (t.ctx c i).st = .halted ∧ (t.ctx c i).before = (if x.st = .dispatching then .ready else x.st) ∧ (t.ctx c i).inc = x.inc ∧
          (x.signed = none → ∀ r, (t.ctx c i).v r = x.v r ∧ (t.ctx c i).vtag r = x.vtag r)) ∧
        (¬ halts → t.ctx c i = x)) ∧
      ((s.hart c false).st ≠ .free → (t.hart c false).st = .halted ∧ (t.hart c false).before = (s.hart c false).st ∧
        (t.hart c false).pc = (s.hart c false).pc ∧ (t.hart c false).x = (s.hart c false).x) ∧
      t.hart c true = s.hart c true ∧ (∀ d, d ≠ c → t.core d = s.core d)) ∧
  (∀ (s : State), let c := s.ev.core
    let k := s.core c
    k.level = .halting → k.counter ≠ k.haltCycle → (k.tw.openB = true → k.tw.ownerU = false → ∀ r ∈ s.rotated, r.src ≠ c) →
    ∃ t, exec .haltComplete s = .next t ∧
      t.core c = { k with level := .saving, haltDuration := ((k.counter : Int) - k.haltCycle) % 2 ^ 64 |>.toNat } ∧
      (∀ d, d ≠ c → t.core d = s.core d) ∧
      (∀ r ∈ k.residents, ∀ e, r.lvl = false → s.nameEntry r.name = some e → e.core = c →
        t.nameEntry r.name = some { e with st := .preempted }) ∧ Claim.sameMemory s t) ∧
  (∀ (s : State), (s.core s.ev.core).counter = (s.core s.ev.core).haltCycle → exec .haltComplete s = .next s) ∧
  (∀ (s : State) (c : Nat),
    let k := s.core c
    let took := (((k.counter : Int) - k.haltCycle) % 2 ^ 64).toNat
    c < numCores → k.level = .halting → k.haltBound ≤ took →
    (s.hasHalted c = false → stepTurn (.tick c) s = .next s) ∧
    (s.hasHalted c = true → ∃ t, stepTurn (.tick c) s = .next t ∧ (t.core c).level = .saving ∧ (t.core c).haltDuration = took)) ∧
  (∀ (k : Core), k.haltBound ≤ 1106 ∧ (k.tw.openB = false → k.carderN = [] → k.haltBound ≤ 18))

/-- R131, R161, R164, R165: once nothing of the halted level is awaited its image is written to the save area of the core and the
level is SAVED: the contexts that had halted are FREE with their incarnations, and every other context is as it was. R169: the load
records of an image are at most 512. -/
def Sys2Proof.Claim.ImagesAreSaved : Prop :=
  (∀ (k : Core), ((k.haltedCtxs.map fun i => (k.ctx i).flawEntries).foldl (· + ·) 0) ≤ 512 →
    (k.recorded.flatMap fun p => p.2.flatMap Flaw.loads).length ≤ 512) ∧
  ∀ (s : State) (area : Nat), let c := s.ev.core
    let k := s.core c
    k.saveArea = some area → k.level = .saving → s.saveWaits c = false → k.inbox.late = [] → s.mem.wf = true → s.mem.poison = [] →
    area % 64 = 0 →
    ∃ t, exec .saveComplete s = .next t ∧ (t.core c).level = .saved ∧
      (∀ i, i < 32 → (s.ctx c i).st = .halted → (s.ctx c i).lvl = false → t.ctx c i = { ({} : Ctx) with inc := (s.ctx c i).inc }) ∧
      (∀ i, (s.ctx c i).st ≠ .halted ∨ (s.ctx c i).lvl = true → t.ctx c i = s.ctx c i) ∧
      (t.core c).saved.map (·.idx) = (List.range 32).filter (fun i => (s.ctx c i).st == .halted && !(s.ctx c i).lvl) ∧
      t.mem.num area 4 = 0x4A5A5356 ∧ t.mem.num (area + 4) 2 = 1 ∧ t.mem.num (area + 8) 4 = s.addrOf c % 2 ^ 32 ∧
      t.mem.num (area + 24) 8 = k.haltCycle % 2 ^ 64 ∧ t.mem.num (area + 36) 4 = k.footprint % 2 ^ 32 ∧
      t.hart c true = s.hart c true ∧ (∀ d, d ≠ c → t.core d = s.core d) ∧
      (∀ a, a < area → t.readAt (.pma a) 1 = s.readAt (.pma a) 1)

/-- R161, R164, R168, R170: a SAVED level whose urgent kernel is over takes a restore request when no urgent context holds an index
that it needs. An image that checks gives every saved context its registers, allocation and incarnation back from its record, and
the scratchpad its bytes, and the level is LIVE; of one that does not check the kernel fails with status 7. -/
def Sys2Proof.Claim.ImagesAreRestored : Prop :=
  (∀ (s : State) (j : Kernel), let c := s.ev.core
    s.agent.kernels.find? (fun j => j.isOver && j.halted.contains c) = some j →
    (s.core c).level = .saved → (s.core c).idU.kernel = none → (∀ e ∈ (s.core c).saved, (s.ctx c e.idx).st = .free) →
    ∃ t, exec .restoreRequest s = .next t ∧ t.core c = { s.core c with level := .restoring } ∧
      (∀ d, d ≠ c → t.core d = s.core d) ∧ Claim.sameMemory s t) ∧
  (∀ (s : State) (area : Nat), let c := s.ev.core
    let k := s.core c
    k.saveArea = some area → k.level = .restoring → s.cancelsOut c = false →
    ∃ t, exec .restoreComplete s = .next t ∧
      (∀ n q, s.imageOk c area = false → k.idN.kernel = some n → s.kernel n = some q → q.isOver = false →
        ∃ p, t.kernel n = some p ∧ p.st = .failed ∧ p.status = 7) ∧
      (s.imageOk c area = true → k.inbox.late = [] → (k.saved.map (·.idx)).Nodup → k.spad.wf = true →
        s.mem.num (area + 40) 4 = 0 ∨ k.tw.openB = false → s.entriesFree c (s.savedLoads c area) = true →
        (t.core c).level = .live ∧ (t.core c).saved = [] ∧
        (∀ e ∈ k.saved, ∀ a, e.idx < 32 → s.recordOf area e.idx = some a →
          let x := t.ctx c e.idx
          x.nreg = 16 * s.mem.num (a + 2) 1 ∧ x.inc.toNat = s.mem.num (a + 124) 1 ∧ x.mask 1#2 = s.mem.num (a + 82) 2 ∧
          (∀ j, j < x.nreg → j < 64 → x.v j = s.mem.num (a + 256 + 16 * j) 16 ∧ x.vtag j = (s.mem.num (a + 144) 8).testBit j)) ∧
        (let f := s.mem.num (area + 36) 4
         let pad := area + imgTwister + s.mem.num (area + 40) 4
         f % 16 = 0 → ∀ o, o < f → t.readAt (.spad c o) 1 = s.readAt (.pma (pad + o)) 1) ∧
        (∀ d, d ≠ c → t.core d = s.core d)))

/-- R217, R218, R231: the members of a Skein in migration, halted and with nothing outstanding, their deposits included, move with their registers to contexts that
were FREE at the new core, and their old contexts are FREE; a name that is MIGRATING is LIVE at once where no cache holds its name, and else with
the last acknowledgement of its caches, when the old core stops forwarding. -/
def Sys2Proof.Claim.SkeinsMigrate : Prop :=
  (∀ (s : State) (g : Migration),
    let k := s.core g.src
    s.agent.migrations[s.ev.k]? = some g → g.installed = false → g.held = [] → g.src ≠ g.dst →
    (∀ i ∈ k.members g.name, (s.ctx g.src i).st = .halted ∧ s.outstanding g.src i = false ∧ ∀ e ∈ k.ctxEntries i, e.isDeposit = false) →
    g.level = true ∨ (s.core g.dst).level = .live →
    (s.core g.dst).canCreate g.level ((k.members g.name).map fun i => (k.ctx i).nreg) = true →
    ∃ t, exec .skeinMigrationInstalled s = .next t ∧
      (∀ i ∈ k.members g.name, t.ctx g.src i = { ({} : Ctx) with inc := (s.ctx g.src i).inc } ∧
        ∃ j, j < 32 ∧ (s.ctx g.dst j).st = .free ∧
          let y := t.ctx g.dst j
          y.nreg = (s.ctx g.src i).nreg ∧ y.rank = (s.ctx g.src i).rank ∧ y.skein = (s.ctx g.src i).skein ∧
          ∀ r, y.v r = (s.ctx g.src i).v r ∧ y.vtag r = (s.ctx g.src i).vtag r) ∧
      (∀ i, i ∉ k.members g.name → t.ctx g.src i = s.ctx g.src i) ∧
      (∃ r ∈ (t.core g.dst).residents, r.name = g.name ∧ r.lvl = g.level) ∧ (∀ r ∈ (t.core g.src).residents, r.name ≠ g.name) ∧
      (∀ e, s.nameEntry g.name = some e → e.caches = [] →
        t.nameEntry g.name = some { e with st := if e.st = .migrating then .live else e.st } ∧
        ∀ h ∈ t.agent.migrations, h.name ≠ g.name) ∧ Claim.sameMemory s t) ∧
  (∀ (s : State) (n name : Nat) (g : Migration), s.agent.forwardAcks[s.ev.k]? = some (n, name) →
    s.agent.migrations.find? (fun g => g.name == name && g.installed) = some g →
    ∃ t, exec .forwardingAck s = .next t ∧ t.agent.forwardAcks = s.agent.forwardAcks.eraseIdx s.ev.k ∧
      ((∀ f ∈ (s.core g.src).forwarding, f.1 = name → f.2.2 ≤ 1) →
        (t.core g.src).forwarding = (s.core g.src).forwarding.filter (fun f => f.1 != name) ∧
        (∀ e, s.nameEntry name = some e → t.nameEntry name = some { e with st := if e.st = .migrating then .live else e.st }) ∧ ∀ h ∈ t.agent.migrations, h.name ≠ name) ∧
      ((∃ f ∈ (s.core g.src).forwarding, f.1 = name ∧ 1 < f.2.2) →
        (t.core g.src).forwarding = ((s.core g.src).forwarding.map fun f => if f.1 = name then (f.1, f.2.1, f.2.2 - 1) else f) ∧
        t.agent.migrations = s.agent.migrations) ∧
      (∀ d, d ≠ g.src → t.core d = s.core d) ∧ Claim.sameMemory s t)

/-! ### Messages, dispatch, deposits and names as the units handle them (R145, R150, R173 to R192, R197, R205, R210, R215 to R220,
R227 to R230, R242, R245 to R247, R345, R346) -/

namespace Sys2Proof.Claim
open Sys2Proof.Machine

/-- R173, R247: message k that has arrived whole at core c leaves the reassembly entries, counted as received at its level. -/
def pulled (s : State) (c k : Nat) (lvl : Bool) : State :=
  let x := s.core c
  s.setCore c { x with
    inbox := { x.inbox with arrived := x.inbox.arrived.eraseIdx k }
    recvU := if lvl then (x.recvU + 1) % 2 ^ 64 else x.recvU
    recvN := if lvl then x.recvN else (x.recvN + 1) % 2 ^ 64 }

/-- An unordered message, whose reserved fields are zero, waits at core c, whose normal level is LIVE. -/
def waitsAt (s : State) (c k : Nat) (m : Msg) : Prop :=
  c < numCores ∧ (s.core c).level = .live ∧ (s.core c).inbox.arrived[k]? = some m ∧ m.flag flagOrdered = false ∧
  m.rsvd = 0 ∧ m.dest / 2 ^ 20 % 2 ^ 12 = 0

/-- Every byte, tag and full/empty bit reads as before, and no poison is new: what an overflow ring writes may end some. -/
def sameBytes (s t : State) : Prop :=
  ∀ l : Loc, t.readAt l 1 = s.readAt l 1 ∧ t.tagsAt l 16 = s.tagsAt l 16 ∧ t.isFull l = s.isFull l ∧
    (t.poisonedAt l 1 = true → s.poisonedAt l 1 = true)

/-- The bytes o to o + n - 1 of a payload as a number. -/
def word (m : Msg) (o n : Nat) : Nat := ofBytes ((m.payload.drop o).take n)

end Sys2Proof.Claim

/-- R175, R176, R179, R180: a request that arrives is refused with RESERVED where a reserved field is not zero, with FENCED where the core is fenced or of another tenant, with NOCHAN
where its channel takes no such request, with SIZE where its payload does not fit, and with BOUNCED where neither its queue nor its
ring has room; else it enters the ring, whose record is written, where that holds a message or the queue is full, and the queue where not, and a request that
wants no reply has its acceptance posted. -/
def Sys2Proof.Claim.RequestsArrive : Prop :=
  ∀ (s : State) (m : Msg), let c := s.ev.core
    let k := s.core c
    let e := k.entry m.chan
    let u := Claim.pulled s c s.ev.k m.prio
    let ours := s.coreFenced c = false ∧ m.tenant = k.tenant
    let taken := chanBad m e = false ∧ s.sizeOk c m e = true
    let queue := if m.prio then k.inbox.uReq else k.inbox.nReq
    let ring := if m.prio then k.inbox.ringU else k.inbox.ringN
    let size := if m.prio then k.suSize else k.snSize
    (c < numCores → k.level = .live → k.inbox.arrived[s.ev.k]? = some m → m.flag flagOrdered = false → m.answer = false →
      m.rsvd ≠ 0 ∨ m.dest / 2 ^ 20 % 2 ^ 12 ≠ 0 → exec .messageArrival s = .next (u.post c (Msg.refusal (s.addrOf c) 9 m))) ∧
    (Claim.waitsAt s c s.ev.k m → m.answer = false → m.dkind ≠ 3 →
    ∃ t, exec .messageArrival s = .next t ∧
      (¬ ours → t = u.post c (Msg.refusal (s.addrOf c) 1 m)) ∧
      (ours → chanBad m e = true → t = u.post c (Msg.refusal (s.addrOf c) 7 m)) ∧
      (ours → chanBad m e = false → s.sizeOk c m e = false → t = u.post c (Msg.refusal (s.addrOf c) 8 m)) ∧
      (ours → taken → (ring ≠ [] ∨ 32 ≤ queue.length) → size ≤ ring.length → t = u.post c (Msg.refusal (s.addrOf c) 5 m)) ∧
      (ours → taken → ring = [] → queue.length < 32 →
        ∃ v, v = u.updCore c (fun k => { k with inbox := if m.prio then { k.inbox with uReq := queue ++ [m] }
            else { k.inbox with nReq := queue ++ [m] } }) ∧
          t = if (m.rchan = 0 ∧ entTarget e ≠ 4) ∨ entTarget e = 5 then v.post c (m.acceptance s c) else v) ∧
      (ours → taken → (ring ≠ [] ∨ 32 ≤ queue.length) → ring.length < size →
        ∃ v, v = (u.updCore c fun k => { k with inbox := if m.prio then { k.inbox with ringU := ring ++ [m] }
            else { k.inbox with ringN := ring ++ [m] } }).ringWritten c m.prio ∧
          t = if (m.rchan = 0 ∧ entTarget e ≠ 4) ∨ entTarget e = 5 then v.post c (m.acceptance s c) else v))

/-- R176, R177, R179, R246: an acceptance ends the reservation of its request, and is discarded and counted where the core is fenced
or of another tenant; an answer on a channel whose reservation waits, and
that the channel takes, enters the reply queue of its level: its entry is free then, and its slot when it is dispatched; one without a reservation
is discarded and counted at the core that sent it. -/
def Sys2Proof.Claim.AnswersArrive : Prop :=
  ∀ (s : State) (m : Msg), let c := s.ev.core
    let k := s.core c
    let u := Claim.pulled s c s.ev.k m.prio
    Claim.waitsAt s c s.ev.k m → m.answer = true → m.chan < 512 →
    (∀ e ch, m.isNotice = true →
      k.table.find? (fun e => e.seq == m.seq && !e.got && (match e.ans with | .join .. => false | _ => true)) = some e →
      e.ans = .channel ch →
      let v := s.setCore c { k with
        inbox := { k.inbox with arrived := k.inbox.arrived.eraseIdx s.ev.k }, table := k.table.filter fun f => f.id != e.id }
      exec .messageArrival s = .next (if s.answerFenced c m then v.countLost m else v)) ∧
    (∀ e, m.isNotice = false → (∀ f ∈ k.table, f.seq = m.seq → f.ans ≠ .notice) →
      k.table.find? (fun e => e.seq == m.seq && !e.got && e.ans == .channel m.chan) = some e → s.answerBad c m = false →
      ∃ t, exec .messageArrival s = .next t ∧
        t = u.updCore c fun k => { k with
          table := k.table.map fun f => if f.id = e.id then { f with got := true } else f
          inbox := if m.prio then { k.inbox with uReply := k.inbox.uReply ++ [m] } else { k.inbox with nReply := k.inbox.nReply ++ [m] } }) ∧
    (m.isNotice = false → k.isFaultAnswer m = false → (∀ f ∈ k.table, f.seq ≠ m.seq) →
      ∃ t, exec .messageArrival s = .next t ∧
        (m.rcore / 4096 = s.pkg → m.rcore % 4096 < numCores →
          (t.core (m.rcore % 4096)).telemetry.toList.getD 0 0 =
            min ((s.core (m.rcore % 4096)).telemetry.toList.getD 0 0 + 1) (2 ^ 64 - 1)) ∧
        (∀ d i, t.ctx d i = s.ctx d i) ∧ Claim.sameMemory s t)

/-- R131, R185, R188 to R190, R192, R245: the first head that can be served, of a channel that dispatches to the Fibre pool, creates
a DISPATCHING context of the channel's level and allocation in the lowest FREE index, with the payload in v0 to v3, the root in v4 (a tagged
one with a valid type, notes/assumptions/91.md) and the reply descriptor in v5, at the channel's block or, for a spawn, where the payload says; a one-shot channel is disabled. -/
def Sys2Proof.Claim.DispatchCreatesFibres : Prop :=
  ∀ (s : State) (q : QName) (m : Msg) (i : Nat), let c := s.ev.core
    let k := s.core c
    let e := k.entry m.chan
    c < numCores → k.nextHead = some (q, m) → k.isFaultAnswer m = false → entTarget e = 0 → k.freeIdx = some i →
    m.plen ≤ 4 → m.flag flagPoison = false → m.rcore < 2 ^ 20 → m.rchan < 1024 → m.seq < 65536 → m.tenant < 1024 → m.flags < 256 → m.chan < 1024 →
    ∃ t, exec .dispatch s = .next t ∧
      let x := t.ctx c i
      x.st = .dispatching ∧ x.inc = (s.ctx c i).inc + 1#8 ∧ x.lvl = entLvl e ∧ x.nreg = entRegs e ∧
      (∀ j, j < 4 → x.v j = Claim.word m (16 * j) 16) ∧ x.v 4 = rootCap (entRoot e) (entRT e) ∧ x.vtag 4 = entRT e ∧
      bits (x.v 5) 19 0 = m.rcore ∧ bits (x.v 5) 29 20 = m.rchan ∧ bits (x.v 5) 45 30 = m.seq ∧ bits (x.v 5) 55 46 = m.tenant ∧
      (x.v 5).testBit 56 = m.prio ∧ (x.v 5).testBit 57 = m.answer ∧ (x.v 5).testBit 127 = false ∧
      (∀ r, 5 < r → x.v r = 0) ∧
      (m.flag flagSpawn = false → x.pcBlk = entBlk e ∧ x.pcOff = 0 ∧ x.byDispatch = true) ∧
      (m.flag flagSpawn = true → m.answer = false →
        x.pcBlk = Claim.word m 0 8 / 64 * 64 ∧ x.pcOff = Claim.word m 0 8 % 64 / 2 ∧ x.byDispatch = false) ∧
      (entO e = true → entE ((t.core c).entry m.chan) = false) ∧
      (∀ j, j ≠ i → t.ctx c j = s.ctx c j) ∧ (∀ d, d ≠ c → t.core d = s.core d) ∧ Claim.sameBytes s t

/-- R150, R191, R205, R242: the first head that can be served, of a channel that goes to a hart, starts a STARTABLE hart with the
payload in a0 to a7 and the message word in jdimsg, interrupts one that may be interrupted at its vector with the payload in the
shadow set, and completes a `jd.recv` else. -/
def Sys2Proof.Claim.DispatchToHarts : Prop :=
  ∀ (s : State) (q : QName) (m : Msg) (u : Bool), let c := s.ev.core
    let k := s.core c
    let h := s.hart c u
    c < numCores → k.nextHead = some (q, m) → k.isFaultAnswer m = false → entTarget (k.entry m.chan) = (if u then 1 else 2) →
    m.plen ≤ 4 → m.flag flagPoison = false →
    ∃ t, exec .dispatch s = .next t ∧
      let g := t.hart c u
      (h.st = .startable → g.st = .running ∧ g.pc = h.pc ∧ g.jdimsg = BitVec.ofNat 64 m.word ∧
        (∀ j, j < 8 → g.x.toList.getD (10 + j) 0#64 = BitVec.ofNat 64 (Claim.word m (8 * j) 8)) ∧
        (∀ j, j < 10 ∨ 17 < j → g.x.toList.getD j 0#64 = h.x.toList.getD j 0#64) ∧ g.shadow = h.shadow) ∧
      (h.st ≠ .startable → k.interruptible u = true → g.st = .running ∧ g.pc = h.jdivec ∧ g.jdepc = h.pc ∧ g.jdieA = true ∧
        g.jdimsg = BitVec.ofNat 64 m.word ∧ g.x = h.x ∧
        (∀ j, j < 8 → g.shadow.toList.getD j 0#64 = BitVec.ofNat 64 (Claim.word m (8 * j) 8)) ∧
        (∀ r ∈ t.resvs, r.core = c → r.urgent ≠ u)) ∧
      (h.st = .waiting → h.wait = .recv → k.interruptible u = false → h.jdieA = false →
        g.st = .running ∧ g.wait = .none ∧ g.pc = h.pc + 4#64 ∧ g.instret = h.instret + 1#64 ∧
        (h.pendRd ≠ 0#5 → g.get h.pendRd = BitVec.ofNat 64 m.word) ∧
        (∀ j, j < 8 → h.pendRd.toNat ≠ 10 + j → g.x.toList.getD (10 + j) 0#64 = BitVec.ofNat 64 (Claim.word m (8 * j) 8))) ∧
      (∀ j, t.ctx c j = s.ctx c j) ∧ t.hart c (!u) = s.hart c (!u) ∧ (∀ d, d ≠ c → t.core d = s.core d) ∧ Claim.sameBytes s t

/-- R145, R184: the answer to the fault message of a FAULTED Fibre or hart settles it: retry, skip and go on elsewhere make it run
again, and release stops the Fibre and frees the hart; an answer that names another incarnation or another fault does nothing. A jump to an odd address goes
to the parcel that holds it (the model's choice, notes/assumptions/94.md). -/
def Sys2Proof.Claim.FaultRepliesSettle : Prop :=
  ∀ (s : State) (m : Msg), let c := s.ev.core
    let k := s.core c
    let act := Claim.word m 0 8
    let a := Claim.word m 8 8
    Claim.waitsAt s c s.ev.k m → k.isFaultAnswer m = true → s.answerFenced c m = false →
    ∃ t, exec .faultReply s = .next t ∧ (∀ d, d ≠ c → t.core d = s.core d) ∧ Claim.sameMemory s t ∧
      (m.chan = 1 →
        let i := Claim.word m 16 1
        let x := s.ctx c i
        let mine := i < 32 ∧ x.st = .faulted ∧ x.inc.toNat = Claim.word m 17 1 ∧ x.faultSeq = some m.seq
        let y := { k.rejoin x with faultSeq := none, st := .ready }
        (mine → act = 0 → (t.ctx c i).st = .stopped ∧ (t.ctx c i).faultSeq = none ∧ (t.ctx c i).r = x.r) ∧
        (mine → act = 1 → t.ctx c i = y) ∧
        (mine → act = 2 → t.ctx c i = y.advance x.faultLen) ∧
        (mine → act = 3 → t.ctx c i = { y.dropSlot (a / 64 * 64) with bmode := false, pcBlk := a / 64 * 64, pcOff := a % 64 / 2 }) ∧
        (¬ mine → ∀ j, t.ctx c j = s.ctx c j) ∧ (∀ j, j ≠ i → (t.ctx c j).r = (s.ctx c j).r)) ∧
      (m.chan = 2 → ∀ u, Claim.word m 16 1 = (if u then 1 else 0) →
        let h := s.hart c u
        let mine := h.st = .faulted ∧ h.faultSeq = some m.seq
        let g := { h with faultSeq := none, st := .running }
        (mine → act = 0 → t.hart c u = { g with st := .free }) ∧ (mine → act = 1 → t.hart c u = g) ∧
        (mine → act = 2 → t.hart c u = { g with pc := h.pc + BitVec.ofNat 64 (s.instrBytes c u) }) ∧
        (mine → act = 3 → t.hart c u = { g with pc := BitVec.ofNat 64 a }) ∧
        (¬ mine → t.hart c u = h) ∧ (∀ j, t.ctx c j = s.ctx c j))

/-- R171, R177, R197: the answer to a sendr puts its status, length, sequence number and sender into the first register of the pair
and the first 16 bytes of its payload into the second, both PRESENT, and ends the reservation; a core that is drained (R375) still
takes it. -/
def Sys2Proof.Claim.SendrAnswersLand : Prop :=
  ∀ (s : State) (m : Msg) (e : Entry) (i inc rd ch : Nat), let c := s.ev.core
    let x := s.ctx c i
    Claim.waitsAt s c s.ev.k m → m.answer = true → 0x200 ≤ m.chan →
    (s.core c).table.find? (fun e => e.x == m.chan - 0x200 && e.seq == m.seq) = some e → e.ans = .regs i inc rd ch →
    s.alive c i inc = true → x.signed = none → (m.flag flagNack = true ∨ (s.rectClosed c = false ∧ m.tenant = (s.core c).tenant)) →
    ∃ t, exec .sendrAnswerLands s = .next t ∧
      (t.ctx c i).r = ((x.setV rd (packLanes 32 [if m.flag flagNack then m.rchan else 0, m.plen, m.seq, m.rcore])).setV (rd + 1)
        (Claim.word m 0 16)).r ∧
      (t.core c).table = (s.core c).table.filter (fun f => f.id != e.id) ∧
      (∀ j, j ≠ i → (t.ctx c j).r = (s.ctx c j).r) ∧ (∀ d, d ≠ c → t.core d = s.core d) ∧ Claim.sameMemory s t

/-- R227 to R229, R218: a deposit at the core where its Skein resides is taken, one a cycle, and applied at the end of the cycle; it is
refused with FENCED at a core that is fenced or of another tenant, and as malformed where its words are; a core that forwards for the
Skein sends it on. -/
def Sys2Proof.Claim.DepositsArrive : Prop :=
  ∀ (s : State) (m : Msg), let c := s.ev.core
    let k := s.core c
    let left : Inbox := { k.inbox with deposits := k.inbox.deposits.eraseIdx s.ev.k }
    let u := s.setCore c { k with
      inbox := left
      recvU := if m.prio then (k.recvU + 1) % 2 ^ 64 else k.recvU
      recvN := if m.prio then k.recvN else (k.recvN + 1) % 2 ^ 64 }
    let stay := k.forwarding.find? (fun f => f.1 == m.dest) = none
    let ours := s.coreFenced c = false ∧ m.tenant = k.tenant
    k.inbox.landing = [] → k.inbox.deposits[s.ev.k]? = some m → m.flag flagOrdered = false →
    (∀ q, stay → m.rsvd = 0 → ours → m.depositBad = none → (∀ g ∈ s.agent.migrations, g.name ≠ m.dest) →
      k.residents.find? (fun r => r.name == m.dest) = some q →
      exec .depositArrival s = .next (s.setCore c { k with inbox := { left with landing := [(m, q.lvl)] } })) ∧
    (stay → m.rsvd ≠ 0 → exec .depositArrival s = .next (u.post c (Msg.refusal (s.addrOf c) 9 m))) ∧
    (∀ x, stay → m.rsvd = 0 → ours → m.depositBad = some x →
      exec .depositArrival s = .next (u.post c (Msg.refusal (s.addrOf c) x m))) ∧
    (stay → m.rsvd = 0 → ¬ ours → exec .depositArrival s = .next (u.post c (Msg.refusal (s.addrOf c) 1 m))) ∧
    (∀ d f, k.forwarding.find? (fun f => f.1 == m.dest) = some (m.dest, d, f) →
      exec .depositArrival s = .next ((s.setCore c { k with inbox := left }).inject (coreX c) (coreY c) (coreEndpoint d) m))

/-- R228, R229: at the end of a cycle a deposit writes the HELD registers that it names of the member of its rank, which are PRESENT
then, and is accepted; it is refused with NOTHELD where one of them is not HELD or became so in this cycle, and with NOSUCHGROUP where
no member has the rank. -/
def Sys2Proof.Claim.DepositsLand : Prop :=
  ∀ (s : State) (m : Msg) (lvl : Bool) (c : Nat),
    let k := s.core c
    let w := Claim.word m 0 16
    let n := if w.testBit 16 then 4 else 1
    let r := w / 2 ^ 8 % 2 ^ 6
    let u := s.setCore c { k with
      inbox := { k.inbox with landing := [] }
      recvU := if m.prio then (k.recvU + 1) % 2 ^ 64 else k.recvU
      recvN := if m.prio then k.recvN else (k.recvN + 1) % 2 ^ 64 }
    k.level = .live → k.inbox.landing = [(m, lvl)] →
    (∀ i, (k.members m.dest).find? (fun i => (s.ctx c i).rank == w % 32) = some i → (s.ctx c i).signed = none →
      let t := s.landDeposits c
      let x := s.ctx c i
      let held (g : Nat) : Prop := (x.r.cell g).pres = .held ∧ ∀ rs, x.heldAt = some (k.counter, rs) → g ∉ rs
      (r + n ≤ x.nreg → (∀ j, j < n → held (r + j)) →
        (∀ j, j < n → r + j < 64 → (t.ctx c i).v (r + j) = Claim.word m (16 + 16 * j) 16 ∧ (t.ctx c i).vtag (r + j) = false ∧
          ((t.ctx c i).r.cell (r + j)).pres = .present) ∧
        (∀ g, (g < r ∨ r + n ≤ g) → (t.ctx c i).r.cell g = x.r.cell g) ∧
        (∀ j, j ≠ i → (t.ctx c j).r = (s.ctx c j).r) ∧ Claim.sameMemory s t) ∧
      (x.nreg < r + n ∨ (∃ j, j < n ∧ ¬ held (r + j)) → t = u.post c (Msg.refusal (s.addrOf c) 4 m))) ∧
    ((∀ i ∈ k.members m.dest, (s.ctx c i).rank ≠ w % 32) → s.landDeposits c = u.post c (Msg.refusal (s.addrOf c) 3 m))

/-- R216: a deposit at the name servers goes to the core that its Skein is at, and the cache of the sender's core is told; it is
refused with NOSUCHGROUP where the name is not that of a Skein that exists, and with FENCED where the tenant is another. -/
def Sys2Proof.Claim.NameServersForward : Prop :=
  ∀ (s : State) (m : Msg),
    let p := serviceEndpoint (m.dest / 2 ^ 8 % 2 ^ 16 % 144)
    let u : State := { s with agent := { s.agent with nsDeposits := s.agent.nsDeposits.eraseIdx s.ev.k } }
    let refused (u : State) (r : Nat) : State := u.postFrom p.x p.y (Msg.refusal (s.pkg * 4096 + 0xFFE) r m) 1
    let who := if m.rcore / 4096 = s.pkg then m.rcore % 4096 else 2 ^ 20 + m.rcore
    s.agent.nsDeposits[s.ev.k]? = some m →
    (s.nameEntry m.dest = none → exec .nameServerDeposit s = .next (refused u 3)) ∧
    (∀ e, s.nameEntry m.dest = some e → e.st = .exited → exec .nameServerDeposit s = .next (refused u 3)) ∧
    (∀ e, s.nameEntry m.dest = some e → e.st ≠ .exited → e.st ≠ .preempted ∨ m.tenant ≠ e.tenant →
      ∃ v, exec .nameServerDeposit s = .next (if m.tenant = e.tenant then v.inject p.x p.y (coreEndpoint e.core) m 1 else refused v 1) ∧
        v.cores = s.cores ∧ v.agent.nsDeposits = s.agent.nsDeposits.eraseIdx s.ev.k ∧
        v.agent.cacheUpdates = s.agent.cacheUpdates ++ [(who, m.dest, e.core, false)] ∧
        v.nameEntry m.dest = some { e with caches := setAdd e.caches who })

/-- R215, R216: a name cache holds 32 resolutions, the latest first, and the name servers know which caches hold a name; it takes those
of another package's name server as well (notes/assumptions/63.md); R215: the launch agent gives a request the index of the tenant's
range that was released longest ago, with the next generation, or answers that there is none; R220: a context that was given a name
in its incarnation is given no second one once that has EXITED (notes/assumptions/49.md). -/
def Sys2Proof.Claim.NamesAreGiven : Prop :=
  (∀ (s : State) (c n h : Nat) (ack : Bool), s.ev.b = false → s.agent.cacheUpdates[s.ev.k]? = some (c, n, h, ack) → c < numCores →
    let l := (n, h) :: (s.core c).nameCache.filter fun e => e.1 != n
    ∃ t, exec .nameCacheUpdate s = .next t ∧
      t.core c = { s.core c with nameCache := l.take 32 } ∧
      (∀ e, s.nameEntry n = some e → ∃ f, t.nameEntry n = some f ∧ c ∈ f.caches) ∧
      (∀ p ∈ l.drop 32, ∀ e, s.nameEntry p.1 = some e → ∃ f, t.nameEntry p.1 = some f ∧ c ∉ f.caches) ∧
      t.agent.cacheUpdates = s.agent.cacheUpdates.eraseIdx s.ev.k ∧
      t.agent.forwardAcks = (if ack then s.agent.forwardAcks ++ [(c, n)] else s.agent.forwardAcks) ∧
      (∀ d, d ≠ c → t.core d = s.core d) ∧ Claim.sameMemory s t) ∧
  (∀ (s : State), let c := s.ev.core
    let n := s.ev.n
    s.ev.b = true → c < numCores → n < 2 ^ 32 → n / 2 ^ 24 ≠ s.pkg →
    ∃ t, exec .nameCacheUpdate s = .next t ∧
      t.core c = { s.core c with
        nameCache := ((n, 2 ^ 20 + s.ev.m % 2 ^ 20) :: (s.core c).nameCache.filter fun e => e.1 != n).take 32 } ∧
      (∀ d, d ≠ c → t.core d = s.core d) ∧ Claim.sameMemory s t) ∧
  (∀ (s : State) (q : NameReq) (i : Nat), s.agent.nameReqs[s.ev.k]? = some q → q.answer = none → q.ctx = some i →
    tabGet s.agent.named (32 * q.core + i) = some q.inc →
    (∀ e ∈ s.agent.names, e.2.owner = some (q.core, i, q.inc) → e.2.st = .exited ∨ e.2.st = .free) →
    exec .nameAllocation s = .next { s with agent := { s.agent with
      nameReqs := s.agent.nameReqs.set s.ev.k { q with answer := some none } } }) ∧
  (∀ (s : State) (q : NameReq), s.agent.nameReqs[s.ev.k]? = some q → q.answer = none →
    (∀ i, q.ctx = some i → (∀ e ∈ s.agent.names, e.2.owner ≠ some (q.core, i, q.inc)) ∧
      tabGet s.agent.named (32 * q.core + i) ≠ some q.inc) →
    let tn := (s.core q.core).tenant
    ∃ t, exec .nameAllocation s = .next t ∧ t.cores = s.cores ∧
      ((∀ r ∈ s.agent.ranges, r.tenant = tn → r.free = []) →
        t.agent.nameReqs = s.agent.nameReqs.set s.ev.k { q with answer := some none } ∧ t.agent.names = s.agent.names) ∧
      (∀ l r i f l', s.agent.ranges = l ++ r :: l' → r.tenant = tn → r.free = i :: f → (∀ p ∈ l, p.tenant = tn → p.free = []) →
        i < 65536 → s.pkg < 256 →
        let gen := (((tabGet s.agent.names i).map (·.gen)).getD 0 + 1) % 256
        let name := s.pkg * 2 ^ 24 + i * 2 ^ 8 + gen
        t.agent.nameReqs = s.agent.nameReqs.set s.ev.k { q with answer := some (some name) } ∧
        t.agent.ranges = l ++ { r with free := f } :: l' ∧
        t.nameEntry name = some { st := .live, gen := gen, core := q.core, lvl := q.urgent, tenant := tn
                                  owner := q.ctx.map fun i => (q.core, i, q.inc) }))

/-- R217, R219, R220: the answer to a `join` with operand zero gives its register the name, rank 0 and status 0, or status 1 where
there is none, and makes the context the one member of a new Skein; the answer to `jd.name` names the Skein, and its hart
goes on with the name in rd. -/
def Sys2Proof.Claim.NamesArrive : Prop :=
  ∀ (s : State) (q : NameReq) (a : Option Nat), let c := q.core
    let k := s.core c
    s.agent.nameReqs[s.ev.k]? = some q → q.answer = some a → (q.urgent = true ∨ k.level = .live) →
    (∀ i rd e, q.ctx = some i → k.table.find? (fun e => match e.ans with | .join j n _ => j == i && n == q.inc | _ => false) = some e →
      (∀ n, a = some n → (∃ g, s.nameEntry n = some g ∧ g.st ≠ .exited) ∧ ∀ r ∈ k.residents, r.name ≠ n) →
      e.ans = .join i q.inc rd → s.alive c i q.inc = true → (s.ctx c i).signed = none → (s.ctx c i).joined = false →
      ∃ t, exec .nameAnswer s = .next t ∧
        (a = none → (t.ctx c i).r = ((s.ctx c i).setV rd (packLanes 32 [0, 0, 1, 0])).r) ∧
        (∀ n, a = some n → (t.ctx c i).r = ((s.ctx c i).setV rd (packLanes 32 [n, 0, 0, 0])).r ∧ (t.ctx c i).skein = n ∧
          (t.ctx c i).rank = 0 ∧ (t.ctx c i).joined = true ∧
          (t.core c).residents = k.residents ++ [{ name := n, lvl := q.urgent, handle := none }]) ∧
        (t.core c).table = k.table.filter (fun f => f.id != e.id) ∧
        t.agent.nameReqs = s.agent.nameReqs.eraseIdx s.ev.k ∧
        (∀ j, j ≠ i → (t.ctx c j).r = (s.ctx c j).r) ∧ Claim.sameMemory s t) ∧
    (∀ g n sk, q.ctx = none → q.handle = some g → a = some n → k.handleOf q.urgent g = some sk →
      (s.hart c q.urgent).naming = true → (s.hart c q.urgent).jdieA = false → (s.hart c q.urgent).pendRd ≠ 0#5 →
      ∃ t, exec .nameAnswer s = .next t ∧ (t.core c).handleOf q.urgent g = some { sk with name := n } ∧
        (∀ i ∈ sk.members, i < 32 → (s.ctx c i).handle = some g → (s.ctx c i).st ≠ .free → (t.ctx c i).skein = n) ∧
        (t.core c).residents = k.residents ++ [{ name := n, lvl := q.urgent, handle := some g }] ∧
        (t.hart c q.urgent).get (s.hart c q.urgent).pendRd = BitVec.ofNat 64 n ∧ (t.hart c q.urgent).naming = false ∧
        (t.hart c q.urgent).pc = (s.hart c q.urgent).pc + 4#64 ∧ (∀ i, (t.ctx c i).r = (s.ctx c i).r) ∧ Claim.sameMemory s t)

/-- R209, R210: the Skimmer takes its oldest put: a box with room inserts the entry at its rank; a full box drops its last entry where
the put ranks above it, and the put where not, counts the drop, and sends a notice where the box asks for it and the entry names
a reply channel; a box that is not on drops the put (the model's choice, notes/assumptions/30.md). -/
def Sys2Proof.Claim.PutsAreRanked : Prop :=
  ∀ (s : State) (m : Msg) (box : Nat) (rest : List (Msg × Nat)), let c := s.ev.core
    let k := s.core c
    let p := ofBytes m.payload
    let e : SkEntry := { key := p % 2 ^ 32, tb := p / 2 ^ 32 % 2 ^ 32, value := p / 2 ^ 64 % 2 ^ 64, rcore := m.rcore, rchan := m.rchan
                         lvl := m.prio }
    let b := k.box box
    let full := { b with ndrop := min (b.ndrop + 1) (2 ^ 24 - 1) }
    let u (x : SkBox) : State := s.setCore c ({ k with puts := rest }.setBox box x)
    c < numCores → k.puts = (m, box) :: rest → k.notices < 64 → (∀ l, s.canSend c l true = true) →
    (b.entries.Pairwise fun f g => f.above g = true) →
    ∃ t, exec .skimmerPut s = .next t ∧
      (b.on = false → t = if b.dn = true ∧ m.rchan ≠ 0 then (u full).skNotice c box e 0 else u full) ∧
      (b.on = true → b.entries.length < b.depth → ∃ l r, b.entries = l ++ r ∧ (∀ f ∈ l, f.above e = true) ∧ (∀ f ∈ r, f.above e = false) ∧
        t = u { b with entries := l ++ e :: r }) ∧
      (∀ l d, b.on = true → b.depth ≤ b.entries.length → b.entries = l ++ [d] → e.above d = true →
        ∃ x y, l = x ++ y ∧ (∀ f ∈ x, f.above e = true) ∧ (∀ f ∈ y, f.above e = false) ∧
          t = (if b.dn = true ∧ d.rchan ≠ 0 then (u { full with entries := x ++ e :: y }).skNotice c box d 1
            else u { full with entries := x ++ e :: y })) ∧
      (∀ l d, b.on = true → b.depth ≤ b.entries.length → b.entries = l ++ [d] → e.above d = false →
        t = if b.dn = true ∧ m.rchan ≠ 0 then (u full).skNotice c box e 0 else u full)

/-- R345 to R347: a beat of the first deposit for a direction crosses the side link for a credit, and with its last beat the
neighbour holds the deposit on its opposite side; where a rotated operand waits for the link too, the two kinds alternate; at the
edge of a fenced rectangle the deposit is refused. -/
def Sys2Proof.Claim.SideLinksCarry : Prop :=
  ∀ (s : State) (d : Dir) (i : Nat) (m : Msg), let c := s.ev.core
    let n := neighbour c d
    let p := (s.core c).side
    let beats := (16 + 16 * m.plen + 63) / 64
    let edge := s.coreFenced c = true ∧ ∀ f, s.fenceOf c = some f → f.holds n = false
    s.ev.dir = d → n ≠ c → p.outbound[i]? = some (d, m) → (∀ j o, j < i → p.outbound[j]? = some o → o.1 ≠ d) →
    0 < p.credit d → p.credit d < 2 ^ 8 →
    (¬ edge → (∀ r ∈ s.rotated, r.hopAt c d = none) ∨ p.turnedAt d = true →
      ∃ t, exec .sideLinkBeat s = .next t ∧
        (t.core c).side.credit d = p.credit d - 1 ∧ (t.core c).side.turnedAt d = false ∧
        (p.sentAt d + 1 < beats → (t.core c).side.sentAt d = p.sentAt d + 1 ∧ (t.core c).side.outbound = p.outbound ∧
          t.core n = s.core n) ∧
        (beats ≤ p.sentAt d + 1 → (t.core c).side.sentAt d = 0 ∧ (t.core c).side.outbound = p.outbound.eraseIdx i ∧
          (t.core n).side.inbound = (s.core n).side.inbound ++ [(Dir.opposite d, m)]) ∧
        t.rotated = s.rotated ∧
        (∀ e i, t.ctx e i = s.ctx e i) ∧ (∀ e, e ≠ c → e ≠ n → t.core e = s.core e) ∧ Claim.sameMemory s t) ∧
    (∀ r h, ¬ edge → p.turnedAt d = false → s.rotated.findSome? (fun r => (r.hopAt c d).map fun h => (r, h)) = some (r, h) →
      ∃ t, exec .sideLinkBeat s = .next t ∧ (t.core c).side.turnedAt d = true ∧ (t.core c).side.outbound = p.outbound ∧
        t.rotated = (s.rotated.map fun q => if q == r then { r with crossed := r.crossed.set h (r.crossed.getD h 0 + 1) } else q) ∧
        (∀ e i, t.ctx e i = s.ctx e i) ∧ Claim.sameMemory s t) ∧
    (edge → ∃ u, exec .sideLinkBeat s = .next (u.fenceRefuse c m) ∧ (u.core c).side.outbound = p.outbound.eraseIdx i ∧
      (u.core c).side.sentAt d = 0 ∧ (∀ e i, u.ctx e i = s.ctx e i) ∧ (∀ e, e ≠ c → u.core e = s.core e) ∧ Claim.sameMemory s u)

/-! ### The Twister and the Carder as they run (R50, R296, R301, R304 to R311, R315 to R324, R329) -/

namespace Sys2Proof.Claim
open Sys2Proof.Machine

/-- The rational number that a finite value stands for. -/
def ratOf : FVal → Rat
  | .fin n m e _ => (if n then -1 else 1) * m * (2 : Rat) ^ e
  | _ => 0
/-- A finite value known exactly. -/
def exactFin (v : FVal) : Prop := ∃ n m e, v = .fin n m e false

end Sys2Proof.Claim

/-- R50, R301, R304 to R306: a matrix product of two scratchpad operands runs to its end: each element of C in the region of the
command gets the K-groups of its row of A and its row of B added, in order, to what the bank held, or to zero with ZF; every other
element and the other bank stay. For INT8 a group adds its four products to the .s32 accumulator with saturation. The completion
has status 0. -/
def Sys2Proof.Claim.MatrixProducts : Prop :=
  ∀ (s : State) (x : TwCmd), let c := s.ev.core
    let k := s.core c
    let h := twShape 0 x.rs2
    let src (isB : Bool) : LatchBuf := h.operand (h.side isB)
      (s.readAt (.spad c (bits (twSource x.rs1 isB) 18 0)) (h.size (h.side isB))) []
    let b := k.tw.bank h.back
    let groups (i j acc : Nat) : Nat := ((List.range (h.k / twGroup h.ty)).foldl
      (fun p g => twAdd h.ty (src false) (src true) h.k i j (g * twGroup h.ty) p.1 p.2) (acc, 0)).1
    k.tw.cmd = some x → x.f7 = 0 → k.tw.saving = none → (k.tw.ownerU = true ∨ k.level = .live) → s.anyPending c x.after = false →
    x.tiles = 0 → x.kpos = 0 → x.opA = none → x.opB = none → x.poison = false →
    srcKind (twSource x.rs1 false) = 0 → srcKind (twSource x.rs1 true) = 0 →
    k.tw.a.o ≠ .filling → k.tw.b.o ≠ .filling → k.spad.poison = [] → tabSorted b.acc = true →
    h.ty ≠ 7 → h.cnt = 0 → (twMx h.ty = true → h.k % 32 = 0) → 16 * h.rblk + h.m ≤ 128 → 16 * h.cblk + h.n ≤ 128 →
    ∃ (t u : State) (p : List Byte), exec .twisterCommandEnd s = .next t ∧ t = u.complete c k.tw.ownerU x.chan x.seq p ∧ p.take 3 = [0#8, 0#8, 0#8] ∧
      (t.core c).tw.cmd = none ∧
      (∀ i j, i < h.m → j < h.n →
        let key := 128 * (16 * h.rblk + i) + 16 * h.cblk + j
        zget ((t.core c).tw.bank h.back).acc key = groups i j (if h.zf then 0 else zget b.acc key)) ∧
      (∀ r q, q < 128 → (r < 16 * h.rblk ∨ 16 * h.rblk + h.m ≤ r ∨ q < 16 * h.cblk ∨ 16 * h.cblk + h.n ≤ q) →
        zget ((t.core c).tw.bank h.back).acc (128 * r + q) = zget b.acc (128 * r + q)) ∧
      (t.core c).tw.bank (!h.back) = k.tw.bank (!h.back) ∧
      (h.ty = 6 → ∀ i j g acc fl, (twAdd 6 (src false) (src true) h.k i j g acc fl).1 =
        trunc (satS (sext acc 32 + ((List.range 4).map fun q => sext (twCode 6 (src false) h.k i (g + q)) 8 *
          sext (twCode 6 (src true) h.k j (g + q)) 8).sum) 32) 32) ∧
      (∀ i, t.ctx c i = s.ctx c i) ∧ Claim.sameMemory s t

/-- R50, R47: a K-group of a floating-point product (2 positions of BF16 and FP16, 4 of FP8, a block of 32 of the MX types) adds the
products of its elements to the accumulator exactly, and rounds the sum once, to nearest even; a sum with a NaN, or with both
infinities, is NaN, one with infinities of one sign is that infinity, and one that is zero is negative only where every term is a
negative zero. The value of an MX element is that of its code times 2^(c - 127), and NaN where its scale code c is 255. That a NaN sum
raises NV for a quiet NaN too is the model's choice (notes/assumptions/25.md). -/
def Sys2Proof.Claim.KGroupsRoundOnce : Prop :=
  (∀ (ty : Nat) (a b : LatchBuf) (kk i j k0 acc fl : Nat), ty ≤ 5 →
    let size := if ty ≤ 1 then 2 else if ty = 4 ∨ ty = 5 then 32 else 4
    let ts := fval fmt32 acc :: (List.range size).map fun q => fmulX (twVal ty a kk i (k0 + q)) (twVal ty b kk j (k0 + q))
    ∃ x, twAdd ty a b kk i j k0 acc fl =
        ((fround fmt32 .rne false 0 x).1, fl ||| (if x = .nan then 16 else 0) ||| (fround fmt32 .rne false 0 x).2) ∧
      (x = .nan ↔ FVal.nan ∈ ts ∨ (FVal.inf true ∈ ts ∧ FVal.inf false ∈ ts)) ∧
      (∀ n, x = .inf n ↔ FVal.inf n ∈ ts ∧ FVal.inf (!n) ∉ ts ∧ FVal.nan ∉ ts) ∧
      ((∀ t ∈ ts, Claim.exactFin t) → Claim.exactFin x ∧ Claim.ratOf x = (ts.map Claim.ratOf).sum ∧
        (Claim.ratOf x = 0 → (x.neg = true ↔ ∀ t ∈ ts, t.neg = true ∧ Claim.ratOf t = 0)))) ∧
  (∀ p q, Claim.exactFin p → Claim.exactFin q → Claim.exactFin (fmulX p q) ∧ (fmulX p q).neg = (p.neg != q.neg) ∧
    Claim.ratOf (fmulX p q) = Claim.ratOf p * Claim.ratOf q) ∧
  (∀ (ty : Nat) (o : LatchBuf) (kk row k : Nat),
    let c := (o.scales.getD (row * (kk / 32) + k / 32) 0#8).toNat
    let v := fval (twFmt ty) (twCode ty o kk row k)
    (ty ≤ 3 → twVal ty o kk row k = v) ∧
    (ty = 4 ∨ ty = 5 → (c = 255 → twVal ty o kk row k = .nan) ∧
      (c ≠ 255 → Claim.exactFin v → Claim.ratOf (twVal ty o kk row k) = Claim.ratOf v * (2 : Rat) ^ ((c : Int) - 127))))

/-- R310, R311: an epilogue without parameters whose blocks pass their checksums writes every element of its region, activated and
converted, to its place in the scratchpad, and nothing else; one whose first row fails writes nothing, and completes with status 3
and the failing row and block. -/
def Sys2Proof.Claim.Epilogues : Prop :=
  ∀ (s : State) (x : TwCmd), let c := s.ev.core
    let k := s.core c
    let e := epiOf x.rs1 x.rs2
    let b := k.tw.bank e.back
    let val (i j : Nat) : Nat :=
      let code := zget b.acc (128 * (16 * e.rblk + i) + 16 * e.cblk + j)
      if setHas b.ints (8 * (16 * e.rblk + i) + e.cblk + j / 16) then (e.elem (.ofInt (sext code 32)) 0x3F800000 0).1
      else (e.elem (fval fmt32 code) 0x3F800000 0).1
    k.tw.cmd = some x → x.f7 = 4 → k.tw.saving = none → (k.tw.ownerU = true ∨ k.level = .live) → s.anyPending c x.after = false →
    e.par = false → e.n * e.osize ≤ e.pitch → k.spad.poison = [] → k.spad.wf = true → b.poison = [] →
    ∃ (t u : State) (p : List Byte), exec .twisterCommandEnd s = .next t ∧ t = u.complete c k.tw.ownerU x.chan x.seq p ∧ (t.core c).tw.cmd = none ∧
      (t.core c).tw.bank0 = k.tw.bank0 ∧ (t.core c).tw.bank1 = k.tw.bank1 ∧ (∀ i, t.ctx c i = s.ctx c i) ∧
      ((∀ i j, i < e.m → j < e.n / 16 → b.blockOk (16 * e.rblk + i) (e.cblk + j) = true) →
        p.take 3 = [0#8, 0#8, 4#8] ∧
        (∀ i j, i < e.m → j < e.n →
          t.readAt (.spad c (e.doff + e.pitch * i + e.osize * j)) e.osize = bytesOf (val i j) e.osize) ∧
        (∀ o, o < e.doff ∨ e.doff + e.pitch * (e.m - 1) + e.n * e.osize ≤ o →
          t.readAt (.spad c o) 1 = s.readAt (.spad c o) 1)) ∧
      (∀ j, j < e.n / 16 → b.blockOk (16 * e.rblk) (e.cblk + j) = false →
        (∀ q, q < j → b.blockOk (16 * e.rblk) (e.cblk + q) = true) →
        p.take 3 = [3#8, 0#8, 4#8] ∧ p.drop 24 = bytesOf (16 * e.rblk + 256 * (e.cblk + j)) 8 ∧ Claim.sameMemory s t)

/-- R307 to R309: a credit of the core downstream is recorded where that core is of the domain, its latch is FREE and nothing is on
its way to it; the first flit of a rotated operand makes a FREE latch FILLING, and the last one makes a latch that it fills FULL with
the operand; a flit that has not crossed its last link does nothing. -/
def Sys2Proof.Claim.LatchesRotate : Prop :=
  (∀ (s : State) (x : TwCmd), let c := s.ev.core
    let w := (s.core c).tw
    let down (isB : Bool) : Nat := twDown w.dom c isB
    let free (isB : Bool) : Prop := twSends x.f7 isB = true ∧ ((s.core (down isB)).tw.latch isB).o = .free ∧
      (s.core (down isB)).tw.dom = w.dom ∧ ∀ r ∈ s.rotated, r.dst = down isB → r.isB ≠ isB
    w.cmd = some x → w.dom ≠ 0 →
    ∃ t y, exec .latchCredit s = .next t ∧ t = s.setCore c { s.core c with tw := { w with cmd := some y } } ∧
      y = { x with credA := y.credA, credB := y.credB } ∧
      (free false → s.ev.dir = .west → y.credA = true) ∧
      (free true → s.ev.dir = (if domEast w.dom then Dir.west else .north) → y.credB = true) ∧
      (x.credA = true → y.credA = true) ∧ (x.credB = true → y.credB = true) ∧
      (¬ free false → y.credA = x.credA) ∧ (¬ free true → y.credB = x.credB)) ∧
  (∀ (s : State) (r : Rotated), let c := s.ev.core
    let l := (s.core c).tw.latch s.ev.b
    s.rotated.find? (fun r => r.dst == c && r.isB == s.ev.b) = some r →
    (r.reached r.crossed.length ≤ r.taken → exec .latchFlitArrival s = .next s) ∧
    (r.taken < r.reached r.crossed.length → ∃ t, exec .latchFlitArrival s = .next t ∧
      (r.taken + 1 < r.beats →
        t.rotated = (s.rotated.map fun q => if q == r then { r with taken := r.taken + 1 } else q) ∧
        (t.core c).tw.latch s.ev.b = if r.taken = 0 ∧ l.o = .free then { l with o := .filling } else l) ∧
      (r.beats ≤ r.taken + 1 → t.rotated = s.rotated.filter (fun q => q != r) ∧
        ((r.taken = 0 ∧ l.o = .free) ∨ (r.taken ≠ 0 ∧ l.o = .filling) →
          (t.core c).tw.latch s.ev.b = { l with o := .full, other := r.buf })) ∧
      (t.core c).tw.latch (!s.ev.b) = (s.core c).tw.latch (!s.ev.b) ∧
      (∀ i, t.ctx c i = s.ctx c i) ∧ (∀ d, d ≠ c → ∃ p, t.core d = { s.core d with side := p }) ∧ Claim.sameMemory s t))

/-- R296, R318, R321: the last word of a copy gathers the bytes of its elements from memory into the scratchpad, with zeros past the
end of the row; the last word of a put scatters them to memory; the last element of a fill gets the fill value. The command leaves
the Carder and completes. -/
def Sys2Proof.Claim.CarderMoves : Prop :=
  ∀ (s : State) (x : CdCmd), let c := s.ev.core
    let k := s.core c
    let n := x.pos / 16
    let row := n / x.wordsRow
    let slots := x.slots (n % x.wordsRow)
    let at_ (e : Nat) : Nat := x.place n + x.es * (e % (16 / x.es))
    s.cdPick c = some x → x.pos < x.stream → x.ended = none → x.deals = 0 → x.byMsg = false → x.flg = false → x.cnv = false →
    x.tagp = false → k.spad.wf = true → k.spad.poison = [] → x.place n % 16 = 0 →
    (x.op = 0 → x.pos + 16 = x.stream →
      (∀ e ∈ slots, e < x.rowLen → ∃ a l, x.elemAddr row e = some a ∧ s.cdLoc c x a x.esz .cread = .ok l ∧ l.isLocal = true ∧
        s.poisonedAt l x.esz = false) →
      ∃ (t u : State) (p : List Byte), exec .carderCommandEnd s = .next t ∧ t = u.complete c x.lvl x.chan x.seq p ∧
        (∀ e ∈ slots, ∀ a l, e < x.rowLen → x.elemAddr row e = some a → s.cdLoc c x a x.esz .cread = .ok l →
          t.readAt (.spad c (at_ e)) x.es = s.readAt l x.es) ∧
        (∀ e ∈ slots, x.rowLen ≤ e → t.readAt (.spad c (at_ e)) x.es = List.replicate x.es 0#8) ∧
        (∀ o, o < x.place n ∨ x.place n + 16 ≤ o → t.readAt (.spad c o) 1 = s.readAt (.spad c o) 1) ∧
        (t.core c).cdQueue x.lvl = (k.cdQueue x.lvl).filter (fun y => y.id != x.id) ∧ (∀ i, t.ctx c i = s.ctx c i)) ∧
    (x.op = 2 → x.pos + 16 = x.stream → s.mem.wf = true → s.mem.poison = [] →
      (∀ e ∈ slots, e < x.rowLen → ∃ a p, x.elemAddr row e = some a ∧ s.cdLoc c x a x.esz .cwrite = .ok (.pma p)) →
      (∀ e ∈ slots, ∀ f ∈ slots, ∀ a b p q, e ≠ f → e < x.rowLen → f < x.rowLen → x.elemAddr row e = some a → x.elemAddr row f = some b →
        s.cdLoc c x a x.esz .cwrite = .ok (.pma p) → s.cdLoc c x b x.esz .cwrite = .ok (.pma q) → p + x.esz ≤ q ∨ q + x.esz ≤ p) →
      ∃ (t u : State) (p : List Byte), exec .carderCommandEnd s = .next t ∧ t = u.complete c x.lvl x.chan x.seq p ∧
        (∀ e ∈ slots, ∀ a q, e < x.rowLen → x.elemAddr row e = some a → s.cdLoc c x a x.esz .cwrite = .ok (.pma q) →
          t.readAt (.pma q) x.esz = s.readAt (.spad c (at_ e)) x.esz) ∧
        (∀ q, (∀ e ∈ slots, ∀ a p, e < x.rowLen → x.elemAddr row e = some a → s.cdLoc c x a x.esz .cwrite = .ok (.pma p) →
          q < p ∨ p + x.esz ≤ q) → t.readAt (.pma q) 1 = s.readAt (.pma q) 1) ∧
        (t.core c).cdQueue x.lvl = (k.cdQueue x.lvl).filter (fun y => y.id != x.id) ∧ (∀ i, t.ctx c i = s.ctx c i)) ∧
    (x.op = 3 → x.pos + x.esz = x.stream → s.mem.wf = true → s.mem.poison = [] →
      ∀ a q, x.elemAddr (x.pos / x.esz / x.rowLen) (x.pos / x.esz % x.rowLen) = some a →
        s.cdLoc c x a x.esz .cwrite = .ok (.pma q) →
      ∃ (t u : State) (p : List Byte), exec .carderCommandEnd s = .next t ∧ t = u.complete c x.lvl x.chan x.seq p ∧
        t.readAt (.pma q) x.esz = bytesOf x.fillv x.esz ∧
        (∀ b, b < q ∨ q + x.esz ≤ b → t.readAt (.pma b) 1 = s.readAt (.pma b) 1) ∧
        (t.core c).cdQueue x.lvl = (k.cdQueue x.lvl).filter (fun y => y.id != x.id) ∧ (∀ i, t.ctx c i = s.ctx c i))

/-- R321, R324: the last block of a deal leaves for the core of its rank in the rectangle of the pattern word, row by row or column by
column, with the bytes of its elements and zeros past the end of each row, and with the offset at which it lands there; the command
then awaits one acknowledgement more. How many units run in one turn is the model's choice (notes/assumptions/39.md, 101.md). -/
def Sys2Proof.Claim.DealBlocksLeave : Prop :=
  ∀ (s : State) (x : CdCmd), let c := s.ev.core
    let k := s.core c
    let size := 16 * bits x.pattern 11 0
    let w := bits x.pattern 29 24 + 1
    let h := bits x.pattern 35 30 + 1
    let n := x.pos / size
    let m := n % (w * h)
    let count := (x.stream - x.pos) / 16
    let slots (j : Nat) := x.slots ((x.pos / 16 + j) % x.wordsRow)
    let addr (j e : Nat) := x.elemAddr ((x.pos / 16 + j) / x.wordsRow) e
    s.cdPick c = some x → x.op = 1 → 0 < size → x.pos % size = 0 → x.pos < x.stream → x.stream ≤ x.pos + size →
    x.pos % 4096 + (x.stream - x.pos) ≤ 4096 → x.ended = none → x.cnv = false → x.tagp = false →
    (∀ j e, j < count → e ∈ slots j → e < x.rowLen → ∃ a l, addr j e = some a ∧ s.cdLoc c x a x.esz .cread = .ok l ∧ l.isLocal = true ∧
      s.poisonedAt l x.esz = false) →
    ∃ t d, exec .carderCommandEnd s = .next t ∧ t.deals = s.deals ++ [d] ∧ d.src = c ∧ d.lvl = x.lvl ∧ d.cmd = x.id ∧
      d.dst = (if x.pattern.testBit 36 then (bits x.pattern 23 18 + m % h) * 48 + bits x.pattern 17 12 + m / h
        else (bits x.pattern 23 18 + m / w) * 48 + bits x.pattern 17 12 + m % w) ∧
      d.off = x.off + n / (w * h) * size ∧ d.words.length = count ∧
      (∀ j u e, d.words[j]? = some u → e ∈ slots j →
        let got := (u.bytes.drop (x.es * (e % (16 / x.es)))).take x.es
        (∀ a l, e < x.rowLen → addr j e = some a → s.cdLoc c x a x.esz .cread = .ok l → got = (s.readAt l x.es).map some) ∧
        (x.rowLen ≤ e → got = List.replicate x.es (some 0#8))) ∧
      (t.core c).cdQueue x.lvl = (k.cdQueue x.lvl).map (fun y => if y.id = x.id then
        { x with missVa := none, pos := x.stream, deals := x.deals + 1, ended := some (0, 0) } else y) ∧
      (∀ i, t.ctx c i = s.ctx c i) ∧ Claim.sameMemory s t

/-- R36, R323: cdr.cvt packs 32 BF16 elements as R36 does and writes the codes of the block, one a byte of MXFP8 and two a byte of
MXFP4, the lower element in the lower half; the last word of its stream gets the scale codes of the blocks, in order, with zeros past
the last, and the command completes. -/
def Sys2Proof.Claim.CarderPacks : Prop :=
  ∀ (s : State) (x : CdCmd), let c := s.ev.core
    let data := x.blocks * x.blkBytes
    let b := x.pos / x.blkBytes
    let perRow := x.w 0 / 32
    let at_ := x.off + x.pos
    s.cdPick c = some x → x.op = 4 → x.trn = false → x.ended = none → x.deals = 0 → x.byMsg = false → x.esz = 2 →
    (s.core c).spad.wf = true → (s.core c).spad.poison = [] → x.off % 16 = 0 →
    (x.pos % x.blkBytes = 0 → x.pos + x.blkBytes = data →
      ∀ vals : List Nat, vals.length = 32 →
      (∀ i v, vals[i]? = some v → ∃ a l, x.elemAddr (b / perRow) (b % perRow * 32 + i) = some a ∧
        s.cdLoc c x a 2 .cread = .ok l ∧ l.isLocal = true ∧ s.poisonedAt l 2 = false ∧ ofBytes (s.readAt l 2) = v) →
      let p := packMx (if x.ctype = 0xE then fmtE2m1 else fmtE4m3) (vals.map (fval fmtB16)) (vals.any fmtB16.isSnan)
      ∃ t, exec .carderCommandEnd s = .next t ∧
        (x.ctype ≠ 0xE → ∀ i, i < 32 → t.readAt (.spad c (at_ + i)) 1 = [BitVec.ofNat 8 (p.2.1.getD i 0)]) ∧
        (x.ctype = 0xE → ∀ i, i < 16 → t.readAt (.spad c (at_ + i)) 1 =
          [BitVec.ofNat 8 (p.2.1.getD (2 * i) 0 + 16 * p.2.1.getD (2 * i + 1) 0)]) ∧
        (∀ o, o < at_ ∨ x.off + x.stream ≤ o → t.readAt (.spad c o) 1 = s.readAt (.spad c o) 1) ∧ (∀ i, t.ctx c i = s.ctx c i)) ∧
    (data ≤ x.pos → x.pos + 16 = x.stream →
      ∀ code : Nat → Nat, (∀ j, x.pos - data + j < x.blocks → tabGet x.scales (x.pos - data + j) = some (code j) ∧ code j < 256) →
      ∃ (t u : State) (p : List Byte), exec .carderCommandEnd s = .next t ∧ t = u.complete c x.lvl x.chan x.seq p ∧
        (∀ j, j < 16 → t.readAt (.spad c (at_ + j)) 1 = [BitVec.ofNat 8 (if x.pos - data + j < x.blocks then code j else 0)]) ∧
        (∀ o, o < at_ ∨ at_ + 16 ≤ o → t.readAt (.spad c o) 1 = s.readAt (.spad c o) 1) ∧ (∀ i, t.ctx c i = s.ctx c i))

/-- R329, R317: a command message of 144 bytes whose record breaks no rule, and whose root admits its footprint, joins the queue of
its channel's level, with the sender, reply channel and sequence number of the message; one that breaks a rule is answered with
status 6 and the place of the field, and joins no queue. -/
def Sys2Proof.Claim.CarderMessages : Prop :=
  ∀ (s : State) (q : QName) (m : Msg), let c := s.ev.core
    let k := s.core c
    let e := k.entry m.chan
    let rec_ := Claim.word m 0 128
    let x := { cdOfRecord (Claim.word m 128 1) rec_ (entLvl e) with byMsg := true, rcore := m.rcore, rchan := m.rchan, seq := m.seq }
    c < numCores → k.nextHead = some (q, m) → entTarget e = 4 → k.isFaultAnswer m = false → m.plen = 9 →
    Claim.word m 128 1 ≤ 4 → Claim.word m 129 15 = 0 → m.flag flagPoison = false →
    ∃ t, exec .carderCommandMessage s = .next t ∧ (∀ i, t.ctx c i = s.ctx c i) ∧
      (x.layoutBad k c (x.chan == 0) 0 = none → (x.footprint = none → entRT e = true) → x.capBad k c (entRoot e) (entRT e) = none →
        ∃ id, (t.core c).cdQueue (entLvl e) = k.cdQueue (entLvl e) ++ [{ x with id := id }]) ∧
      (∀ i, x.layoutBad k c (x.chan == 0) 0 = some i →
        (t.core c).cdQueue (entLvl e) = k.cdQueue (entLvl e) ∧
        (m.rchan ≠ 0 → ∃ (u : State) (r : Msg), t = u.post c r ∧ r.answer = true ∧ r.chan = m.rchan ∧ r.dest = m.rcore ∧
          r.seq = m.seq ∧ r.payload.take 1 = [6#8] ∧ r.payload.drop 24 = bytesOf i 8))

/-- R324: a deal block that reaches a core of its tenant that is not fenced, and whose level is LIVE there, puts its whole words into
the scratchpad at its offset, and lowers what its command awaits; at a fenced core it writes nothing, and its command ends with
status 2 at the address where it would have landed. -/
def Sys2Proof.Claim.DealBlocksLand : Prop :=
  ∀ (s : State) (d : Deal) (x : CdCmd),
    s.deals[s.ev.k]? = some d → (d.lvl = true ∨ (s.core d.dst).level = .live) → (s.core d.dst).spad.wf = true → d.off % 16 = 0 →
    (s.core d.src).cdQueue d.lvl = [x] → x.id = d.cmd → x.ended = none → d.src ≠ d.dst →
    (∀ w ∈ d.words, w.bytes.length = 16 ∧ ∀ b ∈ w.bytes, b ≠ none) →
    ∃ t, exec .dealBlockArrival s = .next t ∧ t.deals = s.deals.eraseIdx s.ev.k ∧
      (s.dealFenced d = false →
        (∀ j w, d.words[j]? = some w → t.readAt (.spad d.dst (d.off + 16 * j)) 16 = w.bytes.map fun b => b.getD 0#8) ∧
        (∀ o, (o < d.off ∨ d.off + 16 * d.words.length ≤ o) → t.readAt (.spad d.dst o) 1 = s.readAt (.spad d.dst o) 1) ∧
        (t.core d.src).cdQueue d.lvl = [{ x with deals := x.deals - 1 }]) ∧
      (s.dealFenced d = true → Claim.sameMemory s t ∧
        (t.core d.src).cdQueue d.lvl = [{ x with deals := x.deals - 1, ended := some (2, spadBase + d.off) }])

/-! ### Commands of the host and kernels (R232 to R253, R384 to R386) -/

namespace Sys2Proof.Claim
open Sys2Proof.Machine

/-- R386, R387: the op of a host command's row, the offset and value of its action, and the ranges of bytes that its payload names. -/
def hostRow : Instr → Option (Nat × Option (Nat × Nat) × List (Nat × Nat))
  | .launch => some (1, none, [(0, 8)])
  | .mapSetRoot => some (2, some (2, 0), [(0, 3), (16, 32)])
  | .mapInstallLeaf => some (2, some (2, 1), [(0, 3), (8, 32)])
  | .mapRemoveLeaf => some (2, some (2, 2), [(0, 3), (8, 8), (32, 8)])
  | .mapSetFirmwareRegion => some (2, some (2, 3), [(0, 3), (8, 16)])
  | .mapAddRetirementFrame => some (2, some (2, 4), [(0, 3), (8, 9)])
  | .migrate => some (3, none, [(0, 2), (8, 16)])
  | .fenceRectCreate => some (4, some (0, 0), [(0, 7)])
  | .fenceRectSeal => some (4, some (0, 1), [(0, 7)])
  | .fenceRectUnseal => some (4, some (0, 2), [(0, 7)])
  | .fenceRectRemove => some (4, some (0, 3), [(0, 7)])
  | .resetRect => some (5, none, [(1, 1)])
  | .keyLoadMemory => some (6, some (0, 0), [(0, 6), (8, 10)])
  | .keyLoadLink => some (6, some (0, 1), [(0, 6), (8, 10)])
  | .attest => some (7, none, [(0, 40)])
  | .spareSwap => some (8, none, [(0, 3)])
  | .telemetryErrorCounts => some (9, some (0, 0), [(0, 2), (8, 12)])
  | .telemetryHotness => some (9, some (0, 1), [(0, 4), (8, 12)])
  | .telemetryClusterRows => some (9, some (0, 2), [(0, 2), (8, 12)])
  | .telemetryRails => some (9, some (0, 3), [(0, 2), (8, 12)])
  | .nameRange => some (0xA, none, [(0, 6)])
  | .podConfigSetPackage => some (0xB, some (0, 0), [(0, 2)])
  | .podConfigRoutingEntry => some (0xB, some (0, 1), [(0, 2), (8, 8)])
  | .podConfigActivate => some (0xB, some (0, 2), [(0, 1)])
  | .podConfigMarkPackage => some (0xB, some (0, 3), [(0, 4)])
  | .podConfigPort => some (0xB, some (0, 4), [(0, 3)])
  | _ => none

/-- R384: the command of slot i, with header h and payload p, is the one that the firmware takes next, and it is one of a row. -/
def offered (s : State) (ins : Instr) (i h : Nat) (p : List Byte) : Prop :=
  let d := s.agent.cmdSlots.toList.getD i []
  i < 32 ∧ i = s.agent.nextSlot ∧ s.agent.cmd = none ∧ d.length = 64 ∧ h = ofBytes (d.take 16) ∧ p = d.drop 16 ∧ h.testBit 64 = true ∧
  (ofBytes ((s.agent.replySlots.toList.getD i []).take 16)).testBit 64 = false ∧ h / 2 ^ 16 % 256 ≤ 48 ∧
  ∃ op sel named, hostRow ins = some (op, sel, named) ∧ h % 256 = op ∧ ∀ o v, sel = some (o, v) → cmdNum p o 1 = v

/-- R385: an offered command whose reserved fields, and bytes that nothing names, are zero. -/
def wellFormed (ins : Instr) (h : Nat) (p : List Byte) : Prop :=
  cmdBad h p = false ∧ ∀ op sel named, hostRow ins = some (op, sel, named) → cmdSpare named p = false

/-- R384: the command of slot i has been taken. -/
def tookSlot (s t : State) (i : Nat) : Prop :=
  t.agent.nextSlot = (i + 1) % 32 ∧ (ofBytes ((t.agent.cmdSlots.toList.getD i []).take 16)).testBit 64 = false ∧
  (∀ j, j ≠ i → t.agent.cmdSlots.toList.getD j [] = s.agent.cmdSlots.toList.getD j [])

/-- R385: no command is being carried out, and reply slot i holds the op, the tag, a status and result bytes, with V set; the vector
that the header names is raised where it asks. -/
def shows (t : State) (i h st : Nat) (res : List Byte) : Prop :=
  let d := t.agent.replySlots.toList.getD i []
  t.agent.cmd = none ∧ d.length = 64 ∧
  ofBytes (d.take 16) = h % 256 + res.length * 2 ^ 16 + st * 2 ^ 24 + h / 2 ^ 32 % 2 ^ 32 * 2 ^ 32 + 2 ^ 64 ∧
  (d.drop 16).take res.length = res ∧ (h.testBit 71 = true → h / 2 ^ 72 % 256 < 64 → t.msix.head? = some (h / 2 ^ 72 % 256))

/-- R384, R385: the command of slot i has been taken and replied to. -/
def replied (s t : State) (i h st : Nat) (res : List Byte) : Prop := tookSlot s t i ∧ shows t i h st res

/-- The command of slot i has been taken and is being carried out. -/
def runs (s t : State) (i h : Nat) (p : List Byte) : Prop :=
  tookSlot s t i ∧ ∃ c, t.agent.cmd = some c ∧ c.slot = i ∧ c.header = h ∧ c.payload = p

/-- R235, R252: a kernel has ended or failed with a status and a placement. Where it holds cores its release comes next; where it holds
none, and this package is its home, the completion record in host memory says so at once (notes/assumptions/110.md). -/
def kernelOver (s t : State) (k : Kernel) (status place : Nat) : Prop :=
  (∃ q, t.kernel k.kid = some q ∧ q.st = (if status = 0 then .ended else .failed) ∧ q.status = status ∧ q.badPlace = place) ∧
  (k.cores = [] → k.guest = false → s.host.wf = true → s.host.poison = [] →
    t.host.read (k.recN 56 8) 6 = bytesOf k.kid 4 ++ bytesOf status 1 ++ bytesOf place 1) ∧
  (k.cores ≠ [] → t.turns.head? = some (.release k.kid))

end Sys2Proof.Claim

/-- R385: a command with a reserved field or a byte set that nothing names is replied to with BADCMD, and does nothing. -/
def Sys2Proof.Claim.MalformedCommands : Prop :=
  ∀ (ins : Instr) (s : State) (i h : Nat) (p : List Byte), Claim.offered s ins i h p → ¬ Claim.wellFormed ins h p →
    ∃ t, exec ins s = .next t ∧ Claim.replied s t i h 1 [] ∧ t.cores = s.cores ∧ t.mem = s.mem ∧ t.host = s.host ∧ t.pod = s.pod

/-- R233 to R235, R386: LAUNCH copies the record from host memory and replies with the identifier of its kernel, which is in
CHECKING and which an ended kernel gives up; an address that is not a multiple of 64 is refused. -/
def Sys2Proof.Claim.LaunchReadsRecords : Prop :=
  ∀ (s : State) (i h : Nat) (p : List Byte), Claim.offered s .launch i h p → Claim.wellFormed .launch h p →
    let a := cmdNum p 0 8
    ∃ t, exec .launch s = .next t ∧ t.cores = s.cores ∧ Claim.sameMemory s t ∧
      (a % 64 = 0 →
        let kid := s.pkg * 2 ^ 24 + (s.agent.launches + 1) % 2 ^ 24
        Claim.replied s t i h 0 (bytesOf kid 4) ∧
        ∃ k, t.agent.kernels = s.agent.kernels.map (fun j => if j.isOver = true ∧ j.kid = kid then { j with kid := 2 ^ 32 } else j) ++ [k] ∧
          k.guest = false ∧ k.st = .checking ∧ k.kid = kid ∧ k.record = s.host.read a 256 ∧ k.cores = [] ∧ k.argsBad = s.host.poisoned 64 (a + 136) 56) ∧
      (a % 64 ≠ 0 → Claim.replied s t i h 2 [] ∧ t.agent.kernels = s.agent.kernels)

/-- R235 to R237: in the order of arrival, a kernel whose record or image breaks a rule fails with status 1 or 2; one that checks is BLOCKED with its image
and hash. It goes on to PLACING when no prerequisite runs, and fails with status 5 where one has failed and the record says so. -/
def Sys2Proof.Claim.KernelsAreChecked : Prop :=
  (∀ (s : State) (k : Kernel), s.kernel s.ev.k = some k → k.st = .checking →
    let n := k.recN 8 8
    let image := s.readShared k.tenant k.linkBase n (n / 65536 + 2)
    ((∃ j ∈ s.earlier k, j.st = .checking) → exec .launchCheck s = .next s) ∧ ((∀ j ∈ s.earlier k, j.st ≠ .checking) →
    ∃ t, exec .launchCheck s = .next t ∧
      (k.badRecord = true → Claim.kernelOver s t k 1 0xFF) ∧
      (k.badRecord = false → (image = none ∨ ∃ d, image = some d ∧ ({ k with image := d } : Kernel).badImage = true) →
        Claim.kernelOver s t k 2 0xFF) ∧
      (∀ d, k.badRecord = false → image = some d → ({ k with image := d } : Kernel).badImage = false →
        ∃ q, t.kernel k.kid = some q ∧ q.st = .blocked ∧ q.image = d ∧ q.record = k.record ∧ q.hash = sm3 d ∧ t.cores = s.cores))) ∧
  (∀ (s : State) (k : Kernel), s.kernel s.ev.k = some k → k.st = .blocked →
    let fails := (k.recN 35 1).testBit 1 = true ∧ ∃ q ∈ k.prereqs, (q, true) ∈ s.agent.outcomes
    ∃ t, exec .prerequisitesEnded s = .next t ∧
      (fails → Claim.kernelOver s t k 5 0xFF) ∧
      (¬ fails → (∀ q ∈ k.prereqs, ∀ j ∈ s.agent.kernels, j.kid = q → j.st = .ended ∨ j.st = .failed ∨ j.guest = true) →
        ∃ q, t.kernel k.kid = some q ∧ q.st = .placing ∧ q.places = k.placesOf ∧ t.cores = s.cores) ∧
      (¬ fails → (∃ q ∈ k.prereqs, ∃ j ∈ s.agent.kernels, j.kid = q ∧ j.st ≠ .ended ∧ j.st ≠ .failed ∧ j.guest = false) → t = s))

/-- R237 to R243: a kernel that may place, whose cores are free for it, whose areas can be allocated, and whose placements on other
packages are reported loaded, is LOADING, or RUNNING where another package is its home: each core gets its identity, its harts of the kernel's levels STARTABLE at the entry point, its handlers
without reserved bits and with W clear, and a scratchpad zeroed over the footprint;
a placement that does not hold, or an area that does not fit, fails the kernel; so does a package that reports it to the kernel in
PLACING. A home agent of another package places kernels of its own here. -/
def Sys2Proof.Claim.KernelsArePlaced : Prop :=
  (∀ (s : State) (k : Kernel), s.kernel s.ev.k = some k → s.mayPlace k = true →
    ∃ t, exec .placementReady s = .next t ∧
      (∀ st i, s.badPlaces k = some (st, i) → Claim.kernelOver s t k st i) ∧
      (s.badPlaces k = none → k.othersLoaded s.pkg = false → t = s) ∧
      (s.badPlaces k = none → k.othersLoaded s.pkg = true → (∀ c ∈ s.cellsOf k, s.takes k c = true) →
        s.allocCores k [] (s.cellsOf k) = none → Claim.kernelOver s t k 6 0xFF) ∧
      (s.badPlaces k = none → k.othersLoaded s.pkg = true → (∀ c ∈ s.cellsOf k, s.takes k c = true) →
        s.allocCores k [] (s.cellsOf k) ≠ none →
        (∃ q, t.kernel k.kid = some q ∧ q.st = (if k.guest then .running else .loading) ∧ q.cores = s.cellsOf k) ∧
        (∀ c ∈ s.cellsOf k,
          let x := t.core c
          x.footprint = k.footprint ∧ (∀ o, o < k.footprint → t.readAt (.spad c o) 1 = [0#8]) ∧
          (∀ ch e, ch < 1024 → k.handlers.find? (fun h => h.1 == ch) = some (ch, e) → x.entry ch = entImage e) ∧
          ∃ p ∈ k.placesOf, p.pkg = s.pkg ∧ c ∈ p.cells ∧ ∀ u, k.holds u = true →
            (x.ident u).kernel = some k.kid ∧ (x.ident u).kern = k.kid ∧ (x.ident u).x = coreX c - p.x0 ∧
            (x.ident u).y = coreY c - p.y0 ∧ (x.ident u).w = p.w ∧ (x.ident u).h = p.h ∧
            (x.hart u).st = .startable ∧ (x.hart u).pc = BitVec.ofNat 64 (k.linkBase + k.imgN 24 8)) ∧
        (∀ d, d ∉ s.cellsOf k → t.core d = s.core d))) ∧
  (∀ (s : State) (k : Kernel) (p : Place), s.kernel s.ev.k = some k → k.st = .placing → k.guest = false → k.places[s.ev.n]? = some p → p.pkg ≠ s.pkg →
    p.report = none → s.ev.b = false →
    ∃ t, exec .placementReport s = .next t ∧
      (s.ev.m = 0 → ∃ q, t.kernel k.kid = some q ∧ q.places = k.places.set s.ev.n { p with report := some 0 } ∧ q.st = .placing ∧
        t.cores = s.cores) ∧
      (s.ev.m = 3 ∨ s.ev.m = 4 ∨ s.ev.m = 6 → Claim.kernelOver s t k s.ev.m s.ev.n)) ∧
  (∀ (s : State), let d := s.ev.data
    let k : Kernel := { kid := s.ev.k, guest := true, st := .placing, record := d.take 256, image := d.drop 256, arrivedAt := s.agent.counter }
    s.ev.b = true → s.ev.m = 0 → s.ev.k / 2 ^ 24 ≠ s.pkg → s.ev.k < 2 ^ 32 → (∀ j ∈ s.agent.kernels, j.kid ≠ s.ev.k) →
    k.badRecord = false → k.badImage = false →
    ∃ t, exec .placementReport s = .next t ∧ t.agent.kernels = s.agent.kernels ++ [{ k with places := k.placesOf }] ∧ t.cores = s.cores ∧ Claim.sameMemory s t)

/-- R175, R235, R242, R370: when every placement is loaded the kernel runs, and a start message on channel 0 goes to each core, poisoned
where its argument bytes were; its acceptance settles it, a bounced one is sent again 4,096 cycles later, another refusal fails the
kernel with status 3, once it is RUNNING; a request to the agent is refused with NOCORE. -/
def Sys2Proof.Claim.KernelsStart : Prop :=
  (∀ (s : State) (k : Kernel), s.kernel s.ev.k = some k → k.st = .loading → (∀ p ∈ k.places, p.report = some 0) →
    let cores := k.places.flatMap fun p => p.cells.map (p.pkg * 4096 + ·)
    ∃ t q, exec .setupComplete s = .next t ∧ t.kernel k.kid = some q ∧ q.st = .running ∧
      q.starts.map (·.core) = k.starts.map (·.core) ++ cores ∧ (k.sent < 2 ^ 64 → q.sent = (k.sent + cores.length) % 2 ^ 64) ∧
      (∀ p c, k.places = [p] → p.cells = [c] → p.pkg = s.pkg → s.pkg < 256 → c < numCores →
        ∃ (u : State) (m : Msg), t = u.inject (coreX c) 0 (coreEndpoint c) m 3 ∧ m.chan = 0 ∧ m.plen = 4 ∧ m.answer = false ∧
          m.prio = k.startLevel ∧ m.tenant = k.tenant ∧ m.dest = s.pkg * 4096 + c ∧
          m.payload = bytesOf k.kid 4 ++ [0#8, 0#8, 0#8, 0#8] ++ (k.record.drop 136).take 56 ∧ m.flag flagPoison = k.argsBad)) ∧
  (∀ (s : State) (m : Msg), s.agent.inbox[s.ev.k]? = some m → m.flag flagOrdered = false →
    let u : State := { s with agent := { s.agent with inbox := s.agent.inbox.eraseIdx s.ev.k } }
    ∃ t, exec .startAnswer s = .next t ∧
      (m.answer = false →
        t = u.postFrom (coreX (m.rcore % 4096 % numCores)) 0 (Msg.refusal (s.pkg * 4096 + (if m.dest % 4096 = 0xFFF then 0xFFF else 0xFFE)) 6 m)) ∧
      (∀ k, m.answer = true → m.dest % 4096 = 0xFFF → s.agent.kernels.find? (fun k => k.starts.any fun t => t.seq == m.seq && t.bounced.isNone) = some k →
        s.kernel k.kid = some k →
        (m.flag flagNack = false → ∃ q, t.kernel k.kid = some q ∧ q.st = k.st ∧
          q.starts = k.starts.filter fun t => t.seq != m.seq || t.bounced.isSome) ∧
        (m.flag flagNack = true → m.rchan = 5 → ∃ q, t.kernel k.kid = some q ∧ q.st = k.st ∧ q.recv = (k.recv + 1) % 2 ^ 64 ∧
          q.starts = k.starts.map fun t => if t.seq = m.seq then { t with bounced := some s.agent.counter } else t) ∧
        (m.flag flagNack = true → m.rchan ≠ 5 → k.st = .preempted → t = s) ∧
        (∀ p, m.flag flagNack = true → m.rchan ≠ 5 → k.isOver = false → k.st ≠ .preempted → k.starts.find? (fun t => t.seq == m.seq) = some p →
          Claim.kernelOver s t k 3 p.place))) ∧
  (∀ (s : State) (k : Kernel) (p : Start) (b : Nat), s.agent.kernels = [k] → k.starts = [p] → p.bounced = some b →
    b + 4096 ≤ s.agent.counter → s.ev.k = 0 →
    ∃ t q, exec .startResend s = .next t ∧ t.agent.kernels = [q] ∧
      q.starts = [{ core := p.core, place := p.place, seq := s.agent.seq, bounced := none }] ∧ q.sent = (k.sent + 1) % 2 ^ 64)

/-- R249, R250: a sweep reads the counters and idle states of cores, one after another; the sweep that has read every core of a
kernel of this package alone ends it where every core was idle, all that was sent has been received, and the sweep before gave the
same, and leaves the cores as they are; else its figures are kept. For the kernel of another home agent the agent sums its own
cores and keeps the figures. -/
def Sys2Proof.Claim.SweepsEndKernels : Prop :=
  ∀ (s : State) (k : Kernel) (n : Nat) (r : SweepRes), s.kernel s.ev.k = some k → k.st = .running → k.part = some (n, r) →
    n ≤ k.cores.length → (k.guest = true ∨ ∀ p ∈ k.places, p.pkg = s.pkg) →
    ∃ t m, exec .sweep s = .next t ∧ n + m ≤ k.cores.length ∧
      let y := ((k.cores.drop n).take m).foldl (s.sweepCore k) r
      (n + m < k.cores.length → ∃ q, t.kernel k.kid = some q ∧ q.part = some (n + m, y) ∧ q.st = .running ∧ t.cores = s.cores) ∧
      (n + m = k.cores.length → k.guest = true → ∃ q, t.kernel k.kid = some q ∧ q.part = none ∧ q.last = some y ∧
        q.sweeps = k.sweeps + 1 ∧ q.st = .running ∧ t.cores = s.cores) ∧
      (n + m = k.cores.length → k.guest = false → y.idle = true → y.sent = y.recv → k.prev = some y →
        Claim.kernelOver s t k 0 0xFF ∧ t.cores = s.cores) ∧
      (n + m = k.cores.length → k.guest = false → ¬ (y.idle = true ∧ y.sent = y.recv ∧ k.prev = some y) →
        ∃ q, t.kernel k.kid = some q ∧ q.part = none ∧ q.prev = some y ∧ q.last = some y ∧ q.sweeps = k.sweeps + 1 ∧
          q.lastSweep = s.agent.counter ∧ q.st = .running ∧ t.cores = s.cores)

/-- R42, R181, R251, R252, R392: the release of a kernel that is over, in the turn after its end (notes/assumptions/110.md): on each of
its cores the levels that it held are released (their contexts FREE with their incarnations and the flags that they raised, their
harts FREE, their handler entries zero, their counters 0), and the scratchpad is zero below the footprint where no other kernel uses
the core; its areas are returned, and its completion record is in host memory. On a core whose normal level is SAVED the rings are
those of the kernel that is saved there. -/
def Sys2Proof.Claim.KernelsAreReleased : Prop :=
  (∀ (s : State) (k : Kernel), s.kernel k.kid = some k → k.isOver = true → k.cores.Nodup →
    (∀ c ∈ k.cores, c < numCores ∧ (s.core c).level = .live ∧ (s.core c).inbox.late = [] ∧ (∀ u, ((s.core c).ident u).kernel = none ∨ ((s.core c).ident u).kernel = some k.kid) ∧
      ∃ u, ((s.core c).ident u).kernel = some k.kid) →
    ∃ t q, stepTurn (.release k.kid) s = .next t ∧ t.kernel k.kid = some q ∧ q.st = k.st ∧ q.status = k.status ∧ q.cores = [] ∧ q.areas = [] ∧
      (∀ c ∈ k.cores,
        let x := t.core c
        x.idU.kernel = none ∧ x.idN.kernel = none ∧ x.shape = [] ∧ (∀ h, x.hank h = 0) ∧ (∀ b, x.box b = {}) ∧
        (∀ o, o < k.footprint → t.readAt (.spad c o) 1 = [0#8]) ∧
        (∀ u, ((s.core c).ident u).kernel = some k.kid →
          (x.hart u).st = .free ∧ (∀ ch, entLvl ((s.core c).entry ch) = u → x.entry ch = 0) ∧
          (if u then x.sentU = 0 ∧ x.recvU = 0 else x.sentN = 0 ∧ x.recvN = 0) ∧
          ∀ i, i < 32 → (s.ctx c i).st ≠ .free → (s.ctx c i).lvl = u →
            t.ctx c i = { ({} : Ctx) with inc := (s.ctx c i).inc, r := { ({} : FibreRegs) with flags := (s.ctx c i).r.flags } })) ∧
      (∀ d, d ∉ k.cores → t.core d = s.core d) ∧
      (k.guest = false → s.host.wf = true → s.host.poison = [] →
        t.host.read (k.recN 56 8) 6 = bytesOf k.kid 4 ++ bytesOf k.status 1 ++ bytesOf k.badPlace 1)) ∧
  (∀ (s : State) (k j : Kernel) (c : Nat), s.kernel k.kid = some k → k.isOver = true → k.cores = [c] → c < numCores →
    (s.core c).level = .saved → (s.core c).idU.kernel = some k.kid → (s.core c).idN.kernel = some j.kid → s.kernel j.kid = some j → j.kid ≠ k.kid →
    ∃ t, stepTurn (.release k.kid) s = .next t ∧ (t.core c).idU.kernel = none ∧ (t.core c).idN = (s.core c).idN ∧
      (t.core c).level = .saved ∧ (t.core c).saved = (s.core c).saved ∧ (t.core c).suSize = j.su ∧ (t.core c).snSize = j.sn ∧
      (j.su + j.sn = 0 → (t.core c).overflow = none))

/-! ### What the firmware does for the host (R333, R338 to R341, R358 to R368, R376 to R391, R413) -/

/-- R332, R333, R386: MAP action 0 sets the root of a tenant, whose epoch stays; action 3 sets the firmware region; action 4 adds a frame
to the pool. A root, region or frame out of range is refused with BADARG. -/
def Sys2Proof.Claim.RootsAndRegions : Prop :=
  ∀ (s : State) (i h : Nat) (p : List Byte),
    (Claim.offered s .mapSetRoot i h p → Claim.wellFormed .mapSetRoot h p →
      let n := cmdNum p 0 2
      let r := cmdNum p 16 32
      bits r 159 154 = 0 → bits r 146 138 = 0 → bits r 127 124 = 0 → bits r 31 2 = 0 →
      ∃ t, exec .mapSetRoot s = .next t ∧ t.cores = s.cores ∧ Claim.sameMemory s t ∧
        (n ≤ 1022 → bits r 137 128 = n → rootBad r = false → Claim.replied s t i h 0 [] ∧
          ∃ q, tabGet t.agent.roots n = some q ∧ rootEpoch q = ((tabGet s.agent.roots n).map rootEpoch).getD 0 ∧
            ∀ b, b < 32 ∨ 64 ≤ b → q.testBit b = r.testBit b) ∧
        (1022 < n ∨ bits r 137 128 ≠ n ∨ rootBad r = true → Claim.replied s t i h 2 [] ∧ t.agent.roots = s.agent.roots)) ∧
    (Claim.offered s .mapSetFirmwareRegion i h p → Claim.wellFormed .mapSetFirmwareRegion h p →
      let a := cmdNum p 8 8
      let n := cmdNum p 16 8
      ∃ t, exec .mapSetFirmwareRegion s = .next t ∧ t.cores = s.cores ∧ Claim.sameMemory s t ∧
        (pmaOk a n = true → Claim.replied s t i h 0 [] ∧ t.agent.region = some (a, n)) ∧
        (pmaOk a n = false → Claim.replied s t i h 2 [] ∧ t.agent.region = s.agent.region)) ∧
    (Claim.offered s .mapAddRetirementFrame i h p → Claim.wellFormed .mapAddRetirementFrame h p →
      let a := cmdNum p 8 8
      let z := cmdNum p 16 1
      let ok := z ≤ 2 ∧ a % 2 ^ pageShift z = 0 ∧ pmaOk a (2 ^ pageShift z) = true
      let used := s.isRetired a (2 ^ pageShift z) = true ∨ s.frameAt a ≠ none ∨ ∃ q ∈ s.agent.pool, q.1 = a
      ∃ t, exec .mapAddRetirementFrame s = .next t ∧ t.cores = s.cores ∧ Claim.sameMemory s t ∧
        (ok → ¬ used → Claim.replied s t i h 0 [] ∧ t.agent.pool = s.agent.pool ++ [(a, z)]) ∧
        (¬ ok → Claim.replied s t i h 2 [] ∧ t.agent.pool = s.agent.pool) ∧
        (ok → used → Claim.replied s t i h 3 [] ∧ t.agent.pool = s.agent.pool))

/-- R332, R338, R368, R378, R379: MAP action 1 writes a leaf as MAPPED where none is, for a tenant with a root, and with a key for a
local frame, whose owner is recorded and which reads under the owner's key from then on, so that a unit that reads otherwise has no tag; it is refused
with BADARG, REFUSED (a frame that is retired, in the pool or a move's destination among it) or NOKEY else. -/
def Sys2Proof.Claim.LeavesAreInstalled : Prop :=
  ∀ (s : State) (i h : Nat) (p : List Byte), Claim.offered s .mapInstallLeaf i h p → Claim.wellFormed .mapInstallLeaf h p →
    let n := cmdNum p 0 2
    let a := cmdNum p 8 8
    let d := setBits (cmdNum p 16 16) 8 3 1
    let va := cmdNum p 32 8
    let size := 2 ^ pageShift (descSize d)
    let loc := descKind d = 0
    let ok := n ≤ 1022 ∧ a % 16 = 0 ∧ pmaOk a 16 = true ∧ descType d = 2 ∧ va % size = 0 ∧ va < 2 ^ 59 ∧
      (loc → pmaOk (leafTarget d) size = true) ∧
      ∃ r, tabGet s.agent.roots n = some r ∧ descOk (rootLay r == 1) d = true ∧ (rootLay r = 1 → descMatches d va = true)
    let used := descSt (s.mem.num a 16) ≠ 0 ∨ (loc ∧ (s.isRetired (leafTarget d) size = true ∨ s.promised (leafTarget d) size = true))
    let key := ∃ k ∈ s.agent.keys, k.2.ld = true ∧ k.2.tenant = n
    s.mem.wf = true → s.mem.poison = [] →
    ∃ t, exec .mapInstallLeaf s = .next t ∧ t.cores = s.cores ∧
      (ok → ¬ used → (loc → key) → Claim.replied s t i h 0 [] ∧ t.mem.num a 16 = d % 2 ^ 128 ∧
        (∀ b, b < a ∨ a + 16 ≤ b → (loc → b < leafTarget d ∨ leafTarget d + size ≤ b) → t.readAt (.pma b) 1 = s.readAt (.pma b) 1) ∧
        (loc → ∀ u, leafTarget d ≤ 64 * u → 64 * u + 64 ≤ leafTarget d + size → (64 * u + 64 ≤ a ∨ a + 16 ≤ 64 * u) →
          let old := s.mem.read (64 * u) 64
          let new := fit64 (recrypt s.agent t.agent u old)
          t.mem.read (64 * u) 64 = new ∧ (new ≠ old → ∀ g, g < 4 → 4 * u + g ∉ t.mem.tags)) ∧
        (loc → ∃ f, tabGet t.agent.frames (leafTarget d) = some f ∧ f.owner = n ∧ f.size = descSize d ∧
          s.agent.keySlot n = some f.slot ∧ f.leaf = some { desc := a, tenant := n, va := va })) ∧
      (¬ ok → Claim.replied s t i h 2 [] ∧ t.mem = s.mem) ∧ (ok → used → Claim.replied s t i h 3 [] ∧ t.mem = s.mem) ∧
      (ok → ¬ used → loc → ¬ key → Claim.replied s t i h 4 [] ∧ t.mem = s.mem)

/-- R338 to R340: MAP action 2 takes a MAPPED or POISONED leaf away and starts a shootdown of its page, and MIGRATE puts a MAPPED local
page into migration to a free frame and starts one; the reply comes when that is complete. An address that is not a multiple of the
page's size is refused with BADARG, the model's choice (notes/assumptions/80.md). -/
def Sys2Proof.Claim.LeavesAreRemovedAndMoved : Prop :=
  ∀ (s : State) (i h : Nat) (p : List Byte), s.mem.wf = true → s.mem.poison = [] →
    let n := cmdNum p 0 2
    (Claim.offered s .mapRemoveLeaf i h p → Claim.wellFormed .mapRemoveLeaf h p →
      let a := cmdNum p 8 8
      let va := cmdNum p 32 8
      let d := s.mem.num a 16
      let ok := n ≤ 1022 ∧ a % 16 = 0 ∧ pmaOk a 16 = true ∧ va < 2 ^ 59 ∧ va % 2 ^ 16 = 0
      let there := descType d = 2 ∧ (descSt d = 1 ∨ descSt d = 4)
      let whole := va % 2 ^ pageShift (descSize d) = 0
      ∃ t, exec .mapRemoveLeaf s = .next t ∧ t.cores = s.cores ∧
        (ok → there → whole → Claim.runs s t i h p ∧ t.mem.num a 16 = 0 ∧
          (∀ b, b < a ∨ a + 16 ≤ b → (descKind d = 0 → b < leafTarget d ∨ leafTarget d + 2 ^ pageShift (descSize d) ≤ b) →
            t.readAt (.pma b) 1 = s.readAt (.pma b) 1) ∧
          (∃ q, t.agent.shoots = s.agent.shoots ++ [q] ∧ q.leaf = { desc := a, tenant := n, va := va } ∧
            q.size = 2 ^ pageShift (descSize d) ∧ q.move = false) ∧
          (descKind d = 0 → descSt d = 4 → t.agent.retired = s.agent.retired ++ [(leafTarget d, 2 ^ pageShift (descSize d))])) ∧
        (¬ ok ∨ (there ∧ ¬ whole) → Claim.replied s t i h 2 [] ∧ t.mem = s.mem) ∧
        (ok → ¬ there → Claim.replied s t i h 3 [] ∧ t.mem = s.mem)) ∧
    (Claim.offered s .migrate i h p → Claim.wellFormed .migrate h p →
      let va := cmdNum p 8 8
      let dst := cmdNum p 16 8
      n ≤ 1022 → va < 2 ^ 59 →
      ∃ t, exec .migrate s = .next t ∧ t.cores = s.cores ∧
        (s.walk n va = none → Claim.replied s t i h 3 [] ∧ t.mem = s.mem) ∧
        (∀ d a, s.walk n va = some (d, a) →
          let size := 2 ^ pageShift (descSize d)
          (descSt d ≠ 1 → Claim.replied s t i h 3 [] ∧ t.mem = s.mem) ∧
          (descSt d = 1 → descKind d ≠ 0 ∨ s.freeFrame dst size = false → Claim.replied s t i h 2 [] ∧ t.mem = s.mem) ∧
          (descSt d = 1 → descKind d = 0 → s.freeFrame dst size = true → Claim.runs s t i h p ∧
            descSt (t.mem.num a 16) = 2 ∧
            t.agent.moves = s.agent.moves ++ [{ leaf := { desc := a, tenant := n, va := va / size * size }, src := leafTarget d, dst := dst
                                                size := size, retiring := false, byHost := true }])))

/-- R364, R365, R367: FENCE_RECT create takes a FREE entry for a rectangle that meets no other and starts to reset it; seal and unseal
change an ACTIVE or SEALED entry at once; remove and RESET_RECT start to reset an ACTIVE or SEALED one. A reset stops its cores, and
the kernels on them fail with status 8. -/
def Sys2Proof.Claim.FencesAreCommanded : Prop :=
  ∀ (s : State) (i h : Nat) (p : List Byte),
    let k := cmdNum p 1 1
    let e := s.fence k
    let resets (t : State) (f : Fence) : Prop := Claim.runs s t i h p ∧ t.fence k = { f with st := .resetting } ∧
      (∀ j, j ≠ k → t.fence j = s.fence j) ∧
      (∀ c, c < numCores → tabGet s.cores c ≠ none → ({ f with st := .resetting } : Fence).holds c = true → (t.core c).stopped = true) ∧
      (∀ x c, s.kernel x.kid = some x → x.isOver = false → c ∈ x.cores → c < numCores → ({ f with st := .resetting } : Fence).holds c = true →
        ∃ q, t.kernel x.kid = some q ∧ q.st = .failed ∧ q.status = 8)
    (Claim.offered s .fenceRectCreate i h p → Claim.wellFormed .fenceRectCreate h p →
      let r := cmdNum p 4 3
      let f : Fence := { st := .resetting, tenant := cmdNum p 2 2, x0 := r % 64, y0 := r / 2 ^ 6 % 64, wm := r / 2 ^ 12 % 64, hm := r / 2 ^ 18 % 64 }
      let ok := k < 32 ∧ f.tenant ≤ 1022 ∧ f.x0 + f.wm < 48 ∧ f.y0 + f.hm < 48
      let free := e.st = .free ∧ ∀ j, j < 32 → (s.fence j).st ≠ .free → f.meets (s.fence j) = false
      ∃ t, exec .fenceRectCreate s = .next t ∧ (ok → free → resets t f) ∧ (¬ ok → Claim.replied s t i h 2 [] ∧ t.cores = s.cores) ∧
        (ok → ¬ free → Claim.replied s t i h 3 [] ∧ t.cores = s.cores)) ∧
    (∀ ins src dst, (ins, src, dst) ∈ [(Instr.fenceRectSeal, FenceSt.active, FenceSt.sealed), (.fenceRectUnseal, .sealed, .active)] →
      Claim.offered s ins i h p → Claim.wellFormed ins h p →
      ∃ t, exec ins s = .next t ∧ t.cores = s.cores ∧ (∀ j, j ≠ k → t.fence j = s.fence j) ∧
        (k < 32 → e.st = src → Claim.replied s t i h 0 [] ∧ t.fence k = { e with st := dst }) ∧
        (32 ≤ k → Claim.replied s t i h 2 []) ∧ (k < 32 → e.st ≠ src → Claim.replied s t i h 3 [] ∧ t.fence k = e)) ∧
    (∀ ins removal, (ins, removal) ∈ [(Instr.fenceRectRemove, true), (.resetRect, false)] →
      Claim.offered s ins i h p → Claim.wellFormed ins h p →
      ∃ t, exec ins s = .next t ∧ (k < 32 → e.st = .active ∨ e.st = .sealed → resets t { e with removal := removal }) ∧
        (32 ≤ k → Claim.replied s t i h 2 [] ∧ t.cores = s.cores) ∧
        (k < 32 → e.st ≠ .active → e.st ≠ .sealed → Claim.replied s t i h 3 [] ∧ t.cores = s.cores))

/-- R7, R365, R367: a group reset finishes when no read, atomic, full/empty or join-counter operation of its cores is outstanding, and
only plain writes may be: every core of the rectangle is, in all its parts, as after power-on, but for incarnations, links and what
has newly arrived; its tenant is that of the entry, or 1023 where
it is removed, and the entry is ACTIVE or FREE; the command that asked for it is replied to. Of the cores outside only credits
change, and an inbox where a refusal has arrived. -/
def Sys2Proof.Claim.GroupResetsFinish : Prop :=
  ∀ (s : State),
    let k := s.ev.k
    let f := s.fence k
    let plain (r : Req) : Prop := ∃ d g, r.op = .write d g
    k < 32 → f.st = .resetting → (∀ r ∈ s.reqs, f.holds r.core = true → plain r ∨ r.settled = true) →
    ∃ t, exec .groupResetComplete s = .next t ∧
      t.fence k = (if f.removal then {} else { f with st := .active }) ∧ (∀ j, j ≠ k → t.fence j = s.fence j) ∧
      (∀ c, c < numCores → f.holds c = true →
        let x := s.core c
        ∃ p q, (∀ m ∈ q, m.answer = true) ∧ t.core c = { ({} : Core) with
          ctxs := x.ctxs.map fun y => { ({} : Ctx) with inc := y.inc }
          tenant := if f.removal then 1023 else f.tenant
          drained := x.drained, stopped := x.drained
          inbox := { ({} : Inbox) with reasm := x.inbox.reasm, arrived := x.inbox.arrived ++ q, deposits := x.inbox.deposits }
          side := p }) ∧
      (∀ c, ¬ (c < numCores ∧ f.holds c = true) → ∃ p q, (∀ m ∈ q, m.answer = true) ∧
        t.core c = { s.core c with side := p, inbox := { (s.core c).inbox with arrived := (s.core c).inbox.arrived ++ q } }) ∧
      (∀ r ∈ t.reqs, r.core < numCores → f.holds r.core = true →
        ∃ w ∈ s.reqs, plain w ∧ w.settled = false ∧ r = { w with who := .fibre 32 0 }) ∧
      (∀ r ∈ s.reqs, ¬ (r.core < numCores ∧ f.holds r.core = true) → r ∈ t.reqs) ∧
      (∀ r ∈ t.resvs, r.core < numCores → f.holds r.core = false) ∧
      (∀ c, s.agent.cmd = some c → c.wait = 3 → c.arg = k → c.slot < 32 → Claim.shows t c.slot c.header 0 [])

/-- R363, R378, R388: KEY_LOAD stores the key of a blob that checks in its slot, or as the link key of a package and direction with the
next epoch; a blob that does not check is refused with FAILED, and a slot in use with REFUSED. -/
def Sys2Proof.Claim.KeysAreLoaded : Prop :=
  ∀ (s : State) (i h : Nat) (p : List Byte),
    let alg := cmdNum p 1 1
    let n := cmdNum p 2 1
    (Claim.offered s .keyLoadMemory i h p → Claim.wellFormed .keyLoadMemory h p →
      let tn := cmdNum p 4 2
      let used := ∃ q, tabGet s.agent.keys n = some q ∧ q.ld = true ∧ ∃ f ∈ s.agent.frames, f.2.leaf ≠ none ∧ f.2.owner = q.tenant
      let key := s.blobKey p (if alg = 1 then 32 else 64)
      ∃ t, exec .keyLoadMemory s = .next t ∧ t.cores = s.cores ∧ Claim.sameMemory s t ∧
        (1 < alg ∨ n = 0 ∨ 1022 < tn → Claim.replied s t i h 2 [] ∧ t.agent.keys = s.agent.keys) ∧
        (alg ≤ 1 → n ≠ 0 → tn ≤ 1022 →
          (used → Claim.replied s t i h 3 [] ∧ t.agent.keys = s.agent.keys) ∧
          (¬ used → key = none → Claim.replied s t i h 5 [] ∧ t.agent.keys = s.agent.keys) ∧
          (∀ b, ¬ used → key = some b → Claim.replied s t i h 0 [] ∧
            tabGet t.agent.keys n = some { ld := true, alg := alg == 1, tenant := tn, key := b }))) ∧
    (Claim.offered s .keyLoadLink i h p → Claim.wellFormed .keyLoadLink h p →
      let dir := cmdNum p 3 1
      let key := s.blobKey p (if alg = 1 then 16 else 32)
      ∃ t, exec .keyLoadLink s = .next t ∧ t.cores = s.cores ∧ Claim.sameMemory s t ∧
        (1 < alg ∨ 1 < dir → Claim.replied s t i h 2 [] ∧ t.agent.linkKeys = s.agent.linkKeys) ∧
        (alg ≤ 1 → dir ≤ 1 → key = none → Claim.replied s t i h 5 [] ∧ t.agent.linkKeys = s.agent.linkKeys) ∧
        (∀ b, alg ≤ 1 → dir ≤ 1 → key = some b → Claim.replied s t i h 0 [] ∧
          t.linkKey n (dir == 1) = some { pkg := n, recv := dir == 1, alg := alg == 1, key := b,
                                          epoch := (((s.linkKey n (dir == 1)).map (·.epoch)).getD 0 + 1) % 256 }))

/-- R376, R381, R215: ATTEST writes the signed report to host memory; SPARE_SWAP, where the spare passes, takes the cluster-row's spare
for a drained cluster; NAME_RANGE gives a tenant a range of indices that no other tenant holds and no Skein uses. -/
def Sys2Proof.Claim.AttestationSparesAndNames : Prop :=
  ∀ (s : State) (i h : Nat) (p : List Byte),
    (Claim.offered s .attest i h p → Claim.wellFormed .attest h p → s.host.wf = true → s.host.poison = [] →
      let a := cmdNum p 32 8
      ∃ t, exec .attest s = .next t ∧ t.cores = s.cores ∧ t.mem = s.mem ∧
        (a % 64 = 0 → Claim.replied s t i h 0 [] ∧ t.host.read a 192 = s.report (p.take 32) ∧
          t.host.read (a + 192) 64 = sign64 (s.report (p.take 32))) ∧
        (a % 64 ≠ 0 → Claim.replied s t i h 2 [] ∧ t.host = s.host)) ∧
    (Claim.offered s .spareSwap i h p → Claim.wellFormed .spareSwap h p →
      let r := cmdNum p 0 1 * 3 + cmdNum p 1 1
      let f := cmdNum p 2 1
      let ok := cmdNum p 0 1 < 8 ∧ cmdNum p 1 1 < 3 ∧ f < 7 ∧ ∃ n ∈ s.agent.drained, n < 144 ∧ rowOf n = r ∧ s.agent.physical n = 7 * r + f
      ∃ t, exec .spareSwap s = .next t ∧ Claim.sameMemory { s with cores := [] } { t with cores := [] } ∧
        (¬ ok → Claim.replied s t i h 2 [] ∧ t.agent.rows = s.agent.rows) ∧
        (ok → (s.agent.row r).2 = true → Claim.replied s t i h 3 [] ∧ t.agent.rows = s.agent.rows) ∧
        (ok → (s.agent.row r).2 = false → (∀ k ∈ s.agent.kernels, k.isOver = true) →
          (Claim.replied s t i h 3 [] ∧ t.agent.rows = s.agent.rows) ∨
          (Claim.replied s t i h 0 [] ∧ tabGet t.agent.rows r = some (f, true) ∧
            ∀ n, n < 144 → s.agent.physical n ≠ t.agent.physical n → n ∉ t.agent.drained ∧
              ∀ c ∈ clusterCores n, (t.core c).drained = false ∧ (t.core c).stopped = false ∧ (t.core c).tenant = (s.core c).tenant ∧
                ∀ j, t.ctx c j = { ({} : Ctx) with inc := (s.ctx c j).inc }))) ∧
    (Claim.offered s .nameRange i h p → Claim.wellFormed .nameRange h p →
      let n := cmdNum p 0 2
      let first := cmdNum p 2 2
      let count := cmdNum p 4 2
      let ok := n ≤ 1022 ∧ first ≠ 0 ∧ first + count ≤ 65536
      let used := (∃ r ∈ s.agent.ranges, r.tenant ≠ n ∧ r.first < first + count ∧ first < r.first + r.count) ∨
        ∃ e ∈ s.agent.names, first ≤ e.1 ∧ e.1 < first + count ∧ e.2.st ≠ .free ∧ e.2.st ≠ .exited
      ∃ t, exec .nameRange s = .next t ∧ t.cores = s.cores ∧ Claim.sameMemory s t ∧
        (ok → ¬ used → Claim.replied s t i h 0 [] ∧ t.agent.ranges = (s.agent.ranges.filter fun q => q.tenant != n) ++
          [{ tenant := n, first := first, count := count, free := (List.range count).map (first + ·) }]) ∧
        (¬ ok → Claim.replied s t i h 2 [] ∧ t.agent.ranges = s.agent.ranges) ∧
        (ok → used → Claim.replied s t i h 3 [] ∧ t.agent.ranges = s.agent.ranges))

/-- R343, R386, R413: TELEMETRY writes its records to host memory and replies with their length: the module's counters and those of
cores, cleared where it asks; the hotness of a tenant's frames; the cluster-rows and ports; for rails and temperatures, of which the
spec gives no layout, at most the buffer. -/
def Sys2Proof.Claim.TelemetryReports : Prop :=
  ∀ (s : State) (i h : Nat) (p : List Byte),
    let a := cmdNum p 8 8
    let len := cmdNum p 16 4
    let clear := cmdNum p 1 1 = 1
    s.host.wf = true → s.host.poison = [] → cmdNum p 1 1 ≤ 1 → (h.testBit 71 = true → h / 2 ^ 72 % 256 < 64) →
    (Claim.offered s .telemetryErrorCounts i h p → Claim.wellFormed .telemetryErrorCounts h p →
      let n := min numCores ((len - 128) / 32)
      ∃ t, exec .telemetryErrorCounts s = .next t ∧ t.mem = s.mem ∧
        (len < 128 → Claim.replied s t i h 0 (bytesOf 0 4) ∧ t.host = s.host ∧ t.cores = s.cores) ∧
        (128 ≤ len → Claim.replied s t i h 0 (bytesOf (128 + 32 * n) 4) ∧
          (∀ j, j < 16 → t.host.num (a + 8 * j) 8 = s.agent.counters.toList.getD j 0 % 2 ^ 64) ∧
          (∀ c, c < n → t.host.num (a + 128 + 32 * c + 24) 8 = (s.core c).transients % 2 ^ 64) ∧
          (clear → ∀ j, t.agent.counters.toList.getD j 0 = 0) ∧ (clear → ∀ c, c < n → (t.core c).transients = 0) ∧
          (¬ clear → t.agent.counters = s.agent.counters ∧ t.cores = s.cores))) ∧
    (Claim.offered s .telemetryHotness i h p → Claim.wellFormed .telemetryHotness h p → cmdNum p 2 2 ≤ 1022 →
      let mine := ((s.agent.frames.filter fun f => f.2.owner == cmdNum p 2 2 && f.2.leaf.isSome).map (·.1)).take (len / 16)
      ∃ t, exec .telemetryHotness s = .next t ∧ t.mem = s.mem ∧ t.cores = s.cores ∧ Claim.replied s t i h 0 (bytesOf (16 * mine.length) 4) ∧
        (∀ j b, mine[j]? = some b → t.host.num (a + 16 * j) 4 = ((tabGet s.agent.hot b).getD {}).count % 2 ^ 32) ∧
        (¬ clear → t.agent.hot = s.agent.hot)) ∧
    (Claim.offered s .telemetryClusterRows i h p → Claim.wellFormed .telemetryClusterRows h p →
      ∃ t, exec .telemetryClusterRows s = .next t ∧ t.mem = s.mem ∧ t.cores = s.cores ∧
        Claim.replied s t i h 0 (bytesOf (if len < 192 then len / 8 * 8 else 192 + min 38 (len - 192)) 4) ∧
        (∀ r, r < 24 → 8 * r + 8 ≤ len → t.host.num (a + 8 * r) 1 % 8 = (s.agent.row r).1 % 8) ∧
        (∀ n, n < 38 → 192 + n < len → t.host.num (a + 192 + n) 1 = (s.pod.port n).st.ctorIdx)) ∧
    (Claim.offered s .telemetryRails i h p → Claim.wellFormed .telemetryRails h p →
      ∃ t n, exec .telemetryRails s = .next t ∧ n ≤ len ∧ t.mem = s.mem ∧ t.cores = s.cores ∧ Claim.replied s t i h 0 (bytesOf n 4))

/-- R358, R360 to R362, R387: POD_CONFIG sets the package number where no kernel is placed, an entry of the inactive generation of plane
sets while no update is under way, the mark of a package that no running kernel is on, and the state of a port; activation starts an update, and is replied to when no frame of the old
generation is unacknowledged. -/
def Sys2Proof.Claim.PodIsConfigured : Prop :=
  ∀ (s : State) (i h : Nat) (p : List Byte),
    let g := cmdNum p 1 1
    (Claim.offered s .podConfigSetPackage i h p → Claim.wellFormed .podConfigSetPackage h p →
      let busy := ∃ k ∈ s.agent.kernels, k.st = .loading ∨ k.st = .running ∨ k.st = .preempted
      ∃ t, exec .podConfigSetPackage s = .next t ∧ t.cores = s.cores ∧ (¬ busy → Claim.replied s t i h 0 [] ∧ t.pkg = g) ∧
        (busy → Claim.replied s t i h 3 [] ∧ t.pkg = s.pkg)) ∧
    (Claim.offered s .podConfigRoutingEntry i h p → Claim.wellFormed .podConfigRoutingEntry h p →
      let m := cmdNum p 8 8
      ∃ t, exec .podConfigRoutingEntry s = .next t ∧ t.cores = s.cores ∧
        (2 ^ 36 ≤ m → Claim.replied s t i h 2 [] ∧ t.pod = s.pod) ∧
        (m < 2 ^ 36 → s.pod.updating = true → Claim.replied s t i h 3 [] ∧ t.pod = s.pod) ∧
        (m < 2 ^ 36 → s.pod.updating = false → Claim.replied s t i h 0 [] ∧ t.pod.gen = s.pod.gen ∧ t.pod.updating = false ∧
          (s.pod.gen = false → tabGet t.pod.sets1 g = some m ∧ t.pod.sets0 = s.pod.sets0) ∧
          (s.pod.gen = true → tabGet t.pod.sets0 g = some m ∧ t.pod.sets1 = s.pod.sets1))) ∧
    (Claim.offered s .podConfigActivate i h p → Claim.wellFormed .podConfigActivate h p →
      ∃ t, exec .podConfigActivate s = .next t ∧ t.cores = s.cores ∧
        (s.pod.updating = true → Claim.replied s t i h 3 [] ∧ t.pod = s.pod) ∧
        (s.pod.updating = false → Claim.runs s t i h p ∧ t.pod = { s.pod with gen := !s.pod.gen })) ∧
    (∀ c, s.agent.cmd = some c → c.wait = 4 → c.slot < 32 →
      ∃ t, exec .podConfigActivate s = .next t ∧
        ((∀ x ∈ s.pod.tx, ∀ u ∈ x.unacked, u.1.gen = s.pod.gen) → Claim.shows t c.slot c.header 0 [] ∧ t.pod = { s.pod with updating := true }) ∧
        ((∃ x ∈ s.pod.tx, ∃ u ∈ x.unacked, u.1.gen ≠ s.pod.gen) → t = s)) ∧
    (Claim.offered s .podConfigMarkPackage i h p → Claim.wellFormed .podConfigMarkPackage h p →
      let m := cmdNum p 2 1
      let v := if m = 2 then 2 + cmdNum p 3 1 else m
      let used := ∃ k ∈ s.agent.kernels, (k.st = .running ∨ k.st = .preempted) ∧ ∃ q ∈ k.places, q.pkg = g
      ∃ t, exec .podConfigMarkPackage s = .next t ∧ t.cores = s.cores ∧
        (m ≤ 2 → (m = 2 ∨ cmdNum p 3 1 = 0) → ¬ used ∨ (tabGet s.pod.map g).getD 0 = v →
          Claim.replied s t i h 0 [] ∧ tabGet t.pod.map g = some v) ∧
        (m ≤ 2 → (m = 2 ∨ cmdNum p 3 1 = 0) → used → (tabGet s.pod.map g).getD 0 ≠ v → Claim.replied s t i h 3 [] ∧ t.pod = s.pod) ∧
        (m < 2 → cmdNum p 3 1 ≠ 0 → Claim.replied s t i h 1 [] ∧ t.pod = s.pod) ∧
        (2 < m → Claim.replied s t i h 2 [] ∧ t.pod = s.pod)) ∧
    (Claim.offered s .podConfigPort i h p → Claim.wellFormed .podConfigPort h p → cmdNum p 2 1 ≤ 1 →
      let q := s.pod.port g
      ∃ t, exec .podConfigPort s = .next t ∧ t.cores = s.cores ∧ (37 < g → Claim.replied s t i h 2 [] ∧ t.pod = s.pod) ∧
        (g ≤ 37 → cmdNum p 2 1 = 1 → Claim.replied s t i h 0 [] ∧
          (t.pod.port g).st = if q.st = .down ∨ q.st = .failed then .training else q.st) ∧
        (g ≤ 37 → cmdNum p 2 1 = 0 → Claim.replied s t i h 0 [] ∧ (t.pod.port g).st = .down) ∧
        (∀ j, j ≠ g → t.pod.port j = s.pod.port j))

/-- R383 to R385, R387: a command of no row is replied to with BADCMD, or BADARG for an action of none; the host writes whole commands to
slots with V clear, whose status byte is read-only, and other writes are counted; a POD_CONFIG action 1 among them ends an update; it
frees and writes reply slots, but for the status byte; in the HDM range it reads and writes memory a line at a time,
and reads all ones where there is none. -/
def Sys2Proof.Claim.HostWindows : Prop :=
  (∀ (s : State) (i h : Nat) (p : List Byte), let d := s.agent.cmdSlots.toList.getD i []
    let op := h % 256
    i < 32 → i = s.agent.nextSlot → s.agent.cmd = none → d.length = 64 → h = ofBytes (d.take 16) → p = d.drop 16 → h.testBit 64 = true →
    (ofBytes ((s.agent.replySlots.toList.getD i []).take 16)).testBit 64 = false →
    ∃ t, exec .unknownOpCommand s = .next t ∧ t.cores = s.cores ∧ Claim.sameMemory s t ∧
      (op = 0 ∨ 11 < op ∨ 48 < h / 2 ^ 16 % 256 → Claim.replied s t i h 1 []) ∧
      ((op = 2 ∧ 4 < cmdNum p 2 1) ∨ (op = 4 ∧ 3 < cmdNum p 0 1) → h / 2 ^ 16 % 256 ≤ 48 → cmdBad h p = false → Claim.replied s t i h 2 [])) ∧
  (∀ (s : State), let k := s.ev.k
    let d := s.ev.data
    let old := s.agent.cmdSlots.toList.getD k []
    let busy := (ofBytes (old.take 16)).testBit 64
    let entry := (ofBytes (d.take 16)).testBit 64 = true ∧ d.getD 0 0#8 = 11#8 ∧ d.getD 16 0#8 = 1#8
    k < 32 → d ≠ [] →
    ∃ t, exec .hostCommandSlotWrite s = .next t ∧ t.cores = s.cores ∧ Claim.sameMemory s t ∧
      (d.length = 64 → busy = false →
        (∀ j, j < 64 → (t.agent.cmdSlots.toList.getD k []).getD j 0#8 = if j = 3 then old.getD j 0#8 else d.getD j 0#8) ∧
        (t.agent.cmdSlots.toList.getD k []).length = 64 ∧ t.agent.counters = s.agent.counters ∧
        (entry → t.pod.updating = false) ∧ (¬ entry → t.pod = s.pod)) ∧
      (d.length ≠ 64 ∨ busy = true → t.agent.cmdSlots = s.agent.cmdSlots ∧ t.pod = s.pod ∧
        t.agent.counters.toList.getD 7 0 = min (s.agent.counters.toList.getD 7 0 + 1) (2 ^ 64 - 1))) ∧
  (∀ (s : State), let k := s.ev.k
    let d := s.agent.replySlots.toList.getD k []
    k < 32 → d.length = 64 →
    ∃ t, exec .hostReplySlotRelease s = .next t ∧ t.cores = s.cores ∧ Claim.sameMemory s t ∧
      (∀ j, j ≠ k → t.agent.replySlots.toList.getD j [] = s.agent.replySlots.toList.getD j []) ∧
      (s.ev.data = [] → (ofBytes ((t.agent.replySlots.toList.getD k []).take 16)).testBit 64 = false ∧
        ∀ j, j ≠ 8 → (t.agent.replySlots.toList.getD k []).getD j 0#8 = d.getD j 0#8) ∧
      (s.ev.data ≠ [] → ∀ j, j < 64 → (t.agent.replySlots.toList.getD k []).getD j 0#8 =
        if s.ev.n ≤ j ∧ j < s.ev.n + s.ev.data.length ∧ j ≠ 3 then s.ev.data.getD (j - s.ev.n) 0#8 else d.getD j 0#8)) ∧
  (∀ (s : State), let o := s.ev.k
    let n := s.ev.n
    let a := o / 2 ^ 40 % 32 * 2 ^ 55 + o % 2 ^ 40
    0 < n → o % 64 + n ≤ 64 → o + n ≤ 2 ^ 45 →
    ∃ t, exec .hostHdmRead s = .next t ∧ t.cores = s.cores ∧ t.mem = s.mem ∧
      (pmaOk a n = false → t.hdmData = List.replicate n 0xFF#8) ∧
      (pmaOk a n = true → s.poisonedAt (.pma a) n = false → t.hdmData = s.readAt (.pma a) n)) ∧
  (∀ (s : State), let o := s.ev.k
    let d := s.ev.data
    let a := o / 2 ^ 40 % 32 * 2 ^ 55 + o % 2 ^ 40
    d ≠ [] → o % 64 + d.length ≤ 64 → o + d.length ≤ 2 ^ 45 → pmaOk a d.length = true → s.frozen (.pma a) = false → s.mem.wf = true →
    s.mem.poison = [] →
    ∃ t, exec .hostHdmWrite s = .next t ∧ t.readAt (.pma a) d.length = d ∧ t.cores = s.cores ∧
      (∀ b, b < a ∨ a + d.length ≤ b → t.readAt (.pma b) 1 = s.readAt (.pma b) 1))

/-- R390, R391: an update image whose SM2 signature verifies under the root key is staged (where it holds its signature is free,
notes/assumptions/10.md); the temperature is that of the hottest of the eight dies, and the launch agent holds kernels in PLACING from
105 °C on, with an event to the host, and no longer below. A sensor takes a value in a turn of its own, and management reads it in one
(which number names which sensor is the model's choice, notes/assumptions/111.md). -/
def Sys2Proof.Claim.FirmwareAndHeat : Prop :=
  ∀ (s : State), let a := s.agent
    let u := Config.updateParts s.ev.data
    exec .firmwareUpdate s = .next (if sm2Check Config.rootKey u.1 u.2 then { s with agent := { a with staged := some s.ev.data } } else s) ∧
    (105 ≤ a.temperature → a.hold = false → exec .thermalHold s = .next { s with pldm := 1 :: s.pldm, agent := { a with hold := true } }) ∧
    (a.temperature < 105 ∨ a.hold = true → exec .thermalHold s = .next s) ∧
    (a.temperature < 105 → a.hold = true → exec .thermalHoldEnd s = .next { s with agent := { a with hold := false } }) ∧
    (∀ d, d < 8 → (tabGet a.sensors d).getD 0 ≤ a.temperature) ∧
    (a.temperature = 0 ∨ ∃ d, d < 8 ∧ tabGet a.sensors d = some a.temperature) ∧
    (∀ rest n v, s.turns = .sensor n v :: rest →
      step s = .next { s with turns := rest, agent := { a with sensors := tabSet a.sensors n v } }) ∧
    (∀ rest n, s.turns = .monitor n :: rest →
      step s = .next { s with turns := rest, readings := (n, (tabGet a.sensors n).getD 0) :: s.readings })

/-- R7, R17, R375, R379, R390, R391: power-on reset leaves every core as after reset but for incarnations, every fence entry FREE, and no
kernel, root, key or request, and keeps the staged image and the sensors; a module reset keeps memory as slot 0 reads it, with the tags
of what reads as before, drained marks and rails, and a staged image runs; at 115 °C every kernel
fails with status RESET first. -/
def Sys2Proof.Claim.Resets : Prop :=
  let asSlot0 (s t : State) : Prop := (∀ g ∈ t.mem.tags, g ∈ s.mem.tags) ∧
    (s.mem.wf = true → ∀ g ∈ s.mem.tags, s.agent.slotAt (64 * (g / 4)) = 0 → g ∈ t.mem.tags) ∧ t.mem.poison = s.mem.poison ∧ t.mem.full = s.mem.full ∧
    (s.mem.wf = true → ∀ a, s.agent.slotAt (64 * (a / 64)) = 0 → t.readAt (.pma a) 1 = s.readAt (.pma a) 1)
  (∀ (s : State), ∃ t, exec .powerOnReset s = .next t ∧
    (∀ c, t.core c = { ({} : Core) with ctxs := (s.core c).ctxs.map fun x => { ({} : Ctx) with inc := x.inc } }) ∧
    (∀ k, t.fence k = {}) ∧ t.agent.kernels = [] ∧ t.agent.roots = [] ∧ t.agent.keys = [] ∧ t.agent.names = [] ∧ t.reqs = [] ∧ t.resvs = [] ∧
    t.reel0 = [] ∧ t.reel1 = [] ∧ t.pod.map = [] ∧ t.pkg = 0 ∧ t.agent.rows = s.agent.rows ∧ t.agent.staged = s.agent.staged ∧ t.agent.sensors = s.agent.sensors ∧
    t.host = s.host) ∧
  (∀ (s : State), ∃ t, exec .moduleReset s = .next t ∧ asSlot0 s t ∧ t.agent.frames = [] ∧ t.host = s.host ∧ t.agent.kernels = [] ∧ t.agent.drained = s.agent.drained ∧
    t.agent.rails = s.agent.rails ∧ (∀ c, (t.core c).drained = (s.core c).drained ∧ (t.core c).tenant = 1023 ∧
      ∀ i, t.ctx c i = { ({} : Ctx) with inc := (s.ctx c i).inc }) ∧
    (∀ f, s.agent.staged = some f → t.agent.firmware = some f)) ∧
  (∀ (s : State), 115 ≤ s.agent.temperature → ∃ t, exec .thermalReset s = .next t ∧ asSlot0 s t ∧ t.agent.kernels = [] ∧ t.reqs = [] ∧
    (∀ k, s.agent.kernels = [k] → k.isOver = false → k.guest = false → s.host.wf = true → s.host.poison = [] →
      t.host.read (k.recN 56 8) 6 = bytesOf k.kid 4 ++ [8#8, 0xFF#8]))

/-! ### The Reel, the pod and scale-out (R171, R173, R175, R349 to R363) -/

/-- R349 to R351, R353, R366: a flit that is alone on a plane moves one hop closer to its destination in each cycle, and is ejected at its
destination into an endpoint that can take it; the head of an injection queue enters the plane on such a hop with age 0; the router of
a fenced core refuses a message that would leave the rectangle. -/
def Sys2Proof.Claim.FlitsTravel : Prop :=
  ∀ (s : State) (f : Flit),
    let far (a b : Nat) : Nat := min ((a + 48 - b) % 48) ((b + 48 - a) % 48)
    let dist (x y : Nat) : Nat := far f.dx x + far f.dy y
    f.x < 48 → f.y < 48 → f.dx < 48 → f.dy < 48 →
    (s.ev.b = false → s.reel0 = [f] → s.inj0 = [] →
      ∃ t, exec .reelFlitRouting s = .next t ∧
        ((f.x ≠ f.dx ∨ f.y ≠ f.dy) → ∃ x y, t = { s with reel0 := [{ f with x := x, y := y }] } ∧ dist x y + 1 = dist f.x f.y) ∧
        (f.x = f.dx → f.y = f.dy → s.canTake f = true → f.nflits ≤ 1 →
          t = ({ s with reel0 := [] } : State).deliver ⟨f.dx, f.dy, f.port⟩ f.msg)) ∧
    (s.ev.b = true → s.reel1 = [f] → s.inj1 = [] →
      ∃ t, exec .reelFlitRouting s = .next t ∧
        ((f.x ≠ f.dx ∨ f.y ≠ f.dy) → ∃ x y, t = { s with reel1 := [{ f with x := x, y := y }] } ∧ dist x y + 1 = dist f.x f.y) ∧
        (f.x = f.dx → f.y = f.dy → s.canTake f = true → f.nflits ≤ 1 →
          t = ({ s with reel1 := [] } : State).deliver ⟨f.dx, f.dy, f.port⟩ f.msg)) ∧
    (∀ q, s.ev.b = false → s.reel0 = [] → s.inj0 = [q] → q.head? = some f → q.flits.erase f ≠ [] → q.x = f.x → q.y = f.y →
      (f.x ≠ f.dx ∨ f.y ≠ f.dy) → s.refusesFlit q f = false →
      ∃ x y, exec .reelFlitRouting s = .next { s with
          reel0 := [{ f with x := x, y := y, age := 0 }], inj0 := [{ q with waited := 0, throttle := false, last := f.src, flits := q.flits.erase f }] } ∧
        dist x y + 1 = dist f.x f.y) ∧
    (∀ q, s.ev.b = false → s.reel0 = [] → s.inj0 = [q] → q.head? = some f → 0 < f.nflits → s.refusesFlit q f = true →
      ∃ l, exec .reelFlitRouting s = .next { (({ s with inj0 := [] } : State).fenceRefuse (q.y * 48 + q.x) f.msg) with inj0 := l } ∧
        ∀ p ∈ l, p.flits.length < q.flits.length) ∧
    (∀ q, s.ev.b = false → s.inj0 = [q] → s.ev.n = q.x → s.ev.m = q.y →
      exec .reelThrottle s = .next { s with inj0 := [if 512 ≤ q.waited then { q with throttle := true } else q] })

/-- R175, R355, R358, R359, R362: a gateway refuses a request for a package that is absent with NOCORE and counts an answer for one;
sends a message for a package of the pod as the next data frame of its stream on a plane that its generation names; and sends one
for a scale-out peer as a packet of the mode that its ordered flag asks for; the other die takes what this one has no plane or port
for. -/
def Sys2Proof.Claim.GatewaysSend : Prop :=
  ∀ (s : State) (m : Msg),
    let io := s.ev.n
    let q := if io = 0 then s.pod.gate0 else s.pod.gate1
    let u : State := { s with pod := if io = 0 then { s.pod with gate0 := q.eraseIdx s.ev.k } else { s.pod with gate1 := q.eraseIdx s.ev.k } }
    let mark := (tabGet s.pod.map m.dpkg).getD 0
    q[s.ev.k]? = some m →
    (mark = 0 → m.answer = false → exec .gatewayMessage s = .next
      (u.postFrom (coreX (m.rcore % 4096 % numCores)) (if io = 0 then 0 else 47) (Msg.refusal (s.pkg * 4096 + 0xFFE) 6 m))) ∧
    (mark = 0 → m.answer = true → exec .gatewayMessage s = .next (u.count 14)) ∧
    (∀ n, mark = n + 2 → io = 0 → exec .gatewayMessage s = .next { u with pod := { u.pod with gate1 := u.pod.gate1 ++ [m] } }) ∧
    (∀ n p, mark = n + 2 → io ≠ 0 → nextPlane s.pod.ueRr ([36, 37].filter fun p => (s.pod.port p).st == .up) = some p →
      exec .gatewayMessage s = .next { u with pod := { u.pod with
        ueRr := p, ueOut := (n, if m.flag flagOrdered then 0 else 1, p, m) :: u.pod.ueOut } }) ∧
    (mark = 1 → s.pod.planes m.dpkg ≠ [] → (∀ p ∈ s.pod.planes m.dpkg, if io = 0 then 18 ≤ p else p < 18) →
      exec .gatewayMessage s = .next { u with pod := if io = 0 then { u.pod with gate1 := u.pod.gate1 ++ [m] }
        else { u.pod with gate0 := u.pod.gate0 ++ [m] } }) ∧
    (∀ p, mark = 1 →
      let own := (s.pod.planes m.dpkg).filter fun p => if io = 0 then p < 18 else p ≥ 18
      let x := s.pod.txOf m.dpkg m.pclass
      own ≠ [] → s.choosePlane m io own = some p → x.unacked.length < 4096 → x.tseq + 1 < 2 ^ 32 → s.linkKey m.dpkg false = none → x.epoch = 0 →
      x.dpkg = m.dpkg → x.pclass = m.pclass → p < 38 →
      ∃ t f, exec .gatewayMessage s = .next t ∧ t.cores = s.cores ∧
        (m.flag flagOrdered = false → (if io = 0 then t.pod.rr0 else t.pod.rr1) = p) ∧
        f = { dpkg := m.dpkg, spkg := s.pkg, tseq := x.tseq, lseq := (s.pod.port p).lseq, lack := ((s.pod.port p).expect + 4095) % 4096, fkind := 0
              gen := s.pod.gen, pclass := m.pclass, enc := false, ord := m.flag flagOrdered, kep := 0, msg := some m } ∧
        t.pod.out = (p, s.frameBytes f) :: s.pod.out ∧ (t.pod.port p).lseq = ((s.pod.port p).lseq + 1) % 4096 ∧
        (t.pod.port p).unacked.map (·.tseq) = (s.pod.port p).unacked.map (·.tseq) ++ [x.tseq] ∧
        (t.pod.txOf m.dpkg m.pclass).tseq = x.tseq + 1 ∧ (t.pod.txOf m.dpkg m.pclass).unacked.length = x.unacked.length + 1)

/-- R355, R356, R359, R363: a data frame in link sequence on an UP port whose transport sequence is the next of its stream, with no key
for the package, brings its message into the Reel, and the stream expects the next; one out of link sequence is answered with an
ack-only frame, one that has arrived before is counted, and a frame whose CRC fails is counted and answered. -/
def Sys2Proof.Claim.DataFramesArrive : Prop :=
  ∀ (s : State), let k := s.ev.k
    let q := s.pod.port k
    k < 36 → q.st = .up →
    (parseFrame s.ev.data = none → exec .podDataFrame s = .next ((s.count 9).sendAck k)) ∧
    (∀ f body, parseFrame s.ev.data = some (f, body) → f.fkind = 0 →
      let r := s.pod.rxOf f.spkg f.pclass
      (f.lseq ≠ q.expect → exec .podDataFrame s = .next ((s.takeLack k f.lack).sendAck k)) ∧
      (f.lseq = q.expect → r.stopped = false → f.kep = r.epoch → f.enc = false → s.linkKey f.spkg true = none → r.spkg = f.spkg →
        r.pclass = f.pclass →
        ∃ t, exec .podDataFrame s = .next t ∧ (t.pod.port k).expect = (q.expect + 1) % 4096 ∧
          (f.tseq < r.low → t.cores = s.cores ∧ t.inj0 = s.inj0 ∧ t.inj1 = s.inj1 ∧
            t.agent.counters.toList.getD 11 0 = min (s.agent.counters.toList.getD 11 0 + 1) (2 ^ 64 - 1)) ∧
          (f.tseq = r.low → r.got = [] → r.ordered = [] → f.ord = false →
            (t.pod.rxOf f.spkg f.pclass).low = r.low + 1 ∧ (t.pod.rxOf f.spkg f.pclass).got = [] ∧
            ∃ u : State, u.cores = s.cores ∧ u.inj0 = s.inj0 ∧ u.inj1 = s.inj1 ∧ u.pkg = s.pkg ∧ u.agent = s.agent ∧
              let v := u.fromOutside (if k < 18 then 0 else 47) { msgOf (ofBytes (body.take 16)) (body.drop 16) with rsvd := 0 }
              t.cores = v.cores ∧ t.inj0 = v.inj0 ∧ t.inj1 = v.inj1 ∧ t.agent = v.agent)))

/-- R356, R357, R359, R363: an ack-only frame frees the data frames up to its lack and sends the later ones again,
up to the first of a paused class, and counts how often each has been sent again; a transport ack frees
the frames below its tseq; a pause frame names the classes paused; a key change frame starts the stream's epoch anew. -/
def Sys2Proof.Claim.ControlFramesArrive : Prop :=
  ∀ (s : State) (f : LinkFrame) (body : List Byte), let k := s.ev.k
    let q := s.pod.port k
    k < 36 → q.st = .up → parseFrame s.ev.data = some (f, body) →
    (∀ a x b, f.fkind = 1 → q.unacked = a ++ x :: b → x.lseq = f.lack → (∀ y ∈ a, y.lseq ≠ f.lack) →
      ∃ t, exec .podAckOnlyFrame s = .next t ∧ t.cores = s.cores ∧ (t.pod.port k).unacked = b ∧
        (∀ y ∈ b, (tabGet (t.pod.port k).resends y.lseq).getD 0 = (tabGet q.resends y.lseq).getD 0 +
          ((b.takeWhile fun g => !q.paused.testBit g.pclass).filter fun g => g.lseq = y.lseq).length) ∧
        (∀ e ∈ (t.pod.port k).resends, ∃ y ∈ b, y.lseq = e.1) ∧
        t.pod.out = ((b.takeWhile fun g => !q.paused.testBit g.pclass).map fun g => (k, s.frameBytes { g with lack := (q.expect + 4095) % 4096 })).reverse ++ s.pod.out) ∧
    (f.fkind = 2 → s.openFrame f body ≠ none →
      let x := s.pod.txOf f.spkg f.pclass
      x.dpkg = f.spkg → x.pclass = f.pclass →
      ∃ t, exec .podTransportAck s = .next t ∧ t.cores = s.cores ∧
        (f.kep = x.epoch → t.pod.txOf f.spkg f.pclass = { x with unacked := x.unacked.filter fun u => f.tseq ≤ u.1.tseq }) ∧
        (f.kep ≠ x.epoch → t.pod.tx = s.pod.tx)) ∧
    (f.fkind = 3 → s.ev.b = false → ∃ t, exec .podPauseFrame s = .next t ∧ t.cores = s.cores ∧ (t.pod.port k).paused = f.tseq % 16 ∧
      (t.pod.port k).expect = q.expect ∧ t.pod.tx = s.pod.tx ∧ t.pod.rx = s.pod.rx) ∧
    (f.fkind = 4 → s.openFrame f body ≠ none →
      let r := s.pod.rxOf f.spkg f.pclass
      r.spkg = f.spkg → r.pclass = f.pclass →
      ∃ t, exec .podKeyChangeFrame s = .next t ∧ t.cores = s.cores ∧
        (f.kep ≠ r.epoch → (t.pod.rxOf f.spkg f.pclass).epoch = f.kep ∧ (t.pod.rxOf f.spkg f.pclass).low = 0 ∧
          (t.pod.rxOf f.spkg f.pclass).got = [] ∧ (t.pod.rxOf f.spkg f.pclass).stopped = false) ∧
        (f.kep = r.epoch → t.pod.rx = s.pod.rx))

/-- R356, R359, R361: a port with nothing sent for 64 cycles sends an ack-only frame; a stream sends a
transport ack on an UP plane; a gateway pauses the request classes of a port; a frame whose acknowledgement is overdue goes out on another plane; a delivery notice lets the next
ordered message of its sender, core and channel go, which the next notice waits for; a port that passes its training is UP, after a retraining with its sequence anew,
and one that fails three times is FAILED; a port
that loses lock, or has resent a frame sixteen times, trains again. -/
def Sys2Proof.Claim.LinkTimers : Prop :=
  ∀ (s : State), let k := s.ev.k
    let q := s.pod.port k
    (k < 36 → q.st = .up → q.since + 64 ≤ s.agent.counter →
      ∃ t, exec .linkAckTimer s = .next t ∧ t.cores = s.cores ∧ (t.pod.port k).since = s.agent.counter ∧
        t.pod.out = (k, s.frameBytes { spkg := s.pkg, fkind := 1, lseq := q.lseq, lack := (q.expect + 4095) % 4096 }) :: s.pod.out) ∧
    (k < 36 → q.st = .up → s.ev.b = true →
      ∃ t, exec .podPauseFrame s = .next t ∧ t.cores = s.cores ∧ (t.pod.port k).pausing = s.ev.n &&& 5 ∧
        t.pod.out = (k, s.frameBytes { spkg := s.pkg, tseq := s.ev.n &&& 5, fkind := 3, lseq := q.lseq
                                       lack := (q.expect + 4095) % 4096 }) :: s.pod.out) ∧
    (∀ r p, s.pod.rx.find? (fun r => r.spkg == k && r.pclass == s.ev.n) = some r →
      (s.pod.planes r.spkg).find? (fun p => (s.pod.port p).st == .up) = some p → s.linkKey r.spkg false = none →
      ∃ t, exec .transportAckTimer s = .next t ∧ t.cores = s.cores ∧ (t.pod.rxOf r.spkg r.pclass).sinceAck = 0 ∧
        t.pod.out = (p, s.frameBytes { dpkg := r.spkg, spkg := s.pkg, tseq := r.low, fkind := 2, gen := s.pod.gen, pclass := r.pclass
                                       enc := false, kep := r.epoch, lseq := (s.pod.port p).lseq
                                       lack := ((s.pod.port p).expect + 4095) % 4096 }) :: s.pod.out) ∧
    (∀ x f i due p, s.pod.tx.find? (fun x => x.dpkg == k && x.pclass == s.ev.n) = some x →
      x.unacked.find? (fun u => u.1.tseq == s.ev.m) = some (f, i, due) → due ≤ s.agent.counter →
      nextPlane i ((s.pod.planesAt f.gen x.dpkg).filter fun p => p != i && s.pod.takes x.pclass p) = some p → p < 38 →
      ∃ t, exec .transportResendTimeout s = .next t ∧ t.cores = s.cores ∧ p ≠ i ∧
        t.pod.out.head?.map (·.1) = some p ∧ (t.pod.port p).unacked.length = (s.pod.port p).unacked.length + 1 ∧
        ((t.pod.txOf x.dpkg x.pclass).unacked.find? fun u => u.1.tseq == s.ev.m) = some (f, p, s.agent.counter + 200000)) ∧
    (∀ key, s.pod.notices[k]? = some key →
      let u : State := { s with pod := { s.pod with notices := s.pod.notices.eraseIdx k, inOrder := s.pod.inOrder.erase key } }
      (s.pod.rx = [] → s.pod.ueIn = [] → exec .deliveryNotice s = .next u) ∧
      (∀ r n io m rest, s.pod.rx = [r] → s.pod.ueIn = [] → r.ordered = (n, io, m) :: rest → n ≤ r.low → m.dpkg = s.pkg →
        (m.rcore, m.dest, m.chan) = key → key ∉ s.pod.inOrder.erase key → (∀ e ∈ rest, e.2.2.dpkg = s.pkg ∧ (e.2.2.rcore, e.2.2.dest, e.2.2.chan) = key) →
        ∃ t, exec .deliveryNotice s = .next t ∧
          let v := ({ u with pod := { u.pod with inOrder := u.pod.inOrder ++ [key] } } : State).fromOutside (if io then 47 else 0) m
          t = { v with pod := { v.pod with rx := [{ r with ordered := rest }] } }) ∧
      (∀ m rest, s.pod.rx = [] → s.pod.ueIn = (0, true, m) :: rest → m.dpkg = s.pkg → (m.rcore, m.dest, m.chan) = key → key ∉ s.pod.inOrder.erase key →
        (∀ e ∈ rest, e.2.2.dpkg = s.pkg ∧ (e.2.2.rcore, e.2.2.dest, e.2.2.chan) = key) →
        ∃ t, exec .deliveryNotice s = .next t ∧
          let v := ({ u with pod := { u.pod with inOrder := u.pod.inOrder ++ [key] } } : State).fromOutside 47 m
          t = { v with pod := { v.pod with ueIn := rest } })) ∧
    (k < 38 → q.st = .training ∨ q.st = .retrain →
      ∃ t, exec .portTrainingResult s = .next t ∧ t.cores = s.cores ∧ (∀ j, j ≠ k → t.pod.port j = s.pod.port j) ∧
        (s.ev.b = true → q.st = .training → t.pod.port k = { q with st := .up, fails := 0, since := s.agent.counter }) ∧
        (s.ev.b = true → q.st = .retrain → (t.pod.port k).st = .up ∧ (t.pod.port k).fails = 0 ∧ (t.pod.port k).lseq = 0 ∧
          (t.pod.port k).expect = 0 ∧ (t.pod.port k).unacked = []) ∧
        (s.ev.b = false → q.fails < 2 → t.pod.port k = { q with fails := q.fails + 1 }) ∧
        (s.ev.b = false → 2 ≤ q.fails → (t.pod.port k).st = .failed)) ∧
    (k < 38 → q.st = .up → s.ev.b = true ∨ (∃ e ∈ q.resends, 16 ≤ e.2) →
      ∃ t, exec .portLossOfLock s = .next t ∧ t.cores = s.cores ∧ t.pod.port k = { q with st := .retrain, fails := 0 } ∧
        (∀ j, j ≠ k → t.pod.port j = s.pod.port j) ∧ (∀ x ∈ t.pod.tx, ∀ u ∈ x.unacked, u.2.1 = k → u.2.2 = 0))

/-- R362: a packet in a reliable mode on an UP scale-out port brings its message into the Reel at I/O die 1, an ordered one once the
one before it of its sender and channel has been taken; one in another mode is counted. -/
def Sys2Proof.Claim.PacketsArrive : Prop :=
  ∀ (s : State), let d := s.ev.data
    let m : Msg := { msgOf (ofBytes (d.take 16)) (d.drop 16) with rsvd := 0 }
    let key := (m.rcore, m.dest, m.chan)
    (s.pod.port 36).st = .up ∨ (s.pod.port 37).st = .up →
    (s.ev.n ≤ 1 → s.ev.n = 1 ∨ m.flag flagOrdered = false → 16 ≤ d.length → exec .uePacketReceive s = .next (s.fromOutside 47 m)) ∧
    (s.ev.n = 0 → m.flag flagOrdered = true → 16 ≤ d.length → s.pod.ueIn = [] →
      (key ∈ s.pod.inOrder → exec .uePacketReceive s = .next { s with pod := { s.pod with ueIn := [(0, true, m)] } }) ∧
      (key ∉ s.pod.inOrder → ∃ t, exec .uePacketReceive s = .next t ∧ t.pod.ueIn = [] ∧ t.pod.inOrder = s.pod.inOrder ++ [key] ∧
        t.cores = (s.fromOutside 47 m).cores ∧ t.inj0 = (s.fromOutside 47 m).inj0 ∧ t.inj1 = (s.fromOutside 47 m).inj1 ∧
        t.agent = (s.fromOutside 47 m).agent)) ∧
    (1 < s.ev.n → exec .uePacketReceive s = .next (s.count 13))
/-! ### The machine as a whole -/

/-- R61: parcel j of a block. -/
def Sys2Proof.Claim.parcel (d : List Byte) (j : Nat) : Nat := (d.getD (2 * j) 0#8).toNat + 256 * (d.getD (2 * j + 1) 0#8).toNat

/-- R61, R68, R133: where it is core c's turn to issue, its scheduler picks context i, whose block is at hand, and the parcel at its
offset decodes to an instruction (or, odd, begins a word that does), the step is exec of that instruction for that context, which is
RUNNING (R131), and the issue bookkeeping after it. A block with a signature marker is entered first (R71), and nothing behind its
marker is meant here (R70). -/
def Sys2Proof.Claim.FibresRunWhatIsDecoded : Prop :=
  ∀ (s : State) (rest : List Turn) (c i b : Nat) (d : List Byte) (ins : Instr),
    let s0 := { s with turns := rest }
    let x := s0.ctx c i
    let p := Claim.parcel d x.pcOff
    s.turns = .issue c :: rest → c < numCores → (s0.core c).pickFibre = some i → (s0.core c).currentBlock x = some b →
    s0.fetchBlock c x.lvl b = .ready d → (x.signed.isSome ∨ x.pcOff ≠ 0 ∨ markerOf d = none) →
    (∀ m, markerOf d = some m → x.pcOff ≤ m) →
    (p % 2 = 0 ∧ decodeParcel (BitVec.ofNat 16 p) = .ok ins ∨
      p % 2 = 1 ∧ x.pcOff < 31 ∧
        decodeFibreWord (BitVec.ofNat 32 (p + 65536 * Claim.parcel d (x.pcOff + 1))) = .ok ins) →
    step s = afterFibre c i (exec ins { s0.setCtx c i { x with pcBlk := b, st := .running } with cur := .fibre c i, stalled := false })

/-- R146, R147: where it is core c's turn to issue from its harts, and the parcels at the program counter of the hart that issues can be
fetched, the step is exec of the instruction they decode to; where it stalls on hart U, hart N issues. -/
def Sys2Proof.Claim.HartsRunWhatIsDecoded : Prop :=
  ∀ (s s1 : State) (rest : List Turn) (c w : Nat) (u : Bool),
    let s0 := { s with turns := rest }
    let o := exec (decodeHart (BitVec.ofNat 32 w)).1
      { s1 with cur := .hart c u, hop := (decodeHart (BitVec.ofNat 32 w)).2, hraw := BitVec.ofNat 32 w, stalled := false }
    (s0.fetchHart c u = .ok w s1 → stepOneHart s0 c u = o) ∧
    (s.turns = .hart c :: rest → c < numCores → (s0.core c).pickHart = some u → s0.fetchHart c u = .ok w s1 →
      (∀ t, o = .next t → (u = false ∨ t.stalled = false ∨ (t.core c).hartReady false = false) →
        step s = .next { t with cur := .env, stalled := false }) ∧
      (∀ t, o = .next t → u = true → t.stalled = true → (t.core c).hartReady false = true →
        step s = afterOther (stepOneHart t c false)) ∧
      ((∀ t, o ≠ .next t) → step s = o))

/-- R25, R131, R254: a cycle advances the counter of a core, makes its issue slots free and its DISPATCHING contexts READY, and lets
the waits that reach their limit expire next. That turns stand in a queue, that an event's turn runs the event's row with its operands,
and that the schedule gives a turn where none is queued, is the model's own (notes/assumptions/1.md), as are the cycle in which a
DISPATCHING context becomes READY (notes/assumptions/92.md) and the order of what one cycle holds (notes/assumptions/64.md). -/
def Sys2Proof.Claim.TurnsAreTaken : Prop :=
  (∀ (s : State) (rest : List Turn) (ins : Instr) (a : EvArgs), s.turns = .event ins a :: rest →
    step s = afterOther (exec ins { s with turns := rest, ev := a, cur := .env })) ∧
  (∀ (s : State) (rest : List Turn) (c : Nat), s.turns = .tick c :: rest → c < numCores → (s.core c).heldMsgs = [] → (s.core c).inbox.landing = [] →
    (s.core c).haltDue = false →
    ∃ t, step s = .next t ∧ t = { s with turns := (s.core c).expiries c ++ rest, cores := t.cores } ∧ (∀ d, d ≠ c → t.core d = s.core d) ∧
      t.core c = { s.core c with counter := ((s.core c).counter + 1) % 2 ^ 64, doneCtx := [], slotsUsed := 0,
                                   ctxs := (s.core c).ctxs.map fun x => if x.st == .dispatching then { x with st := .ready } else x }) ∧
  (∀ (s : State) (rest : List Turn) (kid : Nat), s.turns = .release kid :: rest → step s = .next (({ s with turns := rest } : State).release kid)) ∧
  (∀ s : State, s.turns = [] →
    step s = step { s with turns := [Config.schedule s.draws], draws := s.draws + 1 })

/-- A step runs the instruction that the bytes where it fetches decode to. Where the spec leaves a point open it states the model's own
choice: notes/assumptions/1.md, 64.md, 92.md. -/
def Obligations.StepRunsDecoded : Prop :=
  Claim.FibresRunWhatIsDecoded ∧ Claim.HartsRunWhatIsDecoded ∧ Claim.TurnsAreTaken

/-- R133, R147: the scheduler. The Fibre picked is READY and has not issued in this cycle; an urgent one goes before every normal one,
and within a level it is the first from the one after the last selected, wrapping from 31 to 0; a normal one is picked only while the
normal level is LIVE, and none is picked only where none may issue. Hart U goes before hart N. -/
def Obligations.SchedulerPicks : Prop :=
  ∀ (k : Core),
    let may (j : Nat) := j < 32 ∧ (k.ctx j).st = .ready ∧ j ∉ k.doneCtx ∧ ((k.ctx j).lvl = true ∨ k.level = .live)
    let after (j : Nat) := (j + 32 - ((if (k.ctx j).lvl then k.ptrU else k.ptrN) + 1) % 32) % 32
    (∀ i, k.pickFibre = some i → k.stopped = false ∧ k.slotsUsed < 8 ∧ may i ∧
      ((k.ctx i).lvl = false → ∀ j, may j → (k.ctx j).lvl = false) ∧
      (∀ j, may j → (k.ctx j).lvl = (k.ctx i).lvl → after i ≤ after j)) ∧
    (k.pickFibre = none → k.stopped = true ∨ 8 ≤ k.slotsUsed ∨ ∀ j, ¬ may j) ∧
    (∀ u, k.pickHart = some u → k.hartReady u = true ∧ (u = false → k.hartReady true = false)) ∧
    (k.pickHart = none → ∀ u, k.hartReady u = false)

/-- R7, R25, R128, R129, R148: the package after power-on reset. Every core's cycle counter reads zero; its urgent reserve is 8; every
context is FREE; both harts are FREE with the writable CSRs jdivec, jdie, jdepc and jdimsg zero; no channel entry, hank or box is enabled; no Skein lives;
every full/empty word is EMPTY; no fence entry is in use, no kernel exists and no memory request is outstanding. That a FREE context
has no registers, cause 0 and the mode bit clear is the model's choice: the spec gives no value (notes/assumptions/8.md). -/
def Obligations.ResetLeaves : Prop :=
  let s := State.reset
  (∀ c, c < numCores →
    let k := s.core c
    k.counter = 0 ∧ k.reserve = 8 ∧ k.table = [] ∧ k.handlers = [] ∧ k.shape = [] ∧ k.tlb.entries = [] ∧
    k.hanks = Vector.replicate 16 0#128 ∧ k.skeins = Vector.replicate 16 none ∧ (∀ b, b < 16 → (k.boxes.toList.getD b {}).on = false) ∧
    (∀ i, i < 32 → (k.ctx i).st = .free ∧ (k.ctx i).nreg = 0 ∧ (k.ctx i).cause = 0 ∧ (k.ctx i).bmode = false) ∧
    (∀ u, (k.hart u).st = .free ∧ (k.hart u).jdivec = 0#64 ∧ (k.hart u).jdieE = false ∧ (k.hart u).jdieA = false ∧
      (k.hart u).jdepc = 0#64 ∧ (k.hart u).jdimsg = 0#64)) ∧
  (∀ l : Loc, s.isFull l = false) ∧
  (∀ j, j < 32 → (s.fence j).st = .free) ∧ s.agent.kernels = [] ∧ s.agent.roots = [] ∧ s.agent.keys = [] ∧ s.reqs = []

/-- R364, R365: no two fence entries in use overlap, each lies in the array of 48 by 48 cores, and each names a tenant. -/
def Sys2Proof.Claim.fencesApart (s : State) : Prop :=
  (∀ j, j < 32 → (s.fence j).st ≠ .free →
    (s.fence j).x0 + (s.fence j).wm ≤ 47 ∧ (s.fence j).y0 + (s.fence j).hm ≤ 47 ∧ (s.fence j).tenant ≤ 1022) ∧
  (∀ i j, i < 32 → j < 32 → i ≠ j → (s.fence i).st ≠ .free → (s.fence j).st ≠ .free →
    (s.fence i).x0 + (s.fence i).wm < (s.fence j).x0 ∨ (s.fence j).x0 + (s.fence j).wm < (s.fence i).x0 ∨
    (s.fence i).y0 + (s.fence i).hm < (s.fence j).y0 ∨ (s.fence j).y0 + (s.fence j).hm < (s.fence i).y0)

/-- R364, R365: fence rectangles stay apart: from every state where no two entries in use overlap and each lies in the array, each step
goes to such a state, whatever runs. -/
def Obligations.FencesStayApart : Prop :=
  ∀ (s t : State), Claim.fencesApart s → step s = .next t → Claim.fencesApart t

/-- R7, R364: the rectangles are apart after reset. -/
def Obligations.FencesApartAtReset : Prop := Claim.fencesApart State.reset

/-! ### Encodings -/

/-- R61 to R69: decoding an encoded instruction gives it back, for every 32-bit word of the Fibres and every value of its operands. -/
def Obligations.FibreWordsRoundTrip : Prop :=
  ∀ (i : Instr) (w : BitVec 32), i.wf = true → encodeFibreWord i = some w → decodeFibreWord w = .ok i

/-- R62, R66, R73: decoding an encoded instruction gives it back, for every parcel and every jd word. -/
def Obligations.ParcelsAndJdWordsRoundTrip : Prop :=
  ∀ (i : Instr), i.wf = true →
    (∀ p, encodeParcel i = some p → decodeParcel p = .ok i) ∧ (∀ w, encodeJdWord i = some w → decodeJdWord w = some i)

/-- The words of the spec's worked examples, and a few more of its encodings, decode to the instructions they stand for. -/
def Obligations.DecodedWords : Prop :=
  decodeFibreWord 0x020104E7 = .ok (.getx 8 9) ∧ decodeFibreWord 0x9438C281 = .ok (.addsS 2 .w16 7 6 5) ∧
  decodeFibreWord 0x00388D61 = .ok (.bAll 7 4 1) ∧ decodeFibreWord 0x0438C2A5 = .ok (.addFp .rup 7 6 5 .f32) ∧
  decodeFibreWord 0x00088119 = .ok (.cinc 1 4 2) ∧ decodeFibreWord 0x009121C1 = .ok (.ld 2 .b32 9 3) ∧
  decodeFibreWord 0xA01160C5 = .ok (.stRel .pkg 0 .b32 11 1) ∧ decodeFibreWord 0x04016569 = .ok (.join 11 10) ∧
  decodeFibreWord 0x0261054F = .ok (.sendr 12 8 10) ∧ decodeFibreWord 0x101121B5 = .ok (.rsq .f32 9 3) ∧
  decodeParcel 0x10A2 = .ok (.parcelAddF32 2 2) ∧ decodeParcel 0x003E = .ok .endParcel ∧
  decodeJdWord 0x000E05AB = some (.jdSend 28 11) ∧ decodeJdWord 0x0005957B = some (.jdName 11 10)

/-! ### The statements: each holds all of its parts -/

/-- Lane-wise integer instructions and integer parcels: every lane of the result, and nothing else changes (R66, R83, R85, R88).
Each part holds for every state and every operand. -/
def Obligations.IntegerLanes : Prop :=
  Claim.LaneResultsOfTwoSources ∧ Claim.LaneResultsOfOneSource ∧ Claim.IntegerParcels

/-- sel, movi, mov, shuf, perm, zip, unzip, ext, ins, bcst: every lane and the tag of the result (R87, R88, R89). Each part holds
for every state and every operand. -/
def Obligations.LaneMoves : Prop :=
  Claim.WholeRegisterLanes ∧ Claim.MaskedLaneMoves ∧ Claim.RegisterMoves

/-- Compares, mask logic, kset, getx, setx, rdc, rdid and peer: what they write and what stays (R25, R56, R57, R59, R60, R86, R87,
R141). Each part holds for every state and every operand. -/
def Obligations.MasksAndSpecialRegisters : Prop :=
  Claim.MaskResults ∧ Claim.RegisterReads ∧ Claim.SetxWrites

/-- cinc, cset and the capability reads: address, bounds and tag of the result (R93, R95, R97). Each part holds for every state
and every operand. -/
def Obligations.CapabilityAddressing : Prop :=
  Claim.CapabilityAddresses ∧ Claim.CapabilityReads

/-- Capability bounds decode exactly, and cbnd narrows and never widens (R94, R96). Each part holds for every state and every
operand. -/
def Obligations.CapabilityNarrowing : Prop :=
  Claim.BoundsDecodeExactly ∧ Claim.CapabilityBounds ∧ Claim.CapabilityRoundedBounds

/-- tix divides its index exactly by the extents; the tensor instructions write what their rules give (R98, R99, R100, R101). Each
part holds for every state and every operand. -/
def Obligations.TensorIndexing : Prop :=
  Claim.TixDividesExactly ∧ Claim.TensorOperations

/-- Branches, jumps and links: where they go, what they link, and when fetch_check passes (R71, R102, R103, R139). Each part holds
for every state and every operand. Where the spec leaves a point open it states the model's own choice:
notes/assumptions/106.md. -/
def Obligations.ControlFlow : Prop :=
  Claim.Branches ∧ Claim.JumpsAndLinks ∧ Claim.FetchCheckPasses

/-- bfetch, bjump, nop, the end of a block, stop and the waits on a peer (R62, R104, R137, R139, R140, R141). Each part holds for
every state and every operand. Where the spec leaves a point open it states the model's own choice: notes/assumptions/24.md,
48.md. -/
def Obligations.BlocksAndStops : Prop :=
  Claim.BlockControl ∧ Claim.NopAndBlockEnd ∧ Claim.Stops ∧ Claim.PeerWaits

/-- Floating-point arithmetic and functions by lane: the rounded exact result, its flags and the frame (R47, R66, R107, R111,
R112, R124, R125, R126). Each part holds for every state and every operand. Where the spec leaves a point open it states the
model's own choice: notes/assumptions/25.md, 26.md. -/
def Obligations.FloatLanes : Prop :=
  Claim.FloatArithmetic ∧ Claim.FloatFunctions

/-- Floating-point compares, classification, and the reductions rsum, rmax and dot (R47, R48, R114, R115, R116, R117, R118). Each
part holds for every state and every operand. Where the spec leaves a point open it states the model's own choice:
notes/assumptions/25.md. -/
def Obligations.FloatComparesAndReductions : Prop :=
  Claim.FloatComparesAndClasses ∧ Claim.FloatReductions

/-- Conversions between types, where they complete, and rounding that brackets the exact value (R34, R38, R39, R120, R121, R122,
R123). Each part holds for every state and every operand. -/
def Obligations.ConversionsAndRounding : Prop :=
  Claim.Conversions ∧ Claim.ConversionsRetire ∧ Claim.EightBitInfinities ∧ Claim.RoundingBrackets

/-- Loads and stores of Fibres: what they request, what becomes PENDING, and what they leave (R55, R269, R272, R273, R275, R277,
R280, R287, R371). Each part holds for every state and every operand. Where the spec leaves a point open it states the model's
own choice: notes/assumptions/90.md. -/
def Obligations.LoadsAndStores : Prop :=
  Claim.LoadsIssue ∧ Claim.StoresIssue ∧ Claim.AccessPieces

/-- Gathers, scatters, broadcast loads and the atomics of Fibres (R272, R281, R282, R283). Each part holds for every state and
every operand. -/
def Obligations.ManyLaneAccesses : Prop :=
  Claim.GathersAndScatters ∧ Claim.AtomicsIssue

/-- The checks of an access in their order with the cause of each, and the fences of Fibres (R272, R280). Each part holds for
every state and every operand. -/
def Obligations.ChecksAndFences : Prop :=
  Claim.AccessChecks ∧ Claim.FencesHoldBack

/-- Full/empty instructions in the scratchpad and at other homes (R254, R258, R259, R261). Each part holds for every state and
every operand. -/
def Obligations.FullEmptyWords : Prop :=
  Claim.FullEmptyInScratchpad ∧ Claim.FullEmptyWaits

/-- jc.init, jc.add, jc.dec and jc.wait in the scratchpad and at other homes (R254, R265, R266). Each part holds for every state
and every operand. -/
def Obligations.JoinCounters : Prop :=
  Claim.JoinUpdatesInScratchpad ∧ Claim.JoinUpdatesPosted ∧ Claim.JoinWaits

/-- hold, holdm, pres, and the deposits that Fibres send (R222, R223, R224, R225, R226, R231). Each part holds for every state and
every operand. -/
def Obligations.HoldsAndDeposits : Prop :=
  Claim.HoldingRegisters ∧ Claim.DepositsAreSent

/-- send, sendr, reply, wrep, channel enables and hank operations of Fibres (R196, R197, R198, R199, R200, R202, R213, R244,
R371). Each part holds for every state and every operand. Where the spec leaves a point open it states the model's own choice:
notes/assumptions/104.md. -/
def Obligations.FibreMessages : Prop :=
  Claim.FibreSends ∧ Claim.FibreReplies ∧ Claim.ChannelsAndHanks

/-- join, leave and the Skimmer commands of Fibres (R208, R212, R213, R220, R221, R371). Each part holds for every state and every
operand. Where the spec leaves a point open it states the model's own choice: notes/assumptions/71.md, 104.md. -/
def Obligations.GroupsAndBoxes : Prop :=
  Claim.JoiningAndLeaving ∧ Claim.SkimmerCommands

/-- RV64 integer instructions of a hart: the value written, and nothing else changes (R146, R148). Each part holds for every state
and every operand. -/
def Obligations.HartIntegers : Prop :=
  Claim.HartComputes ∧ Claim.HartArithmetic ∧ Claim.HartImmediates ∧ Claim.HartUnaries

/-- Jumps, branches, traps and CSR writes of a hart (R74, R146, R148, R150, R151, R152). Each part holds for every state and every
operand. Where the spec leaves a point open it states the model's own choice: notes/assumptions/65.md. -/
def Obligations.HartControl : Prop :=
  Claim.HartJumps ∧ Claim.HartTraps ∧ Claim.CsrWrites

/-- Loads and stores of a hart, in the scratchpad, its windows and memory (R149, R185, R187, R270, R284). Each part holds for
every state and every operand. Where the spec leaves a point open it states the model's own choice: notes/assumptions/31.md. -/
def Obligations.HartMemory : Prop :=
  Claim.HartLoads ∧ Claim.HartStores

/-- AMO, lr, sc and the fences of a hart (R146, R284, R285, R286). Each part holds for every state and every operand. Where the
spec leaves a point open it states the model's own choice: notes/assumptions/32.md, 65.md. -/
def Obligations.HartAtomicsAndFences : Prop :=
  Claim.HartAtomics ∧ Claim.HartFences

/-- jd.send, jd.sendx, jd.ack, jd.recv, jd.tryrecv, the channel commands of a hart, jd.skm, jd.name and jd.cnt (R187, R197, R201,
R202, R204, R205, R206, R207, R212, R213, R219, R248). Each part holds for every state and every operand. Where the spec
leaves a point open it states the model's own choice: notes/assumptions/36.md, 87.md, 96.md. -/
def Obligations.HartMessages : Prop :=
  Claim.HartSends ∧ Claim.HartReceives ∧ Claim.HartChannels ∧ Claim.HartUnits

/-- Allocation, start, stop, broadcast and status of Skeins, and the registers of their contexts (R154, R155, R156, R157, R158,
R159, R371). Each part holds for every state and every operand. Where the spec leaves a point open it states the model's own
choice: notes/assumptions/47.md, 69.md. -/
def Obligations.Skeins : Prop :=
  Claim.SkeinAllocation ∧ Claim.SkeinControl ∧ Claim.SkeinStatusAndContexts

/-- The issue of Twister and Carder commands: what each check refuses and what a command that passes holds (R295, R296, R299,
R301, R303, R308, R311, R317, R319, R320, R324, R327). Each part holds for every state and every operand. Where the spec
leaves a point open it states the model's own choice: notes/assumptions/50.md, 57.md, 60.md. -/
def Obligations.EngineCommands : Prop :=
  Claim.TwisterCommands ∧ Claim.CarderCommands ∧ Claim.EngineChecks

/-- jd.twclr, jd.twswp, jd.twdom, jd.twclaim, jd.twq, and the save and restore of the Twister: what they do and where they
complete (R299, R305, R308, R312, R313). Each part holds for every state and every operand. Where the spec leaves a point open
it states the model's own choice: notes/assumptions/51.md. -/
def Obligations.TwisterState : Prop :=
  Claim.TwisterControl ∧ Claim.TwisterImages ∧ Claim.TwisterInstructionsRetire

/-- Homes serve reads, writes and atomics, also of other packages, and stores clear tags (R273, R278, R283, R286, R288, R332,
R336, R341, R368). Each part holds for every state and every operand. Where the spec leaves a point open it states the model's
own choice: notes/assumptions/65.md, 98.md. -/
def Obligations.HomesServe : Prop :=
  Claim.HomeReadsAndWrites ∧ Claim.StoresClearTags ∧ Claim.HomeAtomics ∧ Claim.OtherPackagesAccess

/-- Full/empty words and join counters at their homes, their waiters, cancels and retries (R255, R258, R259, R265, R340, R341).
Each part holds for every state and every operand. -/
def Obligations.HomesWait : Prop :=
  Claim.HomeFullEmpty ∧ Claim.HomeServesReaders ∧ Claim.HomeJoinCounters ∧ Claim.CancelsAndRetries

/-- Answers of loads, atomics, writes and hart accesses land where their instruction says (R275, R277, R278, R281, R283, R284,
R368). Each part holds for every state and every operand. Where the spec leaves a point open it states the model's own choice:
notes/assumptions/27.md, 66.md. -/
def Obligations.AnswersLand : Prop :=
  Claim.LoadsLand ∧ Claim.AtomicsAndWritesLand ∧ Claim.HartAccessesEnd

/-- Answers of waits land, wait limits pass, blocks arrive and contexts drain (R42, R131, R135, R136, R140, R217, R221, R254,
R255, R261, R265, R266). Each part holds for every state and every operand. -/
def Obligations.ServicesAndLimits : Prop :=
  Claim.ServiceAnswers ∧ Claim.WaitLimits ∧ Claim.BlocksAndDrains

/-- The translation buffer, its misses and their walks, fills and refusals (R131, R326, R335, R336, R337, R339, R344). Each part
holds for every state and every operand. Where the spec leaves a point open it states the model's own choice:
notes/assumptions/62.md. -/
def Obligations.Translation : Prop :=
  Claim.BufferLookups ∧ Claim.MissesAreWalked ∧ Claim.FillsAndRefusals

/-- Shootdowns, the copy of a page, and frames that retire or are poisoned (R286, R338, R339, R340, R342). Each part holds for
every state and every operand. -/
def Obligations.PagesMove : Prop :=
  Claim.Shootdowns ∧ Claim.PageCopies ∧ Claim.FramesRetire

/-- Uncorrectable and correctable errors, lasting faults and timing margins (R338, R347, R369, R375, R377). Each part holds for
every state and every operand. Where the spec leaves a point open it states the model's own choice: notes/assumptions/75.md. -/
def Obligations.ErrorsAndFaults : Prop :=
  Claim.ErrorsStrike ∧ Claim.FaultsAndMargins

/-- The normal level halts, is saved and is restored (R131, R132, R161, R162, R163, R164, R165, R168, R169, R170, R238). Each part
holds for every state and every operand. Where the spec leaves a point open it states the model's own choice:
notes/assumptions/5.md, 34.md. -/
def Obligations.Preemption : Prop :=
  Claim.NormalLevelHalts ∧ Claim.ImagesAreSaved ∧ Claim.ImagesAreRestored

/-- Requests and answers that arrive at a core are queued, refused or counted (R175, R176, R177, R179, R180, R246). Each part
holds for every state and every operand. Where the spec leaves a point open it states the model's own choice:
notes/assumptions/17.md. -/
def Obligations.MessagesArrive : Prop :=
  Claim.RequestsArrive ∧ Claim.AnswersArrive

/-- Dispatch creates Fibres, and starts, interrupts or wakes harts (R131, R150, R185, R188, R189, R190, R191, R192, R205, R242,
R245). Each part holds for every state and every operand. Where the spec leaves a point open it states the model's own choice:
notes/assumptions/16.md, 91.md, 92.md. -/
def Obligations.Dispatches : Prop :=
  Claim.DispatchCreatesFibres ∧ Claim.DispatchToHarts

/-- Fault replies settle, answers of sendr land, and deposits write HELD registers (R145, R171, R177, R184, R197, R218, R227,
R228, R229, R375). Each part holds for every state and every operand. Where the spec leaves a point open it states the model's
own choice: notes/assumptions/48.md, 73.md, 88.md, 94.md. -/
def Obligations.RepliesAndDepositsLand : Prop :=
  Claim.FaultRepliesSettle ∧ Claim.SendrAnswersLand ∧ Claim.DepositsArrive ∧ Claim.DepositsLand

/-- Name servers forward deposits, names are given and arrive, and Skeins migrate (R215, R216, R217, R218, R219, R220, R231). Each
part holds for every state and every operand. Where the spec leaves a point open it states the model's own choice:
notes/assumptions/49.md, 63.md. -/
def Obligations.Names : Prop :=
  Claim.NameServersForward ∧ Claim.NamesAreGiven ∧ Claim.NamesArrive ∧ Claim.SkeinsMigrate

/-- Whatever the order of the puts, a box keeps its highest-ranked entries; beats cross the side links (R209, R210, R211, R345,
R346, R347). Each part holds for every state and every operand. Where the spec leaves a point open it states the model's own
choice: notes/assumptions/30.md, 99.md. -/
def Obligations.BoxesKeepTheHighest : Prop :=
  Claim.PutsKeepTheHighest ∧ Claim.PutsAreRanked ∧ Claim.SideLinksCarry

/-- Matrix products, epilogues and the rotation of latches as they run (R47, R50, R301, R304, R305, R306, R307, R308, R309, R310,
R311). Each part holds for every state and every operand. Where the spec leaves a point open it states the model's own choice:
notes/assumptions/25.md, 37.md, 53.md, 54.md. -/
def Obligations.TwisterRuns : Prop :=
  Claim.MatrixProducts ∧ Claim.KGroupsRoundOnce ∧ Claim.Epilogues ∧ Claim.LatchesRotate

/-- Carder copies, puts, fills and conversions write their bytes; commands by message; deal blocks leave and land (R36, R296,
R317, R318, R321, R323, R324, R329). Each part holds for every state and every operand. Where the spec leaves a point open it
states the model's own choice: notes/assumptions/58.md. -/
def Obligations.CarderRuns : Prop :=
  Claim.CarderMoves ∧ Claim.CarderPacks ∧ Claim.CarderMessages ∧ Claim.DealBlocksLeave ∧ Claim.DealBlocksLand

/-- Malformed host commands, LAUNCH, the checks of a kernel, and its release once it is over (R42, R181, R233, R234, R235, R236,
R237, R251, R252, R385, R386, R392). Each part holds for every state and every operand. Where the spec leaves a point open it
states the model's own choice: notes/assumptions/85.md, 110.md. -/
def Obligations.LaunchChecks : Prop :=
  Claim.MalformedCommands ∧ Claim.LaunchReadsRecords ∧ Claim.KernelsAreChecked ∧ Claim.KernelsAreReleased

/-- Kernels are placed and started, and sweeps end them (R175, R235, R237, R238, R239, R240, R241, R242, R243, R249, R250, R370).
Each part holds for every state and every operand. Where the spec leaves a point open it states the model's own choice:
notes/assumptions/40.md, 41.md, 95.md, 110.md. -/
def Obligations.KernelsRun : Prop :=
  Claim.KernelsArePlaced ∧ Claim.KernelsStart ∧ Claim.SweepsEndKernels

/-- MAP and MIGRATE: roots, regions, leaves installed, removed and moved; and TELEMETRY (R332, R333, R338, R339, R340, R343, R368,
R378, R379, R386, R413). Each part holds for every state and every operand. Where the spec leaves a point open it states the
model's own choice: notes/assumptions/14.md, 78.md, 80.md. -/
def Obligations.MapCommands : Prop :=
  Claim.RootsAndRegions ∧ Claim.LeavesAreInstalled ∧ Claim.LeavesAreRemovedAndMoved ∧ Claim.TelemetryReports

/-- FENCE_RECT and RESET_RECT, and how a group reset finishes (R7, R364, R365, R367). Each part holds for every state and every
operand. Where the spec leaves a point open it states the model's own choice: notes/assumptions/79.md, 81.md. -/
def Obligations.GroupFences : Prop :=
  Claim.FencesAreCommanded ∧ Claim.GroupResetsFinish

/-- KEY_LOAD, ATTEST, SPARE_SWAP, NAME_RANGE and POD_CONFIG (R215, R358, R360, R361, R362, R363, R376, R378, R381, R387, R388).
Each part holds for every state and every operand. Where the spec leaves a point open it states the model's own choice:
notes/assumptions/81.md. -/
def Obligations.HostCommands : Prop :=
  Claim.KeysAreLoaded ∧ Claim.AttestationSparesAndNames ∧ Claim.PodIsConfigured

/-- The windows of the host, firmware update and heat, and the resets of the package (R7, R17, R375, R379, R383, R384, R385, R387,
R390, R391). Each part holds for every state and every operand. Where the spec leaves a point open it states the model's own
choice: notes/assumptions/10.md, 14.md, 46.md, 79.md, 81.md, 111.md. -/
def Obligations.WindowsAndResets : Prop :=
  Claim.HostWindows ∧ Claim.FirmwareAndHeat ∧ Claim.Resets

/-- Flits travel the Reel, and gateways send what leaves the package (R175, R349, R350, R351, R353, R355, R358, R359, R362, R366).
Each part holds for every state and every operand. -/
def Obligations.FlitsAndGateways : Prop :=
  Claim.FlitsTravel ∧ Claim.GatewaysSend

/-- Frames and packets that arrive from other packages, and the timers of the links (R355, R356, R357, R359, R361, R362, R363).
Each part holds for every state and every operand. Where the spec leaves a point open it states the model's own choice:
notes/assumptions/77.md, 103.md. -/
def Obligations.Frames : Prop :=
  Claim.DataFramesArrive ∧ Claim.ControlFramesArrive ∧ Claim.LinkTimers ∧ Claim.PacketsArrive
end

