-- ==== Sys2Proof/Laws/Mem.lean ====
section
/-! SUPPORT. Laws of tables, sorted sets and memories: a read after a write, and the canonical form, which every memory
operation keeps. -/

namespace Sys2Proof.Machine

/-! ### Tables -/

/-- A key's value after it was set. -/
@[simp] theorem tabGet_tabSet_self (t : Tab α) (k : Nat) (v : α) : tabGet (tabSet t k v) k = some v := by
  induction t with
  | nil => simp [tabSet, tabGet]
  | cons p r ih =>
    obtain ⟨a, b⟩ := p
    simp only [tabSet]
    split
    · simp [tabGet]
    · split
      · simp [tabGet]
      · next h => simp [tabGet, Ne.symm h, ih]

/-- Another key's value after a key was set. -/
theorem tabGet_tabSet_ne (t : Tab α) {k j : Nat} (v : α) (h : j ≠ k) : tabGet (tabSet t k v) j = tabGet t j := by
  induction t with
  | nil => simp [tabSet, tabGet, Ne.symm h]
  | cons p r ih =>
    obtain ⟨a, b⟩ := p
    simp only [tabSet]
    split
    · simp [tabGet, Ne.symm h]
    · split
      · next h2 => subst h2; simp [tabGet, Ne.symm h]
      · simp [tabGet, ih]

/-- A key below every key of a sorted table is not in it. -/
theorem tabGet_lt (t : Tab α) (k a : Nat) (b : α) (hs : tabSorted ((a, b) :: t) = true) (h : k < a) :
    tabGet ((a, b) :: t) k = none := by
  induction t generalizing a b with
  | nil => simp [tabGet]; omega
  | cons p r ih =>
    obtain ⟨a', b'⟩ := p
    simp only [tabSorted, Bool.and_eq_true, decide_eq_true_eq] at hs
    have := ih a' b' hs.2 (by omega)
    rw [tabGet]; simp [this]; omega

/-- A key's value after it was removed from a sorted table. -/
theorem tabGet_tabErase_self (t : Tab α) (k : Nat) (hs : tabSorted t = true) : tabGet (tabErase t k) k = none := by
  induction t with
  | nil => simp [tabErase, tabGet]
  | cons p r ih =>
    obtain ⟨a, b⟩ := p
    have hr : tabSorted r = true := by
      cases r with
      | nil => rfl
      | cons q r' => simp only [tabSorted, Bool.and_eq_true] at hs; exact hs.2
    simp only [tabErase]
    split
    · next h =>
      subst h
      cases r with
      | nil => simp [tabGet]
      | cons q r' =>
        obtain ⟨a', b'⟩ := q
        simp only [tabSorted, Bool.and_eq_true, decide_eq_true_eq] at hs
        exact tabGet_lt r' a a' b' hs.2 hs.1
    · next h => simp [tabGet, h, ih hr]

/-- Another key's value after a key was removed. -/
theorem tabGet_tabErase_ne (t : Tab α) {k j : Nat} (h : j ≠ k) : tabGet (tabErase t k) j = tabGet t j := by
  induction t with
  | nil => simp [tabErase]
  | cons p r ih =>
    obtain ⟨a, b⟩ := p
    simp only [tabErase]
    split
    · next h2 => subst h2; simp [tabGet, Ne.symm h]
    · simp [tabGet, ih]

/-- The tail of a sorted table is sorted. -/
theorem tabSorted_tail {p : Nat × α} {r : Tab α} (h : tabSorted (p :: r) = true) : tabSorted r = true := by
  cases r with
  | nil => rfl
  | cons q r' =>
    obtain ⟨a, b⟩ := p
    simp only [tabSorted, Bool.and_eq_true] at h
    exact h.2

/-- Sortedness of a table with a head. -/
theorem tabSorted_cons (a : Nat) (b : α) (r : Tab α) :
    tabSorted ((a, b) :: r) = true ↔ (∀ q ∈ r, a < q.1) ∧ tabSorted r = true := by
  induction r generalizing a b with
  | nil => simp [tabSorted]
  | cons q r ih =>
    obtain ⟨a', b'⟩ := q
    rw [tabSorted, Bool.and_eq_true, decide_eq_true_eq, ih]
    constructor
    · rintro ⟨h, h2, h3⟩
      refine ⟨?_, h2, h3⟩
      intro q hq
      rcases List.mem_cons.1 hq with rfl | hq
      · exact h
      · exact Nat.lt_trans h (h2 q hq)
    · rintro ⟨h, h2, h3⟩
      exact ⟨h (a', b') (by simp), h2, h3⟩

/-- What a table holds after a key was set. -/
theorem mem_tabSet {t : Tab α} {k : Nat} {v : α} {q : Nat × α} (h : q ∈ tabSet t k v) : q = (k, v) ∨ q ∈ t := by
  induction t with
  | nil => simpa [tabSet] using h
  | cons p r ih =>
    obtain ⟨a, b⟩ := p
    simp only [tabSet] at h
    split at h
    · rcases List.mem_cons.1 h with h | h
      · exact .inl h
      · exact .inr h
    · split at h
      · rcases List.mem_cons.1 h with h | h
        · exact .inl h
        · exact .inr (List.mem_cons_of_mem _ h)
      · rcases List.mem_cons.1 h with h | h
        · exact .inr (h ▸ List.mem_cons_self)
        · rcases ih h with h | h
          · exact .inl h
          · exact .inr (List.mem_cons_of_mem _ h)

/-- What a table holds after a key was removed was in it. -/
theorem mem_tabErase {t : Tab α} {k : Nat} {q : Nat × α} (h : q ∈ tabErase t k) : q ∈ t := by
  induction t with
  | nil => simp [tabErase] at h
  | cons p r ih =>
    obtain ⟨a, b⟩ := p
    simp only [tabErase] at h
    split at h
    · exact List.mem_cons_of_mem _ h
    · rcases List.mem_cons.1 h with h | h
      · exact h ▸ List.mem_cons_self
      · exact List.mem_cons_of_mem _ (ih h)

/-- Setting a key keeps a table sorted. -/
theorem tabSorted_tabSet {t : Tab α} (k : Nat) (v : α) (h : tabSorted t = true) : tabSorted (tabSet t k v) = true := by
  induction t with
  | nil => rfl
  | cons p r ih =>
    obtain ⟨a, b⟩ := p
    have h1 := (tabSorted_cons a b r).1 h
    simp only [tabSet]
    split
    · next hk =>
      refine (tabSorted_cons _ _ _).2 ⟨?_, h⟩
      intro q hq
      rcases List.mem_cons.1 hq with rfl | hq
      · exact hk
      · exact Nat.lt_trans hk (h1.1 q hq)
    · split
      · next hk => subst hk; exact (tabSorted_cons _ _ _).2 h1
      · refine (tabSorted_cons _ _ _).2 ⟨?_, ih h1.2⟩
        intro q hq
        rcases mem_tabSet hq with rfl | hq
        · show a < k; omega
        · exact h1.1 q hq

/-- Removing a key keeps a table sorted. -/
theorem tabSorted_tabErase {t : Tab α} (k : Nat) (h : tabSorted t = true) : tabSorted (tabErase t k) = true := by
  induction t with
  | nil => rfl
  | cons p r ih =>
    obtain ⟨a, b⟩ := p
    have h1 := (tabSorted_cons a b r).1 h
    simp only [tabErase]
    split
    · exact h1.2
    · exact (tabSorted_cons _ _ _).2 ⟨fun q hq => h1.1 q (mem_tabErase hq), ih h1.2⟩

/-- A part of a sorted table is sorted. -/
theorem tabSorted_filter {t : Tab α} (p : Nat × α → Bool) (h : tabSorted t = true) : tabSorted (t.filter p) = true := by
  induction t with
  | nil => rfl
  | cons q r ih =>
    obtain ⟨a, b⟩ := q
    have h1 := (tabSorted_cons a b r).1 h
    rw [List.filter_cons]
    split
    · exact (tabSorted_cons _ _ _).2 ⟨fun q hq => h1.1 q (List.mem_filter.1 hq).1, ih h1.2⟩
    · exact ih h1.2

/-! ### Sorted sets -/

/-- Sortedness of a set with a head. -/
theorem setSorted_cons (a : Nat) (r : List Nat) : setSorted (a :: r) = true ↔ (∀ q ∈ r, a < q) ∧ setSorted r = true := by
  induction r generalizing a with
  | nil => simp [setSorted]
  | cons b r ih =>
    rw [setSorted, Bool.and_eq_true, decide_eq_true_eq, ih]
    constructor
    · rintro ⟨h, h2, h3⟩
      refine ⟨?_, h2, h3⟩
      intro q hq
      rcases List.mem_cons.1 hq with rfl | hq
      · exact h
      · exact Nat.lt_trans h (h2 q hq)
    · rintro ⟨h, h2, h3⟩
      exact ⟨h b (by simp), h2, h3⟩

/-- What a set holds after a number was added. -/
theorem mem_setAdd {l : List Nat} {a q : Nat} (h : q ∈ setAdd l a) : q = a ∨ q ∈ l := by
  induction l with
  | nil => simpa [setAdd] using h
  | cons b r ih =>
    simp only [setAdd] at h
    split at h
    · rcases List.mem_cons.1 h with h | h
      · exact .inl h
      · exact .inr h
    · split at h
      · exact .inr h
      · rcases List.mem_cons.1 h with h | h
        · exact .inr (h ▸ List.mem_cons_self)
        · rcases ih h with h | h
          · exact .inl h
          · exact .inr (List.mem_cons_of_mem _ h)

/-- Adding a number keeps a set sorted. -/
theorem setSorted_setAdd {l : List Nat} (a : Nat) (h : setSorted l = true) : setSorted (setAdd l a) = true := by
  induction l with
  | nil => rfl
  | cons b r ih =>
    have h1 := (setSorted_cons b r).1 h
    simp only [setAdd]
    split
    · next hk =>
      refine (setSorted_cons _ _).2 ⟨?_, h⟩
      intro q hq
      rcases List.mem_cons.1 hq with rfl | hq
      · exact hk
      · exact Nat.lt_trans hk (h1.1 q hq)
    · split
      · exact h
      · refine (setSorted_cons _ _).2 ⟨?_, ih h1.2⟩
        intro q hq
        rcases mem_setAdd hq with rfl | hq
        · omega
        · exact h1.1 q hq

/-- A part of a sorted set is sorted. -/
theorem setSorted_filter {l : List Nat} (p : Nat → Bool) (h : setSorted l = true) : setSorted (l.filter p) = true := by
  induction l with
  | nil => rfl
  | cons b r ih =>
    have h1 := (setSorted_cons b r).1 h
    rw [List.filter_cons]
    split
    · exact (setSorted_cons _ _).2 ⟨fun q hq => h1.1 q (List.mem_filter.1 hq).1, ih h1.2⟩
    · exact ih h1.2

/-- What a set holds after a number was removed was in it. -/
theorem mem_setDel {l : List Nat} {a q : Nat} (h : q ∈ setDel l a) : q ∈ l := by
  induction l with
  | nil => simp [setDel] at h
  | cons b r ih =>
    simp only [setDel] at h
    split at h
    · exact List.mem_cons_of_mem _ h
    · rcases List.mem_cons.1 h with h | h
      · exact h ▸ List.mem_cons_self
      · exact List.mem_cons_of_mem _ (ih h)

/-- Removing a number keeps a set sorted. -/
theorem setSorted_setDel {l : List Nat} (a : Nat) (h : setSorted l = true) : setSorted (setDel l a) = true := by
  induction l with
  | nil => rfl
  | cons b r ih =>
    have h1 := (setSorted_cons b r).1 h
    simp only [setDel]
    split
    · exact h1.2
    · exact (setSorted_cons _ _).2 ⟨fun q hq => h1.1 q (mem_setDel hq), ih h1.2⟩

/-- Adding or removing a number keeps a set sorted. -/
theorem setSorted_setPut {l : List Nat} (a : Nat) (on : Bool) (h : setSorted l = true) : setSorted (setPut l a on) = true := by
  cases on <;> simp [setPut, setSorted_setAdd, setSorted_setDel, h]

/-- A fold of steps that keep a set sorted keeps it sorted. -/
theorem setSorted_foldl {l : List Nat} (xs : List β) (f : List Nat → β → List Nat)
    (hf : ∀ l x, setSorted l = true → setSorted (f l x) = true) (h : setSorted l = true) :
    setSorted (xs.foldl f l) = true := by
  induction xs generalizing l with
  | nil => exact h
  | cons x r ih => exact ih (hf _ _ h)

/-- Membership of a number that was added. -/
@[simp] theorem setHas_setAdd_self (l : List Nat) (a : Nat) : setHas (setAdd l a) a = true := by
  induction l with
  | nil => simp [setAdd, setHas]
  | cons b r ih =>
    simp only [setAdd]
    split
    · simp [setHas]
    · split
      · next h => simp [setHas, h]
      · next h => simp [setHas, ih]

/-- Membership of another number than the one that was added. -/
theorem setHas_setAdd_ne (l : List Nat) {a b : Nat} (h : b ≠ a) : setHas (setAdd l a) b = setHas l b := by
  induction l with
  | nil => simp [setAdd, setHas, Ne.symm h]
  | cons c r ih =>
    simp only [setAdd]
    split
    · simp [setHas, Ne.symm h]
    · split
      · rfl
      · simp [setHas, ih]

/-- Membership of another number than the one that was removed. -/
theorem setHas_setDel_ne (l : List Nat) {a b : Nat} (h : b ≠ a) : setHas (setDel l a) b = setHas l b := by
  induction l with
  | nil => rfl
  | cons c r ih =>
    simp only [setDel]
    split
    · next hc => subst hc; simp [setHas, Ne.symm h]
    · simp [setHas, ih]

/-! ### Bytes -/

/-- A byte reads as it was written. -/
theorem cellGet_cellSet_self {m : List Host.Cell} (a : Nat) (b : Byte) (h : tabSorted m = true) :
    cellGet (cellSet m a b) a = b := by
  unfold cellGet cellSet
  split
  · next hb => simp [tabGet_tabErase_self _ _ h, hb]
  · simp

/-- Writing one byte leaves every other byte as it was. -/
theorem cellGet_cellSet_ne (m : List Host.Cell) {a j : Nat} (b : Byte) (h : j ≠ a) :
    cellGet (cellSet m a b) j = cellGet m j := by
  unfold cellGet cellSet
  split
  · rw [tabGet_tabErase_ne _ h]
  · rw [tabGet_tabSet_ne _ _ h]

/-- Writing a byte keeps the canonical form. -/
theorem cellsWf_cellSet {m : List Host.Cell} (a : Nat) (b : Byte) (h : cellsWf m = true) : cellsWf (cellSet m a b) = true := by
  simp only [cellsWf, Bool.and_eq_true, List.all_eq_true] at h ⊢
  unfold cellSet
  split
  · exact ⟨tabSorted_tabErase _ h.1, fun q hq => h.2 q (mem_tabErase hq)⟩
  · next hb =>
    refine ⟨tabSorted_tabSet _ _ h.1, fun q hq => ?_⟩
    rcases mem_tabSet hq with rfl | hq
    · simpa using hb
    · exact h.2 q hq

/-- A part of canonical bytes is canonical. -/
theorem cellsWf_filter {m : List Host.Cell} (p : Host.Cell → Bool) (h : cellsWf m = true) : cellsWf (m.filter p) = true := by
  simp only [cellsWf, Bool.and_eq_true, List.all_eq_true] at h ⊢
  exact ⟨tabSorted_filter _ h.1, fun q hq => h.2 q (List.mem_filter.1 hq).1⟩

/-! ### The canonical form of a memory -/

/-- The parts of the canonical form. -/
theorem Mem.wf_iff (m : Mem) : m.wf = true ↔
    cellsWf m.bytes = true ∧ setSorted m.tags = true ∧ setSorted m.poison = true ∧ setSorted m.full = true := by
  simp [Mem.wf, and_assoc]

/-- Writing bytes changes no tag, poison bit or state bit. -/
theorem Mem.put_sets (m : Mem) (a : Nat) (d : List Byte) :
    (m.put a d).tags = m.tags ∧ (m.put a d).poison = m.poison ∧ (m.put a d).full = m.full := by
  induction d generalizing m a with
  | nil => simp [Mem.put]
  | cons b r ih => simpa [Mem.put] using ih { m with bytes := cellSet m.bytes a b } (a + 1)

/-- Writing bytes keeps the canonical form. -/
theorem Mem.wf_put {m : Mem} (a : Nat) (d : List Byte) (h : m.wf = true) : (m.put a d).wf = true := by
  induction d generalizing m a with
  | nil => simpa [Mem.put] using h
  | cons b r ih =>
    rw [Mem.put]
    refine ih _ ?_
    rw [Mem.wf_iff] at h ⊢
    exact ⟨cellsWf_cellSet _ _ h.1, h.2⟩

/-- A store to one granule keeps the canonical form. -/
theorem Mem.wf_storeGranule {m : Mem} (g a : Nat) (d : List Byte) (k : Nat) (h : m.wf = true) :
    (m.storeGranule g a d k).wf = true := by
  unfold Mem.storeGranule
  simp only
  split
  · split
    · refine Mem.wf_put _ _ ?_
      rw [Mem.wf_iff] at h ⊢
      exact ⟨h.1, h.2.1, setSorted_setDel _ h.2.2.1, h.2.2.2⟩
    · exact h
  · exact Mem.wf_put _ _ h

/-- A fold of stores to granules keeps the canonical form. -/
theorem Mem.wf_granules {m : Mem} (g a : Nat) (d : List Byte) (ks : List Nat) (h : m.wf = true) :
    (ks.foldl (fun m k => m.storeGranule g a d k) m).wf = true := by
  induction ks generalizing m with
  | nil => exact h
  | cons k r ih => exact ih (Mem.wf_storeGranule _ _ _ _ h)

/-- R273, R274: a store keeps the canonical form. -/
theorem Mem.wf_store {m : Mem} (g : Nat) (tagged : Bool) (a : Nat) (d : List Byte) (ts : Option (List Bool)) (h : m.wf = true) :
    (m.store g tagged a d ts).wf = true := by
  have h1 := Mem.wf_granules g a d (granules a d.length g) h
  unfold Mem.store
  simp only
  split
  · exact h1
  · rw [Mem.wf_iff] at h1
    split
    · rw [Mem.wf_iff]
      exact ⟨h1.1, setSorted_foldl _ _ (fun _ _ hl => setSorted_setDel _ hl) h1.2.1, h1.2.2⟩
    · rw [Mem.wf_iff]
      refine ⟨h1.1, setSorted_foldl _ _ (fun _ _ hl => ?_) h1.2.1, h1.2.2⟩
      split
      · exact hl
      · exact setSorted_setPut _ _ hl

/-- R239, R367: zeroing keeps the canonical form. -/
theorem Mem.wf_zeroBelow {m : Mem} (f : Nat) (h : m.wf = true) : (m.zeroBelow f).wf = true := by
  rw [Mem.wf_iff] at h ⊢
  exact ⟨cellsWf_filter _ h.1, setSorted_filter _ h.2.1, setSorted_filter _ h.2.2.1, setSorted_filter _ h.2.2.2⟩

/-- Moving granules keeps a set sorted. -/
theorem setSorted_setMove {l : List Nat} (src dst n : Nat) (h : setSorted l = true) : setSorted (setMove l src dst n) = true :=
  setSorted_foldl _ _ (fun _ _ hl => setSorted_setAdd _ hl) (setSorted_filter _ h)

/-- R340: copying a frame keeps the canonical form. -/
theorem Mem.wf_copyFrame {m : Mem} (src dst n : Nat) (h : m.wf = true) : (m.copyFrame src dst n).wf = true := by
  rw [Mem.wf_iff] at h ⊢
  refine ⟨?_, setSorted_setMove _ _ _ h.2.1, setSorted_setMove _ _ _ h.2.2.1, setSorted_setMove _ _ _ h.2.2.2⟩
  have key : ∀ (xs t : List Host.Cell), cellsWf t = true → (∀ c ∈ xs, c.2 ≠ 0#8) →
      cellsWf (xs.foldl (fun t c => tabSet t c.1 c.2) t) = true := by
    intro xs
    induction xs with
    | nil => intro t ht _; exact ht
    | cons x r ih =>
      intro t ht hx
      have := cellsWf_cellSet x.1 x.2 ht
      rw [cellSet, if_neg (hx x (by simp))] at this
      exact ih _ this fun c hc => hx c (List.mem_cons_of_mem _ hc)
  refine key _ _ (cellsWf_filter _ h.1) ?_
  intro c hc
  obtain ⟨c0, h0, rfl⟩ := List.mem_map.1 hc
  have h1 := h.1
  simp only [cellsWf, Bool.and_eq_true, List.all_eq_true] at h1
  simpa using h1.2 c0 (List.mem_filter.1 h0).1

/-! ### Reads after writes -/

/-- The byte at an address. -/
theorem Mem.read_one (m : Mem) (a : Nat) : m.read a 1 = [cellGet m.bytes a] := rfl

/-- A written byte reads back. -/
theorem Mem.read_put_one {m : Mem} (a : Nat) (b : Byte) (h : m.wf = true) : (m.put a [b]).read a 1 = [b] := by
  rw [Mem.wf_iff] at h
  have := h.1
  simp only [cellsWf, Bool.and_eq_true] at this
  simp [Mem.put, Mem.read, cellGet_cellSet_self _ _ this.1]

/-- A byte outside the written ones reads as before. -/
theorem Mem.get_put_ne (m : Mem) (a j : Nat) (d : List Byte) (h : j < a ∨ a + d.length ≤ j) :
    cellGet (m.put a d).bytes j = cellGet m.bytes j := by
  induction d generalizing m a with
  | nil => rfl
  | cons b r ih =>
    simp only [List.length_cons] at h
    rw [Mem.put, ih _ _ (by omega)]
    exact cellGet_cellSet_ne _ _ (by omega)

/-- Reads of the same bytes agree. -/
theorem Mem.read_congr {m k : Mem} {a n : Nat} (h : ∀ j, a ≤ j → j < a + n → cellGet m.bytes j = cellGet k.bytes j) :
    m.read a n = k.read a n := by
  induction n generalizing a with
  | zero => rfl
  | succ n ih =>
    rw [Mem.read, Mem.read, h a (Nat.le_refl _) (by omega), ih fun j h1 h2 => h j (by omega) (by omega)]

/-- Written bytes read back. -/
theorem Mem.read_put {m : Mem} (a : Nat) (d : List Byte) (h : m.wf = true) : (m.put a d).read a d.length = d := by
  induction d generalizing m a with
  | nil => rfl
  | cons b r ih =>
    have hs := ((Mem.wf_iff m).1 h).1
    have h1 := Mem.wf_put a [b] h
    simp only [Mem.put] at h1
    simp only [cellsWf, Bool.and_eq_true] at hs
    rw [List.length_cons, Mem.read, Mem.put, ih _ h1, Mem.get_put_ne _ _ _ _ (.inl (by omega)), cellGet_cellSet_self _ _ hs.1]

/-! ### Units of 64 bytes (R379) -/

@[simp] theorem fit64_length (d : List Byte) : (fit64 d).length = 64 := by simp [fit64]

/-- A unit lies in the range. -/
theorem mem_unitsIn {a n u : Nat} (h : u ∈ unitsIn a n) : a ≤ 64 * u ∧ 64 * u + 64 ≤ a + n := by
  simp only [unitsIn, List.mem_filter, List.mem_map, decide_eq_true_eq] at h
  obtain ⟨⟨k, -, rfl⟩, h⟩ := h
  omega
/-- A unit that lies wholly in a range is one of its units. -/
theorem unit_mem {a n u : Nat} (h : a ≤ 64 * u) (h2 : 64 * u + 64 ≤ a + n) : u ∈ unitsIn a n := by
  simp only [unitsIn, List.mem_filter, List.mem_map, List.mem_range, decide_eq_true_eq]
  exact ⟨⟨u - (a + 63) / 64, by omega, by omega⟩, h2⟩
/-- No unit is there twice. -/
theorem unitsIn_nodup (a n : Nat) : (unitsIn a n).Nodup :=
  (List.pairwise_map.2 (List.nodup_range.imp fun h e => h (by omega))).filter _

theorem Mem.wf_clearTags {m : Mem} (a n : Nat) (h : m.wf = true) : (m.clearTags a n).wf = true := by
  rw [Mem.wf_iff] at h ⊢
  exact ⟨h.1, setSorted_foldl _ _ (fun _ _ hl => setSorted_setDel _ hl) h.2.1, h.2.2⟩
/-- R379: changing a unit keeps the canonical form. -/
theorem Mem.wf_mapUnit {m : Mem} (u : Nat) (f : List Byte → List Byte) (h : m.wf = true) : (m.mapUnit u f).wf = true := by
  unfold Mem.mapUnit
  simp only
  split
  · exact h
  · exact Mem.wf_clearTags _ _ (Mem.wf_put _ _ h)
/-- R379: changing a unit changes no poison bit or state bit. -/
theorem Mem.mapUnit_sets (m : Mem) (u : Nat) (f : List Byte → List Byte) :
    (m.mapUnit u f).poison = m.poison ∧ (m.mapUnit u f).full = m.full := by
  unfold Mem.mapUnit
  simp only
  split
  · exact ⟨rfl, rfl⟩
  · exact ⟨(m.put_sets _ _).2.1, (m.put_sets _ _).2.2⟩
/-- A byte outside the unit reads as before. -/
theorem Mem.get_mapUnit_ne (m : Mem) {u j : Nat} (f : List Byte → List Byte) (h : j / 64 ≠ u) :
    cellGet (m.mapUnit u f).bytes j = cellGet m.bytes j := by
  unfold Mem.mapUnit
  simp only
  split
  · rfl
  · exact Mem.get_put_ne _ _ _ _ (by rw [fit64_length]; omega)
theorem Mem.read_length (m : Mem) (a n : Nat) : (m.read a n).length = n := by
  induction n generalizing a with
  | zero => rfl
  | succ n ih => simp [Mem.read, ih]
/-- Filling 64 bytes changes nothing. -/
theorem fit64_of_length {d : List Byte} (h : d.length = 64) : fit64 d = d := by
  apply List.ext_getElem
  · simp [h]
  · intro i h1 h2
    simp [fit64, h2]
/-- A change that is none leaves the memory. -/
theorem Mem.mapUnit_same (m : Mem) {u : Nat} {f : List Byte → List Byte} (hf : ∀ d, f d = d) : m.mapUnit u f = m := by
  unfold Mem.mapUnit
  simp only
  rw [hf, fit64_of_length (Mem.read_length _ _ _), if_pos rfl]
/-- The unit reads as its change gives. -/
theorem Mem.read_mapUnit {m : Mem} (u : Nat) (f : List Byte → List Byte) (hm : m.wf = true) :
    (m.mapUnit u f).read (64 * u) 64 = fit64 (f (m.read (64 * u) 64)) := by
  unfold Mem.mapUnit
  simp only
  split
  · next h => exact h.symm
  · have := Mem.read_put (64 * u) (fit64 (f (m.read (64 * u) 64))) hm
    rw [fit64_length] at this
    exact (Mem.read_congr fun j _ _ => rfl).trans this

/-- R379: changing units keeps the canonical form. -/
theorem Mem.wf_mapUnits {m : Mem} (a n : Nat) (f : Nat → List Byte → List Byte) (h : m.wf = true) :
    (m.mapUnits a n f).wf = true := by
  unfold Mem.mapUnits
  generalize unitsIn a n = us
  induction us generalizing m with
  | nil => exact h
  | cons u r ih => exact ih (Mem.wf_mapUnit _ _ h)
/-- R379: changing units changes no poison bit or state bit. -/
theorem Mem.mapUnits_sets (m : Mem) (a n : Nat) (f : Nat → List Byte → List Byte) :
    (m.mapUnits a n f).poison = m.poison ∧ (m.mapUnits a n f).full = m.full := by
  unfold Mem.mapUnits
  generalize unitsIn a n = us
  induction us generalizing m with
  | nil => simp
  | cons u r ih =>
    have h1 := ih (m.mapUnit u (f u))
    have h2 := m.mapUnit_sets u (f u)
    exact ⟨h1.1.trans h2.1, h1.2.trans h2.2⟩
/-- What a fold over units outside an address leaves. -/
theorem Mem.get_units_ne (f : Nat → List Byte → List Byte) (us : List Nat) (m : Mem) (j : Nat) (h : ∀ u ∈ us, j / 64 ≠ u) :
    cellGet (us.foldl (fun m u => m.mapUnit u (f u)) m).bytes j = cellGet m.bytes j := by
  induction us generalizing m with
  | nil => rfl
  | cons u r ih =>
    rw [List.foldl_cons, ih _ fun v hv => h v (List.mem_cons_of_mem _ hv)]
    exact Mem.get_mapUnit_ne _ _ (h u (by simp))
/-- R379: a byte outside the range reads as before. -/
theorem Mem.get_mapUnits_ne (m : Mem) (a n j : Nat) (f : Nat → List Byte → List Byte) (h : j < a ∨ a + n ≤ j) :
    cellGet (m.mapUnits a n f).bytes j = cellGet m.bytes j :=
  Mem.get_units_ne f _ m j fun u hu => by
    have := mem_unitsIn hu
    omega
/-- R379: a unit whose change is none reads as before. -/
theorem Mem.get_mapUnits_same (m : Mem) (a n j : Nat) (f : Nat → List Byte → List Byte)
    (hf : ∀ d, f (j / 64) d = d) : cellGet (m.mapUnits a n f).bytes j = cellGet m.bytes j := by
  unfold Mem.mapUnits
  generalize unitsIn a n = us
  induction us generalizing m with
  | nil => rfl
  | cons u r ih =>
    rw [List.foldl_cons, ih]
    by_cases hu : j / 64 = u
    · rw [Mem.mapUnit_same _ (hu ▸ hf)]
    · exact Mem.get_mapUnit_ne _ _ hu
/-- R379: where no unit of a range is changed, the memory is as before. -/
theorem Mem.mapUnits_same (m : Mem) (a n : Nat) (f : Nat → List Byte → List Byte) (hf : ∀ u ∈ unitsIn a n, ∀ d, f u d = d) :
    m.mapUnits a n f = m := by
  unfold Mem.mapUnits
  revert hf
  generalize unitsIn a n = us
  induction us with
  | nil => intro; rfl
  | cons u r ih =>
    intro hf
    rw [List.foldl_cons, Mem.mapUnit_same _ (hf u (by simp)), ih fun v hv => hf v (List.mem_cons_of_mem _ hv)]
/-- R379: a unit that is changed reads as its change gives. -/
theorem Mem.read_mapUnits {m : Mem} {a n u : Nat} (f : Nat → List Byte → List Byte) (hm : m.wf = true) (h : u ∈ unitsIn a n) :
    (m.mapUnits a n f).read (64 * u) 64 = fit64 (f u (m.read (64 * u) 64)) := by
  have hs := unitsIn_nodup a n
  unfold Mem.mapUnits
  generalize unitsIn a n = us at h hs
  induction us generalizing m with
  | nil => cases h
  | cons v r ih =>
    obtain ⟨hv, hr⟩ := List.nodup_cons.1 hs
    rw [List.foldl_cons]
    rcases List.mem_cons.1 h with rfl | h
    · rw [Mem.read_congr fun j h1 h2 => Mem.get_units_ne f r _ j fun w hw => by
        have : w ≠ u := fun e => hv (e ▸ hw)
        omega]
      exact Mem.read_mapUnit u (f u) hm
    · rw [ih (Mem.wf_mapUnit _ _ hm) h hr]
      have : u ≠ v := fun e => hv (e ▸ h)
      rw [Mem.read_congr fun j h1 h2 => Mem.get_mapUnit_ne m (f v) (u := v) (by omega)]

/-- The reset memory has the canonical form. -/
theorem Mem.wf_empty : ({} : Mem).wf = true := rfl

end Sys2Proof.Machine
end

