-- ==== Sys2Proof/Laws/Engines.lean ====
section
/-! SUPPORT. What the writes of the Carder keep. -/

namespace Sys2Proof.Machine

/-- Writing some of the bytes of a word keeps the cells in canonical form. -/
theorem cellsWf_putBytes (a : Nat) (l : List (Option Byte × Nat)) {t : List Host.Cell} (h : cellsWf t = true) :
    cellsWf (l.foldl (fun t p => match p.1 with | some v => cellSet t (a + p.2) v | none => t) t) = true := by
  induction l generalizing t with
  | nil => exact h
  | cons p r ih =>
    refine ih ?_
    dsimp only
    split
    · exact cellsWf_cellSet _ _ h
    · exact h
/-- R274, R325: a word that the Carder writes keeps the canonical form. -/
theorem Mem.wf_putWord {m : Mem} (g a : Nat) (w : CdWord) (h : m.wf = true) : (m.putWord g a w).1.wf = true := by
  unfold Mem.putWord
  dsimp only
  split
  · exact h
  split
  · exact h
  rw [Mem.wf_iff] at h ⊢
  refine ⟨cellsWf_putBytes _ _ h.1, setSorted_setPut _ _ h.2.1, ?_, h.2.2.2⟩
  dsimp only
  split
  · exact setSorted_setAdd _ h.2.2.1
  · split
    · exact setSorted_setDel _ h.2.2.1
    · exact h.2.2.1

end Sys2Proof.Machine
end

