-- ==== Sys2Proof/Laws/Exec.lean ====
section
/-! SUPPORT. The arm of each instruction: `exec` of its constructor is its meaning. -/

namespace Sys2Proof.Machine

@[simp] theorem exec_add (m : MReg) (w : Width) (b : VReg) (a : VReg) (d : VReg) (s : State) : exec (.add m w b a d) s = execAdd m w b a d s := rfl
@[simp] theorem exec_sub (m : MReg) (w : Width) (b : VReg) (a : VReg) (d : VReg) (s : State) : exec (.sub m w b a d) s = execSub m w b a d s := rfl
@[simp] theorem exec_addsS (m : MReg) (w : Width) (b : VReg) (a : VReg) (d : VReg) (s : State) : exec (.addsS m w b a d) s = execAddsS m w b a d s := rfl
@[simp] theorem exec_addsZ (m : MReg) (w : Width) (b : VReg) (a : VReg) (d : VReg) (s : State) : exec (.addsZ m w b a d) s = execAddsZ m w b a d s := rfl
@[simp] theorem exec_subsS (m : MReg) (w : Width) (b : VReg) (a : VReg) (d : VReg) (s : State) : exec (.subsS m w b a d) s = execSubsS m w b a d s := rfl
@[simp] theorem exec_subsZ (m : MReg) (w : Width) (b : VReg) (a : VReg) (d : VReg) (s : State) : exec (.subsZ m w b a d) s = execSubsZ m w b a d s := rfl
@[simp] theorem exec_neg (m : MReg) (w : Width) (a : VReg) (d : VReg) (s : State) : exec (.neg m w a d) s = execNeg m w a d s := rfl
@[simp] theorem exec_abs (m : MReg) (w : Width) (a : VReg) (d : VReg) (s : State) : exec (.abs m w a d) s = execAbs m w a d s := rfl
@[simp] theorem exec_mul (m : MReg) (w : Width) (b : VReg) (a : VReg) (d : VReg) (s : State) : exec (.mul m w b a d) s = execMul m w b a d s := rfl
@[simp] theorem exec_mulh (m : MReg) (w : Width) (b : VReg) (a : VReg) (d : VReg) (s : State) : exec (.mulh m w b a d) s = execMulh m w b a d s := rfl
@[simp] theorem exec_mulhz (m : MReg) (w : Width) (b : VReg) (a : VReg) (d : VReg) (s : State) : exec (.mulhz m w b a d) s = execMulhz m w b a d s := rfl
@[simp] theorem exec_div (m : MReg) (w : Width) (b : VReg) (a : VReg) (d : VReg) (s : State) : exec (.div m w b a d) s = execDiv m w b a d s := rfl
@[simp] theorem exec_divz (m : MReg) (w : Width) (b : VReg) (a : VReg) (d : VReg) (s : State) : exec (.divz m w b a d) s = execDivz m w b a d s := rfl
@[simp] theorem exec_rem (m : MReg) (w : Width) (b : VReg) (a : VReg) (d : VReg) (s : State) : exec (.rem m w b a d) s = execRem m w b a d s := rfl
@[simp] theorem exec_remz (m : MReg) (w : Width) (b : VReg) (a : VReg) (d : VReg) (s : State) : exec (.remz m w b a d) s = execRemz m w b a d s := rfl
@[simp] theorem exec_min (m : MReg) (w : Width) (b : VReg) (a : VReg) (d : VReg) (s : State) : exec (.min m w b a d) s = execMin m w b a d s := rfl
@[simp] theorem exec_max (m : MReg) (w : Width) (b : VReg) (a : VReg) (d : VReg) (s : State) : exec (.max m w b a d) s = execMax m w b a d s := rfl
@[simp] theorem exec_minz (m : MReg) (w : Width) (b : VReg) (a : VReg) (d : VReg) (s : State) : exec (.minz m w b a d) s = execMinz m w b a d s := rfl
@[simp] theorem exec_maxz (m : MReg) (w : Width) (b : VReg) (a : VReg) (d : VReg) (s : State) : exec (.maxz m w b a d) s = execMaxz m w b a d s := rfl
@[simp] theorem exec_and (m : MReg) (w : Width) (b : VReg) (a : VReg) (d : VReg) (s : State) : exec (.and m w b a d) s = execAnd m w b a d s := rfl
@[simp] theorem exec_or (m : MReg) (w : Width) (b : VReg) (a : VReg) (d : VReg) (s : State) : exec (.or m w b a d) s = execOr m w b a d s := rfl
@[simp] theorem exec_xor (m : MReg) (w : Width) (b : VReg) (a : VReg) (d : VReg) (s : State) : exec (.xor m w b a d) s = execXor m w b a d s := rfl
@[simp] theorem exec_andn (m : MReg) (w : Width) (b : VReg) (a : VReg) (d : VReg) (s : State) : exec (.andn m w b a d) s = execAndn m w b a d s := rfl
@[simp] theorem exec_shl (m : MReg) (w : Width) (b : VReg) (a : VReg) (d : VReg) (s : State) : exec (.shl m w b a d) s = execShl m w b a d s := rfl
@[simp] theorem exec_shr (m : MReg) (w : Width) (b : VReg) (a : VReg) (d : VReg) (s : State) : exec (.shr m w b a d) s = execShr m w b a d s := rfl
@[simp] theorem exec_sra (m : MReg) (w : Width) (b : VReg) (a : VReg) (d : VReg) (s : State) : exec (.sra m w b a d) s = execSra m w b a d s := rfl
@[simp] theorem exec_rot (m : MReg) (w : Width) (b : VReg) (a : VReg) (d : VReg) (s : State) : exec (.rot m w b a d) s = execRot m w b a d s := rfl
@[simp] theorem exec_clz (m : MReg) (w : Width) (a : VReg) (d : VReg) (s : State) : exec (.clz m w a d) s = execClz m w a d s := rfl
@[simp] theorem exec_popc (m : MReg) (w : Width) (a : VReg) (d : VReg) (s : State) : exec (.popc m w a d) s = execPopc m w a d s := rfl
@[simp] theorem exec_cmp (m : MReg) (w : Width) (c : ICond) (b : VReg) (a : VReg) (k : MReg) (s : State) : exec (.cmp m w c b a k) s = execCmp m w c b a k s := rfl
@[simp] theorem exec_sel (m : MReg) (w : Width) (b : VReg) (a : VReg) (d : VReg) (s : State) : exec (.sel m w b a d) s = execSel m w b a d s := rfl
@[simp] theorem exec_mov (m : MReg) (w : Width) (a : VReg) (d : VReg) (s : State) : exec (.mov m w a d) s = execMov m w a d s := rfl
@[simp] theorem exec_addi (ix : BitVec 12) (t : Bool) (a : VReg) (d : VReg) (s : State) : exec (.addi ix t a d) s = execAddi ix t a d s := rfl
@[simp] theorem exec_shlImm (w : Width) (n : BitVec 6) (a : VReg) (d : VReg) (s : State) : exec (.shlImm w n a d) s = execShlImm w n a d s := rfl
@[simp] theorem exec_shrImm (w : Width) (n : BitVec 6) (a : VReg) (d : VReg) (s : State) : exec (.shrImm w n a d) s = execShrImm w n a d s := rfl
@[simp] theorem exec_sraImm (w : Width) (n : BitVec 6) (a : VReg) (d : VReg) (s : State) : exec (.sraImm w n a d) s = execSraImm w n a d s := rfl
@[simp] theorem exec_rotImm (w : Width) (n : BitVec 6) (a : VReg) (d : VReg) (s : State) : exec (.rotImm w n a d) s = execRotImm w n a d s := rfl
@[simp] theorem exec_movi (ix : BitVec 12) (sx : Bool) (w : Width) (d : VReg) (s : State) : exec (.movi ix sx w d) s = execMovi ix sx w d s := rfl
@[simp] theorem exec_movh (ix : BitVec 12) (t : Bool) (p : BitVec 6) (d : VReg) (s : State) : exec (.movh ix t p d) s = execMovh ix t p d s := rfl
@[simp] theorem exec_ext (w : Width) (j : BitVec 6) (a : VReg) (d : VReg) (s : State) : exec (.ext w j a d) s = execExt w j a d s := rfl
@[simp] theorem exec_ins (m : MReg) (w : Width) (j : BitVec 6) (a : VReg) (d : VReg) (s : State) : exec (.ins m w j a d) s = execIns m w j a d s := rfl
@[simp] theorem exec_bcst (m : MReg) (w : Width) (j : BitVec 6) (a : VReg) (d : VReg) (s : State) : exec (.bcst m w j a d) s = execBcst m w j a d s := rfl
@[simp] theorem exec_shuf (m : MReg) (w : Width) (b : VReg) (a : VReg) (d : VReg) (s : State) : exec (.shuf m w b a d) s = execShuf m w b a d s := rfl
@[simp] theorem exec_perm (m : MReg) (w : Width) (b : VReg) (a : VReg) (d : VReg) (s : State) : exec (.perm m w b a d) s = execPerm m w b a d s := rfl
@[simp] theorem exec_zip (w : Width) (b : VReg) (a : VReg) (d : VReg) (s : State) : exec (.zip w b a d) s = execZip w b a d s := rfl
@[simp] theorem exec_unzip (w : Width) (b : VReg) (a : VReg) (d : VReg) (s : State) : exec (.unzip w b a d) s = execUnzip w b a d s := rfl
@[simp] theorem exec_cinc (b : VReg) (a : VReg) (d : VReg) (s : State) : exec (.cinc b a d) s = execCinc b a d s := rfl
@[simp] theorem exec_cset (b : VReg) (a : VReg) (d : VReg) (s : State) : exec (.cset b a d) s = execCset b a d s := rfl
@[simp] theorem exec_cbnd (b : VReg) (a : VReg) (d : VReg) (s : State) : exec (.cbnd b a d) s = execCbnd b a d s := rfl
@[simp] theorem exec_cbndR (b : VReg) (a : VReg) (d : VReg) (s : State) : exec (.cbndR b a d) s = execCbndR b a d s := rfl
@[simp] theorem exec_cperm (b : VReg) (a : VReg) (d : VReg) (s : State) : exec (.cperm b a d) s = execCperm b a d s := rfl
@[simp] theorem exec_cgetb (a : VReg) (d : VReg) (s : State) : exec (.cgetb a d) s = execCgetb a d s := rfl
@[simp] theorem exec_cgetl (a : VReg) (d : VReg) (s : State) : exec (.cgetl a d) s = execCgetl a d s := rfl
@[simp] theorem exec_cgetp (a : VReg) (d : VReg) (s : State) : exec (.cgetp a d) s = execCgetp a d s := rfl
@[simp] theorem exec_ctag (a : VReg) (d : VReg) (s : State) : exec (.ctag a d) s = execCtag a d s := rfl
@[simp] theorem exec_cclr (a : VReg) (d : VReg) (s : State) : exec (.cclr a d) s = execCclr a d s := rfl
@[simp] theorem exec_cincImm (ix : BitVec 12) (a : VReg) (d : VReg) (s : State) : exec (.cincImm ix a d) s = execCincImm ix a d s := rfl
@[simp] theorem exec_cbndImm (ix : BitVec 12) (a : VReg) (d : VReg) (s : State) : exec (.cbndImm ix a d) s = execCbndImm ix a d s := rfl
@[simp] theorem exec_shp (n : BitVec 6) (d : VReg) (s : State) : exec (.shp n d) s = execShp n d s := rfl
@[simp] theorem exec_tix (b : VReg) (a : VReg) (d : VReg) (s : State) : exec (.tix b a d) s = execTix b a d s := rfl
@[simp] theorem exec_tlin (b : VReg) (a : VReg) (d : VReg) (s : State) : exec (.tlin b a d) s = execTlin b a d s := rfl
@[simp] theorem exec_b (o : BitVec 13) (s : State) : exec (.b o) s = execB o s := rfl
@[simp] theorem exec_bAny (o : BitVec 13) (k : MReg) (s : State) : exec (.bAny o k) s = execBAny o k s := rfl
@[simp] theorem exec_bNone (o : BitVec 13) (k : MReg) (s : State) : exec (.bNone o k) s = execBNone o k s := rfl
@[simp] theorem exec_bAll (o : BitVec 13) (n : BitVec 6) (k : MReg) (s : State) : exec (.bAll o n k) s = execBAll o n k s := rfl
@[simp] theorem exec_bNall (o : BitVec 13) (n : BitVec 6) (k : MReg) (s : State) : exec (.bNall o n k) s = execBNall o n k s := rfl
@[simp] theorem exec_bZ (o : BitVec 13) (a : VReg) (s : State) : exec (.bZ o a) s = execBZ o a s := rfl
@[simp] theorem exec_bNz (o : BitVec 13) (a : VReg) (s : State) : exec (.bNz o a) s = execBNz o a s := rfl
@[simp] theorem exec_jal (o : BitVec 25) (s : State) : exec (.jal o) s = execJal o s := rfl
@[simp] theorem exec_setx (a : VReg) (x : BitVec 6) (s : State) : exec (.setx a x) s = execSetx a x s := rfl
@[simp] theorem exec_getx (x : BitVec 6) (d : VReg) (s : State) : exec (.getx x d) s = execGetx x d s := rfl
@[simp] theorem exec_kset (n : BitVec 6) (k : MReg) (s : State) : exec (.kset n k) s = execKset n k s := rfl
@[simp] theorem exec_kand (b : MReg) (a : MReg) (d : MReg) (s : State) : exec (.kand b a d) s = execKand b a d s := rfl
@[simp] theorem exec_kor (b : MReg) (a : MReg) (d : MReg) (s : State) : exec (.kor b a d) s = execKor b a d s := rfl
@[simp] theorem exec_knot (a : MReg) (d : MReg) (s : State) : exec (.knot a d) s = execKnot a d s := rfl
@[simp] theorem exec_rdc (d : VReg) (s : State) : exec (.rdc d) s = execRdc d s := rfl
@[simp] theorem exec_rdid (ix : BitVec 6) (d : VReg) (s : State) : exec (.rdid ix d) s = execRdid ix d s := rfl
@[simp] theorem exec_trap (n : BitVec 6) (s : State) : exec (.trap n) s = execTrap n s := rfl
@[simp] theorem exec_addFp (r : Rm) (b : VReg) (a : VReg) (d : VReg) (t : FpT) (s : State) : exec (.addFp r b a d t) s = execAddFp r b a d t s := rfl
@[simp] theorem exec_subFp (r : Rm) (b : VReg) (a : VReg) (d : VReg) (t : FpT) (s : State) : exec (.subFp r b a d t) s = execSubFp r b a d t s := rfl
@[simp] theorem exec_mulFp (r : Rm) (b : VReg) (a : VReg) (d : VReg) (t : FpT) (s : State) : exec (.mulFp r b a d t) s = execMulFp r b a d t s := rfl
@[simp] theorem exec_divFp (r : Rm) (b : VReg) (a : VReg) (d : VReg) (t : FpT) (s : State) : exec (.divFp r b a d t) s = execDivFp r b a d t s := rfl
@[simp] theorem exec_minFp (b : VReg) (a : VReg) (d : VReg) (t : FpT) (s : State) : exec (.minFp b a d t) s = execMinFp b a d t s := rfl
@[simp] theorem exec_maxFp (b : VReg) (a : VReg) (d : VReg) (t : FpT) (s : State) : exec (.maxFp b a d t) s = execMaxFp b a d t s := rfl
@[simp] theorem exec_sqrt (r : Rm) (a : VReg) (d : VReg) (t : FpT) (s : State) : exec (.sqrt r a d t) s = execSqrt r a d t s := rfl
@[simp] theorem exec_absFp (a : VReg) (d : VReg) (t : FpT) (s : State) : exec (.absFp a d t) s = execAbsFp a d t s := rfl
@[simp] theorem exec_negFp (a : VReg) (d : VReg) (t : FpT) (s : State) : exec (.negFp a d t) s = execNegFp a d t s := rfl
@[simp] theorem exec_scl (r : Rm) (b : VReg) (a : VReg) (d : VReg) (t : FpT) (s : State) : exec (.scl r b a d t) s = execScl r b a d t s := rfl
@[simp] theorem exec_rnd (r : Rm) (a : VReg) (d : VReg) (t : FpT) (s : State) : exec (.rnd r a d t) s = execRnd r a d t s := rfl
@[simp] theorem exec_frc (r : Rm) (a : VReg) (d : VReg) (t : FpT) (s : State) : exec (.frc r a d t) s = execFrc r a d t s := rfl
@[simp] theorem exec_fma (m : MReg) (r : Rm) (b : VReg) (a : VReg) (d : VReg) (t : FpT) (s : State) : exec (.fma m r b a d t) s = execFma m r b a d t s := rfl
@[simp] theorem exec_fms (m : MReg) (r : Rm) (b : VReg) (a : VReg) (d : VReg) (t : FpT) (s : State) : exec (.fms m r b a d t) s = execFms m r b a d t s := rfl
@[simp] theorem exec_fnma (m : MReg) (r : Rm) (b : VReg) (a : VReg) (d : VReg) (t : FpT) (s : State) : exec (.fnma m r b a d t) s = execFnma m r b a d t s := rfl
@[simp] theorem exec_fnms (m : MReg) (r : Rm) (b : VReg) (a : VReg) (d : VReg) (t : FpT) (s : State) : exec (.fnms m r b a d t) s = execFnms m r b a d t s := rfl
@[simp] theorem exec_rsum (m : MReg) (t : FpT) (r : Rm) (a : VReg) (d : VReg) (s : State) : exec (.rsum m t r a d) s = execRsum m t r a d s := rfl
@[simp] theorem exec_rmax (m : MReg) (t : FpT) (a : VReg) (d : VReg) (s : State) : exec (.rmax m t a d) s = execRmax m t a d s := rfl
@[simp] theorem exec_dot (m : MReg) (t : FpT) (b : VReg) (a : VReg) (d : VReg) (s : State) : exec (.dot m t b a d) s = execDot m t b a d s := rfl
@[simp] theorem exec_dotSr (m : MReg) (t : FpT) (b : VReg) (a : VReg) (d : VReg) (s : State) : exec (.dotSr m t b a d) s = execDotSr m t b a d s := rfl
@[simp] theorem exec_cmpFp (m : MReg) (t : FpT) (c : FCond) (b : VReg) (a : VReg) (k : MReg) (s : State) : exec (.cmpFp m t c b a k) s = execCmpFp m t c b a k s := rfl
@[simp] theorem exec_classify (m : MReg) (t : FpT) (a : VReg) (d : VReg) (s : State) : exec (.classify m t a d) s = execClassify m t a d s := rfl
@[simp] theorem exec_cvt (t : TyCode) (r : Rm) (sx : TyCode) (a : VReg) (d : VReg) (s : State) : exec (.cvt t r sx a d) s = execCvt t r sx a d s := rfl
@[simp] theorem exec_cvtSat (t : TyCode) (r : Rm) (sx : TyCode) (a : VReg) (d : VReg) (s : State) : exec (.cvtSat t r sx a d) s = execCvtSat t r sx a d s := rfl
@[simp] theorem exec_mxpk (f : Bool) (sx : Bool) (a : VReg) (d : VReg) (s : State) : exec (.mxpk f sx a d) s = execMxpk f sx a d s := rfl
@[simp] theorem exec_mxup (t : Bool) (r : Rm) (f : Bool) (a : VReg) (d : VReg) (s : State) : exec (.mxup t r f a d) s = execMxup t r f a d s := rfl
@[simp] theorem exec_rcp (t : SpT) (a : VReg) (d : VReg) (s : State) : exec (.rcp t a d) s = execRcp t a d s := rfl
@[simp] theorem exec_rsq (t : SpT) (a : VReg) (d : VReg) (s : State) : exec (.rsq t a d) s = execRsq t a d s := rfl
@[simp] theorem exec_exp2 (t : SpT) (a : VReg) (d : VReg) (s : State) : exec (.exp2 t a d) s = execExp2 t a d s := rfl
@[simp] theorem exec_log2 (t : SpT) (a : VReg) (d : VReg) (s : State) : exec (.log2 t a d) s = execLog2 t a d s := rfl
@[simp] theorem exec_sin (t : SpT) (a : VReg) (d : VReg) (s : State) : exec (.sin t a d) s = execSin t a d s := rfl
@[simp] theorem exec_cos (t : SpT) (a : VReg) (d : VReg) (s : State) : exec (.cos t a d) s = execCos t a d s := rfl
@[simp] theorem exec_tanh (t : SpT) (a : VReg) (d : VReg) (s : State) : exec (.tanh t a d) s = execTanh t a d s := rfl
@[simp] theorem exec_ld (o : BitVec 10) (z : Size) (b : VReg) (d : VReg) (s : State) : exec (.ld o z b d) s = execLd o z b d s := rfl
@[simp] theorem exec_st (o : BitVec 10) (z : Size) (b : VReg) (sx : VReg) (s : State) : exec (.st o z b sx) s = execSt o z b sx s := rfl
@[simp] theorem exec_ldAcq (c : Scope) (o : BitVec 6) (z : Size) (b : VReg) (d : VReg) (s : State) : exec (.ldAcq c o z b d) s = execLdAcq c o z b d s := rfl
@[simp] theorem exec_stRel (c : Scope) (o : BitVec 6) (z : Size) (b : VReg) (sx : VReg) (s : State) : exec (.stRel c o z b sx) s = execStRel c o z b sx s := rfl
@[simp] theorem exec_fenceAcq (c : Scope) (s : State) : exec (.fenceAcq c) s = execFenceAcq c s := rfl
@[simp] theorem exec_fenceRel (c : Scope) (s : State) : exec (.fenceRel c) s = execFenceRel c s := rfl
@[simp] theorem exec_fence (c : Scope) (s : State) : exec (.fence c) s = execFence c s := rfl
@[simp] theorem exec_ldg (m : MReg) (w : Bool) (x : VReg) (b : VReg) (d : VReg) (s : State) : exec (.ldg m w x b d) s = execLdg m w x b d s := rfl
@[simp] theorem exec_stg (m : MReg) (w : Bool) (x : VReg) (b : VReg) (sx : VReg) (s : State) : exec (.stg m w x b sx) s = execStg m w x b sx s := rfl
@[simp] theorem exec_ldbc (m : MReg) (w : Width) (b : VReg) (d : VReg) (s : State) : exec (.ldbc m w b d) s = execLdbc m w b d s := rfl
@[simp] theorem exec_amoAdd (o : Ord) (c : Scope) (z : Bool) (b : VReg) (d : VReg) (s : State) : exec (.amoAdd o c z b d) s = execAmoAdd o c z b d s := rfl
@[simp] theorem exec_amoMin (o : Ord) (c : Scope) (z : Bool) (b : VReg) (d : VReg) (s : State) : exec (.amoMin o c z b d) s = execAmoMin o c z b d s := rfl
@[simp] theorem exec_amoMax (o : Ord) (c : Scope) (z : Bool) (b : VReg) (d : VReg) (s : State) : exec (.amoMax o c z b d) s = execAmoMax o c z b d s := rfl
@[simp] theorem exec_amoMinz (o : Ord) (c : Scope) (z : Bool) (b : VReg) (d : VReg) (s : State) : exec (.amoMinz o c z b d) s = execAmoMinz o c z b d s := rfl
@[simp] theorem exec_amoMaxz (o : Ord) (c : Scope) (z : Bool) (b : VReg) (d : VReg) (s : State) : exec (.amoMaxz o c z b d) s = execAmoMaxz o c z b d s := rfl
@[simp] theorem exec_amoAnd (o : Ord) (c : Scope) (z : Bool) (b : VReg) (d : VReg) (s : State) : exec (.amoAnd o c z b d) s = execAmoAnd o c z b d s := rfl
@[simp] theorem exec_amoOr (o : Ord) (c : Scope) (z : Bool) (b : VReg) (d : VReg) (s : State) : exec (.amoOr o c z b d) s = execAmoOr o c z b d s := rfl
@[simp] theorem exec_amoXor (o : Ord) (c : Scope) (z : Bool) (b : VReg) (d : VReg) (s : State) : exec (.amoXor o c z b d) s = execAmoXor o c z b d s := rfl
@[simp] theorem exec_amoSwp (o : Ord) (c : Scope) (z : Bool) (b : VReg) (d : VReg) (s : State) : exec (.amoSwp o c z b d) s = execAmoSwp o c z b d s := rfl
@[simp] theorem exec_amoCas (o : Ord) (c : Scope) (z : Bool) (b : VReg) (d : VReg) (s : State) : exec (.amoCas o c z b d) s = execAmoCas o c z b d s := rfl
@[simp] theorem exec_amoAddf (o : Ord) (c : Scope) (z : Bool) (b : VReg) (d : VReg) (s : State) : exec (.amoAddf o c z b d) s = execAmoAddf o c z b d s := rfl
@[simp] theorem exec_ldfe (o : Bool) (c : Scope) (x : BitVec 6) (b : VReg) (d : VReg) (s : State) : exec (.ldfe o c x b d) s = execLdfe o c x b d s := rfl
@[simp] theorem exec_ldff (o : Bool) (c : Scope) (x : BitVec 6) (b : VReg) (d : VReg) (s : State) : exec (.ldff o c x b d) s = execLdff o c x b d s := rfl
@[simp] theorem exec_stef (o : Bool) (c : Scope) (x : BitVec 6) (b : VReg) (sx : VReg) (s : State) : exec (.stef o c x b sx) s = execStef o c x b sx s := rfl
@[simp] theorem exec_stff (o : Bool) (c : Scope) (x : BitVec 6) (b : VReg) (sx : VReg) (s : State) : exec (.stff o c x b sx) s = execStff o c x b sx s := rfl
@[simp] theorem exec_feclr (o : Bool) (c : Scope) (x : BitVec 6) (b : VReg) (s : State) : exec (.feclr o c x b) s = execFeclr o c x b s := rfl
@[simp] theorem exec_hold (d : VReg) (s : State) : exec (.hold d) s = execHold d s := rfl
@[simp] theorem exec_holdm (a : VReg) (s : State) : exec (.holdm a) s = execHoldm a s := rfl
@[simp] theorem exec_pres (d : VReg) (s : State) : exec (.pres d) s = execPres d s := rfl
@[simp] theorem exec_rstv (b : VReg) (a : VReg) (s : State) : exec (.rstv b a) s = execRstv b a s := rfl
@[simp] theorem exec_rstv4 (b : VReg) (a : VReg) (s : State) : exec (.rstv4 b a) s = execRstv4 b a s := rfl
@[simp] theorem exec_rstvRel (b : VReg) (a : VReg) (s : State) : exec (.rstvRel b a) s = execRstvRel b a s := rfl
@[simp] theorem exec_rstv4Rel (b : VReg) (a : VReg) (s : State) : exec (.rstv4Rel b a) s = execRstv4Rel b a s := rfl
@[simp] theorem exec_send (b : VReg) (a : VReg) (s : State) : exec (.send b a) s = execSend b a s := rfl
@[simp] theorem exec_sendr (b : VReg) (a : VReg) (d : VReg) (s : State) : exec (.sendr b a d) s = execSendr b a d s := rfl
@[simp] theorem exec_reply (b : VReg) (a : VReg) (l : BitVec 6) (s : State) : exec (.reply b a l) s = execReply b a l s := rfl
@[simp] theorem exec_wrep (a : VReg) (s : State) : exec (.wrep a) s = execWrep a s := rfl
@[simp] theorem exec_chen (a : VReg) (s : State) : exec (.chen a) s = execChen a s := rfl
@[simp] theorem exec_chdis (a : VReg) (s : State) : exec (.chdis a) s = execChdis a s := rfl
@[simp] theorem exec_chpend (a : VReg) (d : VReg) (s : State) : exec (.chpend a d) s = execChpend a d s := rfl
@[simp] theorem exec_hkProd (n : BitVec 6) (h : BitVec 4) (d : VReg) (s : State) : exec (.hkProd n h d) s = execHkProd n h d s := rfl
@[simp] theorem exec_hkComm (n : BitVec 6) (h : BitVec 4) (s : State) : exec (.hkComm n h) s = execHkComm n h s := rfl
@[simp] theorem exec_hkCons (n : BitVec 6) (h : BitVec 4) (d : VReg) (s : State) : exec (.hkCons n h d) s = execHkCons n h d s := rfl
@[simp] theorem exec_hkFree (n : BitVec 6) (h : BitVec 4) (s : State) : exec (.hkFree n h) s = execHkFree n h s := rfl
@[simp] theorem exec_jcInit (sx : Scope) (b : VReg) (a : VReg) (s : State) : exec (.jcInit sx b a) s = execJcInit sx b a s := rfl
@[simp] theorem exec_jcAdd (sx : Scope) (b : VReg) (a : VReg) (s : State) : exec (.jcAdd sx b a) s = execJcAdd sx b a s := rfl
@[simp] theorem exec_jcDec (sx : Scope) (b : VReg) (a : VReg) (s : State) : exec (.jcDec sx b a) s = execJcDec sx b a s := rfl
@[simp] theorem exec_jcWait (sx : Scope) (a : VReg) (s : State) : exec (.jcWait sx a) s = execJcWait sx a s := rfl
@[simp] theorem exec_spawn (b : VReg) (a : VReg) (s : State) : exec (.spawn b a) s = execSpawn b a s := rfl
@[simp] theorem exec_cdrCpy (w : VReg) (r : VReg) (c : VReg) (s : State) : exec (.cdrCpy w r c) s = execCdrCpy w r c s := rfl
@[simp] theorem exec_cdrDeal (w : VReg) (r : VReg) (c : VReg) (s : State) : exec (.cdrDeal w r c) s = execCdrDeal w r c s := rfl
@[simp] theorem exec_cdrPut (w : VReg) (r : VReg) (c : VReg) (s : State) : exec (.cdrPut w r c) s = execCdrPut w r c s := rfl
@[simp] theorem exec_cdrFill (w : VReg) (r : VReg) (c : VReg) (s : State) : exec (.cdrFill w r c) s = execCdrFill w r c s := rfl
@[simp] theorem exec_cdrCvt (w : VReg) (r : VReg) (c : VReg) (s : State) : exec (.cdrCvt w r c) s = execCdrCvt w r c s := rfl
@[simp] theorem exec_skmCfg (b : VReg) (a : VReg) (d : VReg) (s : State) : exec (.skmCfg b a d) s = execSkmCfg b a d s := rfl
@[simp] theorem exec_skmPut (b : VReg) (a : VReg) (s : State) : exec (.skmPut b a) s = execSkmPut b a s := rfl
@[simp] theorem exec_skmTake (a : VReg) (d : VReg) (s : State) : exec (.skmTake a d) s = execSkmTake a d s := rfl
@[simp] theorem exec_bfetch (a : VReg) (sx : Bool) (s : State) : exec (.bfetch a sx) s = execBfetch a sx s := rfl
@[simp] theorem exec_bjump (sx : Bool) (s : State) : exec (.bjump sx) s = execBjump sx s := rfl
@[simp] theorem exec_jr (a : VReg) (s : State) : exec (.jr a) s = execJr a s := rfl
@[simp] theorem exec_peer (a : VReg) (d : VReg) (s : State) : exec (.peer a d) s = execPeer a d s := rfl
@[simp] theorem exec_peerw (a : VReg) (s : State) : exec (.peerw a) s = execPeerw a s := rfl
@[simp] theorem exec_join (a : VReg) (d : VReg) (s : State) : exec (.join a d) s = execJoin a d s := rfl
@[simp] theorem exec_leave (d : VReg) (s : State) : exec (.leave d) s = execLeave d s := rfl
@[simp] theorem exec_parcelMov (sx : BitVec 5) (d : BitVec 5) (s : State) : exec (.parcelMov sx d) s = execParcelMov sx d s := rfl
@[simp] theorem exec_parcelAddS32 (sx : BitVec 5) (d : BitVec 5) (s : State) : exec (.parcelAddS32 sx d) s = execParcelAddS32 sx d s := rfl
@[simp] theorem exec_parcelAddiS32 (ix : BitVec 5) (d : BitVec 5) (s : State) : exec (.parcelAddiS32 ix d) s = execParcelAddiS32 ix d s := rfl
@[simp] theorem exec_parcelSubS32 (sx : BitVec 5) (d : BitVec 5) (s : State) : exec (.parcelSubS32 sx d) s = execParcelSubS32 sx d s := rfl
@[simp] theorem exec_parcelAddS64 (sx : BitVec 5) (d : BitVec 5) (s : State) : exec (.parcelAddS64 sx d) s = execParcelAddS64 sx d s := rfl
@[simp] theorem exec_parcelAddiS64 (ix : BitVec 5) (d : BitVec 5) (s : State) : exec (.parcelAddiS64 ix d) s = execParcelAddiS64 ix d s := rfl
@[simp] theorem exec_parcelMulS32 (sx : BitVec 5) (d : BitVec 5) (s : State) : exec (.parcelMulS32 sx d) s = execParcelMulS32 sx d s := rfl
@[simp] theorem exec_parcelMinS32 (sx : BitVec 5) (d : BitVec 5) (s : State) : exec (.parcelMinS32 sx d) s = execParcelMinS32 sx d s := rfl
@[simp] theorem exec_parcelMaxS32 (sx : BitVec 5) (d : BitVec 5) (s : State) : exec (.parcelMaxS32 sx d) s = execParcelMaxS32 sx d s := rfl
@[simp] theorem exec_parcelAnd (sx : BitVec 5) (d : BitVec 5) (s : State) : exec (.parcelAnd sx d) s = execParcelAnd sx d s := rfl
@[simp] theorem exec_parcelOr (sx : BitVec 5) (d : BitVec 5) (s : State) : exec (.parcelOr sx d) s = execParcelOr sx d s := rfl
@[simp] theorem exec_parcelXor (sx : BitVec 5) (d : BitVec 5) (s : State) : exec (.parcelXor sx d) s = execParcelXor sx d s := rfl
@[simp] theorem exec_parcelShlZ32 (n : BitVec 5) (d : BitVec 5) (s : State) : exec (.parcelShlZ32 n d) s = execParcelShlZ32 n d s := rfl
@[simp] theorem exec_parcelShrZ32 (n : BitVec 5) (d : BitVec 5) (s : State) : exec (.parcelShrZ32 n d) s = execParcelShrZ32 n d s := rfl
@[simp] theorem exec_parcelSraS32 (n : BitVec 5) (d : BitVec 5) (s : State) : exec (.parcelSraS32 n d) s = execParcelSraS32 n d s := rfl
@[simp] theorem exec_parcelAddF32 (sx : BitVec 5) (d : BitVec 5) (s : State) : exec (.parcelAddF32 sx d) s = execParcelAddF32 sx d s := rfl
@[simp] theorem exec_parcelSubF32 (sx : BitVec 5) (d : BitVec 5) (s : State) : exec (.parcelSubF32 sx d) s = execParcelSubF32 sx d s := rfl
@[simp] theorem exec_parcelMulF32 (sx : BitVec 5) (d : BitVec 5) (s : State) : exec (.parcelMulF32 sx d) s = execParcelMulF32 sx d s := rfl
@[simp] theorem exec_parcelFmaF32 (sx : BitVec 5) (d : BitVec 5) (s : State) : exec (.parcelFmaF32 sx d) s = execParcelFmaF32 sx d s := rfl
@[simp] theorem exec_parcelMaxF32 (sx : BitVec 5) (d : BitVec 5) (s : State) : exec (.parcelMaxF32 sx d) s = execParcelMaxF32 sx d s := rfl
@[simp] theorem exec_parcelAddF16 (sx : BitVec 5) (d : BitVec 5) (s : State) : exec (.parcelAddF16 sx d) s = execParcelAddF16 sx d s := rfl
@[simp] theorem exec_parcelMulF16 (sx : BitVec 5) (d : BitVec 5) (s : State) : exec (.parcelMulF16 sx d) s = execParcelMulF16 sx d s := rfl
@[simp] theorem exec_parcelFmaF16 (sx : BitVec 5) (d : BitVec 5) (s : State) : exec (.parcelFmaF16 sx d) s = execParcelFmaF16 sx d s := rfl
@[simp] theorem exec_parcelLd128 (b : BitVec 5) (d : BitVec 5) (s : State) : exec (.parcelLd128 b d) s = execParcelLd128 b d s := rfl
@[simp] theorem exec_parcelSt128 (b : BitVec 5) (d : BitVec 5) (s : State) : exec (.parcelSt128 b d) s = execParcelSt128 b d s := rfl
@[simp] theorem exec_parcelBcstZ32 (sx : BitVec 5) (d : BitVec 5) (s : State) : exec (.parcelBcstZ32 sx d) s = execParcelBcstZ32 sx d s := rfl
@[simp] theorem exec_parcelMoviS32 (ix : BitVec 5) (d : BitVec 5) (s : State) : exec (.parcelMoviS32 ix d) s = execParcelMoviS32 ix d s := rfl
@[simp] theorem exec_parcelNegS32 (sx : BitVec 5) (d : BitVec 5) (s : State) : exec (.parcelNegS32 sx d) s = execParcelNegS32 sx d s := rfl
@[simp] theorem exec_jdBcast (b : XReg) (a : XReg) (d : XReg) (s : State) : exec (.jdBcast b a d) s = execJdBcast b a d s := rfl
@[simp] theorem exec_jdBcastw (b : XReg) (a : XReg) (d : XReg) (s : State) : exec (.jdBcastw b a d) s = execJdBcastw b a d s := rfl
@[simp] theorem exec_jdSkalloc (a : XReg) (d : XReg) (s : State) : exec (.jdSkalloc a d) s = execJdSkalloc a d s := rfl
@[simp] theorem exec_jdSkfree (a : XReg) (d : XReg) (s : State) : exec (.jdSkfree a d) s = execJdSkfree a d s := rfl
@[simp] theorem exec_jdSkstart (b : XReg) (a : XReg) (d : XReg) (s : State) : exec (.jdSkstart b a d) s = execJdSkstart b a d s := rfl
@[simp] theorem exec_jdSkstop (a : XReg) (d : XReg) (s : State) : exec (.jdSkstop a d) s = execJdSkstop a d s := rfl
@[simp] theorem exec_jdSkwait (a : XReg) (d : XReg) (s : State) : exec (.jdSkwait a d) s = execJdSkwait a d s := rfl
@[simp] theorem exec_jdSkq (a : XReg) (d : XReg) (s : State) : exec (.jdSkq a d) s = execJdSkq a d s := rfl
@[simp] theorem exec_jdFpeek (a : XReg) (d : XReg) (s : State) : exec (.jdFpeek a d) s = execJdFpeek a d s := rfl
@[simp] theorem exec_jdFpoke (b : XReg) (a : XReg) (d : XReg) (s : State) : exec (.jdFpoke b a d) s = execJdFpoke b a d s := rfl
@[simp] theorem exec_jdSend (a : XReg) (d : XReg) (s : State) : exec (.jdSend a d) s = execJdSend a d s := rfl
@[simp] theorem exec_jdSendx (b : XReg) (a : XReg) (d : XReg) (s : State) : exec (.jdSendx b a d) s = execJdSendx b a d s := rfl
@[simp] theorem exec_jdRecv (d : XReg) (s : State) : exec (.jdRecv d) s = execJdRecv d s := rfl
@[simp] theorem exec_jdTryrecv (d : XReg) (s : State) : exec (.jdTryrecv d) s = execJdTryrecv d s := rfl
@[simp] theorem exec_jdAck (a : XReg) (d : XReg) (s : State) : exec (.jdAck a d) s = execJdAck a d s := rfl
@[simp] theorem exec_jdChset (b : XReg) (a : XReg) (d : XReg) (s : State) : exec (.jdChset b a d) s = execJdChset b a d s := rfl
@[simp] theorem exec_jdChget (a : XReg) (d : XReg) (s : State) : exec (.jdChget a d) s = execJdChget a d s := rfl
@[simp] theorem exec_jdChen (a : XReg) (d : XReg) (s : State) : exec (.jdChen a d) s = execJdChen a d s := rfl
@[simp] theorem exec_jdChdis (a : XReg) (d : XReg) (s : State) : exec (.jdChdis a d) s = execJdChdis a d s := rfl
@[simp] theorem exec_jdTwmma (b : XReg) (a : XReg) (d : XReg) (s : State) : exec (.jdTwmma b a d) s = execJdTwmma b a d s := rfl
@[simp] theorem exec_jdTwrot (b : XReg) (a : XReg) (d : XReg) (s : State) : exec (.jdTwrot b a d) s = execJdTwrot b a d s := rfl
@[simp] theorem exec_jdTwring (b : XReg) (a : XReg) (d : XReg) (s : State) : exec (.jdTwring b a d) s = execJdTwring b a d s := rfl
@[simp] theorem exec_jdTwbmm (b : XReg) (a : XReg) (d : XReg) (s : State) : exec (.jdTwbmm b a d) s = execJdTwbmm b a d s := rfl
@[simp] theorem exec_jdTwepi (b : XReg) (a : XReg) (d : XReg) (s : State) : exec (.jdTwepi b a d) s = execJdTwepi b a d s := rfl
@[simp] theorem exec_jdTwclr (a : XReg) (d : XReg) (s : State) : exec (.jdTwclr a d) s = execJdTwclr a d s := rfl
@[simp] theorem exec_jdTwswp (d : XReg) (s : State) : exec (.jdTwswp d) s = execJdTwswp d s := rfl
@[simp] theorem exec_jdTwdom (a : XReg) (d : XReg) (s : State) : exec (.jdTwdom a d) s = execJdTwdom a d s := rfl
@[simp] theorem exec_jdTwsave (b : XReg) (a : XReg) (d : XReg) (s : State) : exec (.jdTwsave b a d) s = execJdTwsave b a d s := rfl
@[simp] theorem exec_jdTwrest (a : XReg) (d : XReg) (s : State) : exec (.jdTwrest a d) s = execJdTwrest a d s := rfl
@[simp] theorem exec_jdTwclaim (a : XReg) (d : XReg) (s : State) : exec (.jdTwclaim a d) s = execJdTwclaim a d s := rfl
@[simp] theorem exec_jdTwq (a : XReg) (d : XReg) (s : State) : exec (.jdTwq a d) s = execJdTwq a d s := rfl
@[simp] theorem exec_jdCdr (b : XReg) (a : XReg) (d : XReg) (s : State) : exec (.jdCdr b a d) s = execJdCdr b a d s := rfl
@[simp] theorem exec_jdSkm (b : XReg) (a : XReg) (d : XReg) (s : State) : exec (.jdSkm b a d) s = execJdSkm b a d s := rfl
@[simp] theorem exec_jdTrap (a : XReg) (s : State) : exec (.jdTrap a) s = execJdTrap a s := rfl
@[simp] theorem exec_jdName (a : XReg) (d : XReg) (s : State) : exec (.jdName a d) s = execJdName a d s := rfl
@[simp] theorem exec_jdFence (a : XReg) (s : State) : exec (.jdFence a) s = execJdFence a s := rfl
@[simp] theorem exec_jdCnt (a : XReg) (d : XReg) (s : State) : exec (.jdCnt a d) s = execJdCnt a d s := rfl
@[simp] theorem exec_powerOnReset (s : State) : exec (.powerOnReset) s = execPowerOnReset s := rfl
@[simp] theorem exec_moduleReset (s : State) : exec (.moduleReset) s = execModuleReset s := rfl
@[simp] theorem exec_messageArrival (s : State) : exec (.messageArrival) s = execMessageArrival s := rfl
@[simp] theorem exec_dispatch (s : State) : exec (.dispatch) s = execDispatch s := rfl
@[simp] theorem exec_faultReply (s : State) : exec (.faultReply) s = execFaultReply s := rfl
@[simp] theorem exec_sendrAnswerLands (s : State) : exec (.sendrAnswerLands) s = execSendrAnswerLands s := rfl
@[simp] theorem exec_depositArrival (s : State) : exec (.depositArrival) s = execDepositArrival s := rfl
@[simp] theorem exec_nameServerDeposit (s : State) : exec (.nameServerDeposit) s = execNameServerDeposit s := rfl
@[simp] theorem exec_nameCacheUpdate (s : State) : exec (.nameCacheUpdate) s = execNameCacheUpdate s := rfl
@[simp] theorem exec_nameAllocation (s : State) : exec (.nameAllocation) s = execNameAllocation s := rfl
@[simp] theorem exec_nameAnswer (s : State) : exec (.nameAnswer) s = execNameAnswer s := rfl
@[simp] theorem exec_skimmerPut (s : State) : exec (.skimmerPut) s = execSkimmerPut s := rfl
@[simp] theorem exec_carderCommandMessage (s : State) : exec (.carderCommandMessage) s = execCarderCommandMessage s := rfl
@[simp] theorem exec_memoryReadRequest (s : State) : exec (.memoryReadRequest) s = execMemoryReadRequest s := rfl
@[simp] theorem exec_memoryWriteRequest (s : State) : exec (.memoryWriteRequest) s = execMemoryWriteRequest s := rfl
@[simp] theorem exec_atomicRequest (s : State) : exec (.atomicRequest) s = execAtomicRequest s := rfl
@[simp] theorem exec_lrReservation (s : State) : exec (.lrReservation) s = execLrReservation s := rfl
@[simp] theorem exec_homeLdfe (s : State) : exec (.homeLdfe) s = execHomeLdfe s := rfl
@[simp] theorem exec_homeLdff (s : State) : exec (.homeLdff) s = execHomeLdff s := rfl
@[simp] theorem exec_homeStef (s : State) : exec (.homeStef) s = execHomeStef s := rfl
@[simp] theorem exec_homeStff (s : State) : exec (.homeStff) s = execHomeStff s := rfl
@[simp] theorem exec_homeFeclr (s : State) : exec (.homeFeclr) s = execHomeFeclr s := rfl
@[simp] theorem exec_homeCancel (s : State) : exec (.homeCancel) s = execHomeCancel s := rfl
@[simp] theorem exec_homeJcInit (s : State) : exec (.homeJcInit) s = execHomeJcInit s := rfl
@[simp] theorem exec_homeJcAdd (s : State) : exec (.homeJcAdd) s = execHomeJcAdd s := rfl
@[simp] theorem exec_homeJcDec (s : State) : exec (.homeJcDec) s = execHomeJcDec s := rfl
@[simp] theorem exec_homeJcWait (s : State) : exec (.homeJcWait) s = execHomeJcWait s := rfl
@[simp] theorem exec_waitfullRetry (s : State) : exec (.waitfullRetry) s = execWaitfullRetry s := rfl
@[simp] theorem exec_busyRetry (s : State) : exec (.busyRetry) s = execBusyRetry s := rfl
@[simp] theorem exec_loadLands (s : State) : exec (.loadLands) s = execLoadLands s := rfl
@[simp] theorem exec_atomicAnswerLands (s : State) : exec (.atomicAnswerLands) s = execAtomicAnswerLands s := rfl
@[simp] theorem exec_feAnswerLands (s : State) : exec (.feAnswerLands) s = execFeAnswerLands s := rfl
@[simp] theorem exec_jcAnswerLands (s : State) : exec (.jcAnswerLands) s = execJcAnswerLands s := rfl
@[simp] theorem exec_cancelAnswer (s : State) : exec (.cancelAnswer) s = execCancelAnswer s := rfl
@[simp] theorem exec_waitLimitExpiry (s : State) : exec (.waitLimitExpiry) s = execWaitLimitExpiry s := rfl
@[simp] theorem exec_blockFetchComplete (s : State) : exec (.blockFetchComplete) s = execBlockFetchComplete s := rfl
@[simp] theorem exec_contextDrainComplete (s : State) : exec (.contextDrainComplete) s = execContextDrainComplete s := rfl
@[simp] theorem exec_translationMiss (s : State) : exec (.translationMiss) s = execTranslationMiss s := rfl
@[simp] theorem exec_translationFill (s : State) : exec (.translationFill) s = execTranslationFill s := rfl
@[simp] theorem exec_translationRefusal (s : State) : exec (.translationRefusal) s = execTranslationRefusal s := rfl
@[simp] theorem exec_shootdownInvalidate (s : State) : exec (.shootdownInvalidate) s = execShootdownInvalidate s := rfl
@[simp] theorem exec_shootdownComplete (s : State) : exec (.shootdownComplete) s = execShootdownComplete s := rfl
@[simp] theorem exec_pageCopyComplete (s : State) : exec (.pageCopyComplete) s = execPageCopyComplete s := rfl
@[simp] theorem exec_correctedErrorLimit (s : State) : exec (.correctedErrorLimit) s = execCorrectedErrorLimit s := rfl
@[simp] theorem exec_framePoisoned (s : State) : exec (.framePoisoned) s = execFramePoisoned s := rfl
@[simp] theorem exec_uncorrectableError (s : State) : exec (.uncorrectableError) s = execUncorrectableError s := rfl
@[simp] theorem exec_correctableError (s : State) : exec (.correctableError) s = execCorrectableError s := rfl
@[simp] theorem exec_haltRequest (s : State) : exec (.haltRequest) s = execHaltRequest s := rfl
@[simp] theorem exec_haltComplete (s : State) : exec (.haltComplete) s = execHaltComplete s := rfl
@[simp] theorem exec_saveComplete (s : State) : exec (.saveComplete) s = execSaveComplete s := rfl
@[simp] theorem exec_restoreRequest (s : State) : exec (.restoreRequest) s = execRestoreRequest s := rfl
@[simp] theorem exec_restoreComplete (s : State) : exec (.restoreComplete) s = execRestoreComplete s := rfl
@[simp] theorem exec_skeinMigrationInstalled (s : State) : exec (.skeinMigrationInstalled) s = execSkeinMigrationInstalled s := rfl
@[simp] theorem exec_forwardingAck (s : State) : exec (.forwardingAck) s = execForwardingAck s := rfl
@[simp] theorem exec_signedBlockEntry (s : State) : exec (.signedBlockEntry) s = execSignedBlockEntry s := rfl
@[simp] theorem exec_signatureMarker (s : State) : exec (.signatureMarker) s = execSignatureMarker s := rfl
@[simp] theorem exec_twisterCommandEnd (s : State) : exec (.twisterCommandEnd) s = execTwisterCommandEnd s := rfl
@[simp] theorem exec_latchFlitArrival (s : State) : exec (.latchFlitArrival) s = execLatchFlitArrival s := rfl
@[simp] theorem exec_carderCommandEnd (s : State) : exec (.carderCommandEnd) s = execCarderCommandEnd s := rfl
@[simp] theorem exec_dealBlockArrival (s : State) : exec (.dealBlockArrival) s = execDealBlockArrival s := rfl
@[simp] theorem exec_launch (s : State) : exec (.launch) s = execLaunch s := rfl
@[simp] theorem exec_launchCheck (s : State) : exec (.launchCheck) s = execLaunchCheck s := rfl
@[simp] theorem exec_prerequisitesEnded (s : State) : exec (.prerequisitesEnded) s = execPrerequisitesEnded s := rfl
@[simp] theorem exec_placementReady (s : State) : exec (.placementReady) s = execPlacementReady s := rfl
@[simp] theorem exec_placementReport (s : State) : exec (.placementReport) s = execPlacementReport s := rfl
@[simp] theorem exec_setupComplete (s : State) : exec (.setupComplete) s = execSetupComplete s := rfl
@[simp] theorem exec_startAnswer (s : State) : exec (.startAnswer) s = execStartAnswer s := rfl
@[simp] theorem exec_startResend (s : State) : exec (.startResend) s = execStartResend s := rfl
@[simp] theorem exec_sweep (s : State) : exec (.sweep) s = execSweep s := rfl
@[simp] theorem exec_mapSetRoot (s : State) : exec (.mapSetRoot) s = execMapSetRoot s := rfl
@[simp] theorem exec_mapInstallLeaf (s : State) : exec (.mapInstallLeaf) s = execMapInstallLeaf s := rfl
@[simp] theorem exec_mapRemoveLeaf (s : State) : exec (.mapRemoveLeaf) s = execMapRemoveLeaf s := rfl
@[simp] theorem exec_mapSetFirmwareRegion (s : State) : exec (.mapSetFirmwareRegion) s = execMapSetFirmwareRegion s := rfl
@[simp] theorem exec_mapAddRetirementFrame (s : State) : exec (.mapAddRetirementFrame) s = execMapAddRetirementFrame s := rfl
@[simp] theorem exec_migrate (s : State) : exec (.migrate) s = execMigrate s := rfl
@[simp] theorem exec_fenceRectCreate (s : State) : exec (.fenceRectCreate) s = execFenceRectCreate s := rfl
@[simp] theorem exec_fenceRectSeal (s : State) : exec (.fenceRectSeal) s = execFenceRectSeal s := rfl
@[simp] theorem exec_fenceRectUnseal (s : State) : exec (.fenceRectUnseal) s = execFenceRectUnseal s := rfl
@[simp] theorem exec_fenceRectRemove (s : State) : exec (.fenceRectRemove) s = execFenceRectRemove s := rfl
@[simp] theorem exec_resetRect (s : State) : exec (.resetRect) s = execResetRect s := rfl
@[simp] theorem exec_groupResetComplete (s : State) : exec (.groupResetComplete) s = execGroupResetComplete s := rfl
@[simp] theorem exec_keyLoadMemory (s : State) : exec (.keyLoadMemory) s = execKeyLoadMemory s := rfl
@[simp] theorem exec_keyLoadLink (s : State) : exec (.keyLoadLink) s = execKeyLoadLink s := rfl
@[simp] theorem exec_attest (s : State) : exec (.attest) s = execAttest s := rfl
@[simp] theorem exec_spareSwap (s : State) : exec (.spareSwap) s = execSpareSwap s := rfl
@[simp] theorem exec_telemetryErrorCounts (s : State) : exec (.telemetryErrorCounts) s = execTelemetryErrorCounts s := rfl
@[simp] theorem exec_telemetryHotness (s : State) : exec (.telemetryHotness) s = execTelemetryHotness s := rfl
@[simp] theorem exec_telemetryClusterRows (s : State) : exec (.telemetryClusterRows) s = execTelemetryClusterRows s := rfl
@[simp] theorem exec_telemetryRails (s : State) : exec (.telemetryRails) s = execTelemetryRails s := rfl
@[simp] theorem exec_nameRange (s : State) : exec (.nameRange) s = execNameRange s := rfl
@[simp] theorem exec_podConfigSetPackage (s : State) : exec (.podConfigSetPackage) s = execPodConfigSetPackage s := rfl
@[simp] theorem exec_podConfigRoutingEntry (s : State) : exec (.podConfigRoutingEntry) s = execPodConfigRoutingEntry s := rfl
@[simp] theorem exec_podConfigActivate (s : State) : exec (.podConfigActivate) s = execPodConfigActivate s := rfl
@[simp] theorem exec_podConfigMarkPackage (s : State) : exec (.podConfigMarkPackage) s = execPodConfigMarkPackage s := rfl
@[simp] theorem exec_podConfigPort (s : State) : exec (.podConfigPort) s = execPodConfigPort s := rfl
@[simp] theorem exec_hostReplySlotRelease (s : State) : exec (.hostReplySlotRelease) s = execHostReplySlotRelease s := rfl
@[simp] theorem exec_hostHdmRead (s : State) : exec (.hostHdmRead) s = execHostHdmRead s := rfl
@[simp] theorem exec_hostHdmWrite (s : State) : exec (.hostHdmWrite) s = execHostHdmWrite s := rfl
@[simp] theorem exec_firmwareUpdate (s : State) : exec (.firmwareUpdate) s = execFirmwareUpdate s := rfl
@[simp] theorem exec_thermalHold (s : State) : exec (.thermalHold) s = execThermalHold s := rfl
@[simp] theorem exec_thermalReset (s : State) : exec (.thermalReset) s = execThermalReset s := rfl
@[simp] theorem exec_lastingFault (s : State) : exec (.lastingFault) s = execLastingFault s := rfl
@[simp] theorem exec_marginSample (s : State) : exec (.marginSample) s = execMarginSample s := rfl
@[simp] theorem exec_reelFlitRouting (s : State) : exec (.reelFlitRouting) s = execReelFlitRouting s := rfl
@[simp] theorem exec_reelThrottle (s : State) : exec (.reelThrottle) s = execReelThrottle s := rfl
@[simp] theorem exec_sideLinkBeat (s : State) : exec (.sideLinkBeat) s = execSideLinkBeat s := rfl
@[simp] theorem exec_gatewayMessage (s : State) : exec (.gatewayMessage) s = execGatewayMessage s := rfl
@[simp] theorem exec_podDataFrame (s : State) : exec (.podDataFrame) s = execPodDataFrame s := rfl
@[simp] theorem exec_podAckOnlyFrame (s : State) : exec (.podAckOnlyFrame) s = execPodAckOnlyFrame s := rfl
@[simp] theorem exec_podTransportAck (s : State) : exec (.podTransportAck) s = execPodTransportAck s := rfl
@[simp] theorem exec_podPauseFrame (s : State) : exec (.podPauseFrame) s = execPodPauseFrame s := rfl
@[simp] theorem exec_podKeyChangeFrame (s : State) : exec (.podKeyChangeFrame) s = execPodKeyChangeFrame s := rfl
@[simp] theorem exec_linkAckTimer (s : State) : exec (.linkAckTimer) s = execLinkAckTimer s := rfl
@[simp] theorem exec_transportAckTimer (s : State) : exec (.transportAckTimer) s = execTransportAckTimer s := rfl
@[simp] theorem exec_transportResendTimeout (s : State) : exec (.transportResendTimeout) s = execTransportResendTimeout s := rfl
@[simp] theorem exec_deliveryNotice (s : State) : exec (.deliveryNotice) s = execDeliveryNotice s := rfl
@[simp] theorem exec_portTrainingResult (s : State) : exec (.portTrainingResult) s = execPortTrainingResult s := rfl
@[simp] theorem exec_portLossOfLock (s : State) : exec (.portLossOfLock) s = execPortLossOfLock s := rfl
@[simp] theorem exec_uePacketReceive (s : State) : exec (.uePacketReceive) s = execUePacketReceive s := rfl
@[simp] theorem exec_nop (s : State) : exec (.nop) s = execNop s := rfl
@[simp] theorem exec_ebrk (s : State) : exec (.ebrk) s = execEbrk s := rfl
@[simp] theorem exec_bjumpBc (s : State) : exec (.bjumpBc) s = execBjumpBc s := rfl
@[simp] theorem exec_stop (s : State) : exec (.stop) s = execStop s := rfl
@[simp] theorem exec_parcelNop (s : State) : exec (.parcelNop) s = execParcelNop s := rfl
@[simp] theorem exec_parcelStop (s : State) : exec (.parcelStop) s = execParcelStop s := rfl
@[simp] theorem exec_parcelEbrk (s : State) : exec (.parcelEbrk) s = execParcelEbrk s := rfl
@[simp] theorem exec_endParcel (s : State) : exec (.endParcel) s = execEndParcel s := rfl
@[simp] theorem exec_jdUiret (s : State) : exec (.jdUiret) s = execJdUiret s := rfl
@[simp] theorem exec_hartLoad (s : State) : exec (.hartLoad) s = execHartLoad s := rfl
@[simp] theorem exec_hartStore (s : State) : exec (.hartStore) s = execHartStore s := rfl
@[simp] theorem exec_hartAmo (s : State) : exec (.hartAmo) s = execHartAmo s := rfl
@[simp] theorem exec_lr (s : State) : exec (.lr) s = execLr s := rfl
@[simp] theorem exec_sc (s : State) : exec (.sc) s = execSc s := rfl
@[simp] theorem exec_riscvFence (s : State) : exec (.riscvFence) s = execRiscvFence s := rfl
@[simp] theorem exec_fenceI (s : State) : exec (.fenceI) s = execFenceI s := rfl
@[simp] theorem exec_ecall (s : State) : exec (.ecall) s = execEcall s := rfl
@[simp] theorem exec_wfi (s : State) : exec (.wfi) s = execWfi s := rfl
@[simp] theorem exec_csrWrite (s : State) : exec (.csrWrite) s = execCsrWrite s := rfl
@[simp] theorem exec_unassignedEncoding (s : State) : exec (.unassignedEncoding) s = execUnassignedEncoding s := rfl
@[simp] theorem exec_unassignedCustomWord (s : State) : exec (.unassignedCustomWord) s = execUnassignedCustomWord s := rfl
@[simp] theorem exec_rv64imacInstruction (s : State) : exec (.rv64imacInstruction) s = execRv64imacInstruction s := rfl
@[simp] theorem exec_writePerformed (s : State) : exec (.writePerformed) s = execWritePerformed s := rfl
@[simp] theorem exec_hartAccessAnswer (s : State) : exec (.hartAccessAnswer) s = execHartAccessAnswer s := rfl
@[simp] theorem exec_latchCredit (s : State) : exec (.latchCredit) s = execLatchCredit s := rfl
@[simp] theorem exec_hostCommandSlotWrite (s : State) : exec (.hostCommandSlotWrite) s = execHostCommandSlotWrite s := rfl
@[simp] theorem exec_unknownOpCommand (s : State) : exec (.unknownOpCommand) s = execUnknownOpCommand s := rfl
@[simp] theorem exec_thermalHoldEnd (s : State) : exec (.thermalHoldEnd) s = execThermalHoldEnd s := rfl

end Sys2Proof.Machine
end

