-- ==== Sys2Proof/Laws/State.lean ====
section
/-! SUPPORT. Laws of the accessors of State: what each update changes, and that it leaves the rest. -/

namespace Sys2Proof.Machine

/-! ### Cores -/

@[simp] theorem State.core_setCore_self (s : State) (c : Nat) (k : Core) : (s.setCore c k).core c = k := by
  simp [State.core, State.setCore]
theorem State.core_setCore_ne (s : State) {c d : Nat} (k : Core) (h : d ≠ c) : (s.setCore c k).core d = s.core d := by
  simp [State.core, State.setCore, tabGet_tabSet_ne _ _ h]
@[simp] theorem State.core_updCore_self (s : State) (c : Nat) (f : Core → Core) : (s.updCore c f).core c = f (s.core c) := by
  simp [State.updCore]
theorem State.core_updCore_ne (s : State) {c d : Nat} (f : Core → Core) (h : d ≠ c) : (s.updCore c f).core d = s.core d :=
  State.core_setCore_ne _ _ h

@[simp] theorem State.setCore_cur (s : State) (c : Nat) (k : Core) : (s.setCore c k).cur = s.cur := rfl
@[simp] theorem State.setCore_turns (s : State) (c : Nat) (k : Core) : (s.setCore c k).turns = s.turns := rfl
@[simp] theorem State.setCore_draws (s : State) (c : Nat) (k : Core) : (s.setCore c k).draws = s.draws := rfl
@[simp] theorem State.setCore_frees (s : State) (c : Nat) (k : Core) : (s.setCore c k).frees = s.frees := rfl
@[simp] theorem State.setCore_nextReq (s : State) (c : Nat) (k : Core) : (s.setCore c k).nextReq = s.nextReq := rfl
@[simp] theorem State.setCore_stalled (s : State) (c : Nat) (k : Core) : (s.setCore c k).stalled = s.stalled := rfl
@[simp] theorem State.setCore_ev (s : State) (c : Nat) (k : Core) : (s.setCore c k).ev = s.ev := rfl
@[simp] theorem State.setCore_hop (s : State) (c : Nat) (k : Core) : (s.setCore c k).hop = s.hop := rfl
@[simp] theorem State.setCore_hraw (s : State) (c : Nat) (k : Core) : (s.setCore c k).hraw = s.hraw := rfl
@[simp] theorem State.setCore_pkg (s : State) (c : Nat) (k : Core) : (s.setCore c k).pkg = s.pkg := rfl
@[simp] theorem State.setCore_mem (s : State) (c : Nat) (k : Core) : (s.setCore c k).mem = s.mem := rfl
@[simp] theorem State.setCore_host (s : State) (c : Nat) (k : Core) : (s.setCore c k).host = s.host := rfl
@[simp] theorem State.setCore_reqs (s : State) (c : Nat) (k : Core) : (s.setCore c k).reqs = s.reqs := rfl
@[simp] theorem State.setCore_resvs (s : State) (c : Nat) (k : Core) : (s.setCore c k).resvs = s.resvs := rfl
@[simp] theorem State.setCore_agent (s : State) (c : Nat) (k : Core) : (s.setCore c k).agent = s.agent := rfl
@[simp] theorem State.setCore_pod (s : State) (c : Nat) (k : Core) : (s.setCore c k).pod = s.pod := rfl
@[simp] theorem State.updCore_cur (s : State) (c : Nat) (f : Core → Core) : (s.updCore c f).cur = s.cur := rfl
@[simp] theorem State.updCore_mem (s : State) (c : Nat) (f : Core → Core) : (s.updCore c f).mem = s.mem := rfl
@[simp] theorem State.updCore_host (s : State) (c : Nat) (f : Core → Core) : (s.updCore c f).host = s.host := rfl
@[simp] theorem State.updCore_reqs (s : State) (c : Nat) (f : Core → Core) : (s.updCore c f).reqs = s.reqs := rfl
@[simp] theorem State.updCore_agent (s : State) (c : Nat) (f : Core → Core) : (s.updCore c f).agent = s.agent := rfl
@[simp] theorem State.updCore_pod (s : State) (c : Nat) (f : Core → Core) : (s.updCore c f).pod = s.pod := rfl

/-- An update of a core changes only the table of cores. -/
theorem State.updCore_eq (s : State) (c : Nat) (f : Core → Core) : s.updCore c f = { s with cores := (s.updCore c f).cores } := rfl

/-! ### Contexts -/

@[simp] theorem Core.ctx_setCtx_self (k : Core) {i : Nat} (x : Ctx) (h : i < 32) : (k.setCtx i x).ctx i = x := by
  simp [Core.setCtx, Core.ctx, h]
theorem Core.ctx_setCtx_ne (k : Core) {i j : Nat} (x : Ctx) (h : j ≠ i) : (k.setCtx i x).ctx j = k.ctx j := by
  unfold Core.setCtx Core.ctx
  by_cases hi : i < 32 <;> by_cases hj : j < 32 <;> simp [hi, hj, Ne.symm h]
theorem Core.ctx_setCtx (k : Core) (i j : Nat) (x : Ctx) : (k.setCtx i x).ctx j = if j = i ∧ i < 32 then x else k.ctx j := by
  by_cases h : j = i
  · subst h
    by_cases hi : j < 32
    · simp [hi]
    · simp [Core.setCtx, hi]
  · simp [h, Core.ctx_setCtx_ne]
/-- An update of a context changes only the contexts of its core. -/
theorem Core.setCtx_eq (k : Core) (i : Nat) (x : Ctx) : k.setCtx i x = { k with ctxs := (k.setCtx i x).ctxs } := by
  unfold Core.setCtx; split <;> rfl
@[simp] theorem Core.setCtx_skeins (k : Core) (i : Nat) (x : Ctx) : (k.setCtx i x).skeins = k.skeins := by
  rw [Core.setCtx_eq]
@[simp] theorem Core.setCtx_blocks (k : Core) (i : Nat) (x : Ctx) : (k.setCtx i x).blocks = k.blocks := by
  rw [Core.setCtx_eq]
@[simp] theorem Core.setCtx_spad (k : Core) (i : Nat) (x : Ctx) : (k.setCtx i x).spad = k.spad := by
  rw [Core.setCtx_eq]
@[simp] theorem Core.setCtx_level (k : Core) (i : Nat) (x : Ctx) : (k.setCtx i x).level = k.level := by
  rw [Core.setCtx_eq]
@[simp] theorem Core.setCtx_table (k : Core) (i : Nat) (x : Ctx) : (k.setCtx i x).table = k.table := by
  rw [Core.setCtx_eq]

@[simp] theorem State.ctx_setCtx_self (s : State) (c : Nat) {i : Nat} (x : Ctx) (h : i < 32) : (s.setCtx c i x).ctx c i = x := by
  simp [State.ctx, State.setCtx, h]
theorem State.ctx_setCtx_ne (s : State) (c : Nat) {i j : Nat} (x : Ctx) (h : j ≠ i) : (s.setCtx c i x).ctx c j = s.ctx c j := by
  simp [State.ctx, State.setCtx, Core.ctx_setCtx_ne _ _ h]
theorem State.core_setCtx_ne (s : State) {c d : Nat} (i : Nat) (x : Ctx) (h : d ≠ c) : (s.setCtx c i x).core d = s.core d :=
  State.core_updCore_ne _ _ h
@[simp] theorem State.core_setCtx (s : State) (c i : Nat) (x : Ctx) : (s.setCtx c i x).core c = (s.core c).setCtx i x := by
  simp [State.setCtx]
@[simp] theorem State.setCtx_cur (s : State) (c i : Nat) (x : Ctx) : (s.setCtx c i x).cur = s.cur := rfl
@[simp] theorem State.setCtx_reqs (s : State) (c i : Nat) (x : Ctx) : (s.setCtx c i x).reqs = s.reqs := rfl
@[simp] theorem State.setCtx_mem (s : State) (c i : Nat) (x : Ctx) : (s.setCtx c i x).mem = s.mem := rfl
@[simp] theorem State.setCtx_host (s : State) (c i : Nat) (x : Ctx) : (s.setCtx c i x).host = s.host := rfl
@[simp] theorem State.setCtx_agent (s : State) (c i : Nat) (x : Ctx) : (s.setCtx c i x).agent = s.agent := rfl

/-! ### Registers of a Fibre -/

@[simp] theorem FibreRegs.cell_setCell_self (r : FibreRegs) {i : Nat} (v : VCell) (h : i < 64) : (r.setCell i v).cell i = v := by
  simp [FibreRegs.setCell, FibreRegs.cell, h]
theorem FibreRegs.cell_setCell_ne (r : FibreRegs) {i j : Nat} (v : VCell) (h : j ≠ i) : (r.setCell i v).cell j = r.cell j := by
  unfold FibreRegs.setCell FibreRegs.cell
  by_cases hi : i < 64 <;> by_cases hj : j < 64 <;> simp [hi, hj, Ne.symm h]
/-- A write of a register changes no mask, extension register or flag. -/
theorem FibreRegs.setCell_eq (r : FibreRegs) (i : Nat) (v : VCell) : r.setCell i v = { r with regs := (r.setCell i v).regs } := by
  unfold FibreRegs.setCell; split <;> rfl
@[simp] theorem Ctx.setV_st (x : Ctx) (i v : Nat) (g : Bool) : (x.setV i v g).st = x.st := rfl
@[simp] theorem Ctx.setV_nreg (x : Ctx) (i v : Nat) (g : Bool) : (x.setV i v g).nreg = x.nreg := rfl
@[simp] theorem Ctx.setV_inc (x : Ctx) (i v : Nat) (g : Bool) : (x.setV i v g).inc = x.inc := rfl
@[simp] theorem Ctx.setV_r (x : Ctx) (i v : Nat) (g : Bool) :
    (x.setV i v g).r = x.r.setCell i { val := BitVec.ofNat 128 v, tag := g } := rfl
/-- R55: a register reads as it was written, modulo its width. -/
theorem Ctx.v_setV_self (x : Ctx) {i : Nat} (v : Nat) (g : Bool) (h : i < 64) : (x.setV i v g).v i = v % 2 ^ 128 := by
  simp [Ctx.v, h]
theorem Ctx.v_setV_ne (x : Ctx) {i j : Nat} (v : Nat) (g : Bool) (h : j ≠ i) : (x.setV i v g).v j = x.v j := by
  simp [Ctx.v, FibreRegs.cell_setCell_ne _ _ h]
/-- R139: dropping a slot changes the two slots alone. -/
theorem Ctx.dropSlot_eq (x : Ctx) (b : Nat) :
    x.dropSlot b = { x with slot0 := (x.dropSlot b).slot0, slot1 := (x.dropSlot b).slot1 } := by
  unfold Ctx.dropSlot
  split
  · rfl
  · split <;> rfl
@[simp] theorem Ctx.dropSlot_r (x : Ctx) (b : Nat) : (x.dropSlot b).r = x.r := by rw [Ctx.dropSlot_eq]
@[simp] theorem Ctx.dropSlot_st (x : Ctx) (b : Nat) : (x.dropSlot b).st = x.st := by rw [Ctx.dropSlot_eq]
@[simp] theorem Ctx.dropSlot_nreg (x : Ctx) (b : Nat) : (x.dropSlot b).nreg = x.nreg := by rw [Ctx.dropSlot_eq]
@[simp] theorem Ctx.dropSlot_inc (x : Ctx) (b : Nat) : (x.dropSlot b).inc = x.inc := by rw [Ctx.dropSlot_eq]
@[simp] theorem Ctx.dropSlot_skein (x : Ctx) (b : Nat) : (x.dropSlot b).skein = x.skein := by rw [Ctx.dropSlot_eq]
@[simp] theorem Ctx.dropSlot_rank (x : Ctx) (b : Nat) : (x.dropSlot b).rank = x.rank := by rw [Ctx.dropSlot_eq]
@[simp] theorem Ctx.dropSlot_streamPos (x : Ctx) (b : Nat) : (x.dropSlot b).streamPos = x.streamPos := by rw [Ctx.dropSlot_eq]
@[simp] theorem Ctx.dropSlot_bmode (x : Ctx) (b : Nat) : (x.dropSlot b).bmode = x.bmode := by rw [Ctx.dropSlot_eq]
@[simp] theorem Ctx.advance_r (x : Ctx) (n : Nat) : (x.advance n).r = x.r := by
  unfold Ctx.advance; split
  · rfl
  · split <;> simp
@[simp] theorem Ctx.advance_st (x : Ctx) (n : Nat) : (x.advance n).st = x.st := by
  unfold Ctx.advance; split
  · rfl
  · split <;> simp

/-! ### Registers of a hart -/

/-- A write of a hart's register reads back, but for x0. -/
theorem Hart.get_set_self (h : Hart) {r : XReg} (v : Word) (hr : r ≠ 0#5) : (h.set r v).get r = v := by
  unfold Hart.set Hart.get
  by_cases ha : (h.jdieA && decide (10 ≤ r.toNat) && decide (r.toNat ≤ 17)) = true
  · have h8 : r.toNat - 10 < 8 := by simp at ha; omega
    simp [hr, ha, h8]
  · simp [hr, ha]
/-- x0 reads zero. -/
theorem Hart.get_zero (h : Hart) : h.get 0#5 = 0#64 := by simp [Hart.get]
/-- A write to x0 is discarded. -/
theorem Hart.set_zero (h : Hart) (v : Word) : h.set 0#5 v = h := by simp [Hart.set]

end Sys2Proof.Machine
end

