-- ==== Sys2Proof/Laws/Fibre.lean ====
section
/-! SUPPORT. What the shared operations of a Fibre's instruction can do: retirement, waking, streams, and the wrapper that every
instruction goes through. -/

namespace Sys2Proof.Machine
open Sys2Proof.Claim

/-! ### What waking, streams and stopping leave -/

/-- Two cores that differ in contexts, streams and block copies only; of the contexts no register, allocation, incarnation or
name, and no place of one that does not wait. -/
def Core.Same (k k' : Core) : Prop :=
  k' = { k with ctxs := k'.ctxs, skeins := k'.skeins, blocks := k'.blocks } ∧
  ∀ j, (k'.ctx j).r = (k.ctx j).r ∧ (k'.ctx j).nreg = (k.ctx j).nreg ∧ (k'.ctx j).inc = (k.ctx j).inc ∧
    (k'.ctx j).skein = (k.ctx j).skein ∧ (k'.ctx j).rank = (k.ctx j).rank ∧
    ((k.ctx j).st ≠ .waiting → place (k'.ctx j) = place (k.ctx j) ∧ (k'.ctx j).st ≠ .waiting)

theorem Core.Same.refl (k : Core) : k.Same k := ⟨rfl, fun _ => ⟨rfl, rfl, rfl, rfl, rfl, fun h => ⟨rfl, h⟩⟩⟩
theorem Core.Same.trans {a b c : Core} (h : a.Same b) (g : b.Same c) : a.Same c := by
  refine ⟨?_, fun j => ?_⟩
  · rw [g.1, h.1]
  · obtain ⟨h1, h2, h3, h4, h5, h6⟩ := h.2 j
    obtain ⟨g1, g2, g3, g4, g5, g6⟩ := g.2 j
    exact ⟨g1.trans h1, g2.trans h2, g3.trans h3, g4.trans h4, g5.trans h5, fun hw =>
      ⟨((g6 (h6 hw).2).1).trans (h6 hw).1, (g6 (h6 hw).2).2⟩⟩

/-- An update of one context that keeps what `Same` names. -/
theorem Core.Same.setCtx (k : Core) (i : Nat) (x : Ctx) (h1 : x.r = (k.ctx i).r) (h2 : x.nreg = (k.ctx i).nreg)
    (h3 : x.inc = (k.ctx i).inc) (h4 : x.skein = (k.ctx i).skein) (h5 : x.rank = (k.ctx i).rank)
    (h6 : (k.ctx i).st ≠ .waiting → place x = place (k.ctx i) ∧ x.st ≠ .waiting) : k.Same (k.setCtx i x) := by
  refine ⟨by rw [Core.setCtx_eq], fun j => ?_⟩
  rw [Core.ctx_setCtx]
  split
  · next h => obtain ⟨rfl, _⟩ := h; exact ⟨h1, h2, h3, h4, h5, h6⟩
  · exact ⟨rfl, rfl, rfl, rfl, rfl, fun h => ⟨rfl, h⟩⟩

theorem Ctx.advance_nreg (x : Ctx) (n : Nat) : (x.advance n).nreg = x.nreg := by
  unfold Ctx.advance; split
  · rfl
  · split <;> simp
theorem Ctx.advance_inc (x : Ctx) (n : Nat) : (x.advance n).inc = x.inc := by
  unfold Ctx.advance; split
  · rfl
  · split <;> simp
theorem Ctx.advance_skein (x : Ctx) (n : Nat) : (x.advance n).skein = x.skein := by
  unfold Ctx.advance; split
  · rfl
  · split <;> simp
theorem Ctx.advance_rank (x : Ctx) (n : Nat) : (x.advance n).rank = x.rank := by
  unfold Ctx.advance; split
  · rfl
  · split <;> simp

/-- R131: what waking a context can do. -/
theorem Core.same_wakeOne (k : Core) (i : Nat) : k.Same (k.wakeOne i) := by
  unfold Core.wakeOne
  simp only
  split
  · next h =>
    simp only [Bool.and_eq_true, beq_iff_eq] at h
    split
    · exact Core.Same.setCtx _ _ _ rfl rfl rfl rfl rfl fun hw => absurd h.1 hw
    · refine Core.Same.setCtx _ _ _ ?_ ?_ ?_ ?_ ?_ fun hw => absurd h.1 hw
      · simp
      · simp [Ctx.advance_nreg]
      · simp [Ctx.advance_inc]
      · simp [Ctx.advance_skein]
      · simp [Ctx.advance_rank]
  · exact .refl k

/-- R131: what waking can do. -/
theorem Core.same_wake (k : Core) : k.Same k.wake := by
  unfold Core.wake
  generalize List.range 32 = l
  induction l generalizing k with
  | nil => exact .refl k
  | cons i r ih => exact (Core.same_wakeOne k i).trans (ih _)

/-- R138: trimming streams changes streams only. -/
theorem Core.same_trimStreams (k : Core) : k.Same k.trimStreams :=
  ⟨rfl, fun _ => ⟨rfl, rfl, rfl, rfl, rfl, fun h => ⟨rfl, h⟩⟩⟩
/-- R135: dropping block copies changes the buffer only. -/
theorem Core.same_dropBlocks (k : Core) : k.Same k.dropBlocks :=
  ⟨rfl, fun _ => ⟨rfl, rfl, rfl, rfl, rfl, fun h => ⟨rfl, h⟩⟩⟩
/-- R139, R140: what stopping a context can do. -/
theorem Core.same_stopCtx (k : Core) (i : Nat) : k.Same (k.stopCtx i) := by
  unfold Core.stopCtx
  refine Core.Same.trans ?_ ((Core.same_trimStreams _).trans ((Core.same_dropBlocks _).trans (Core.same_wake _)))
  exact Core.Same.setCtx _ _ _ rfl rfl rfl rfl rfl fun _ => ⟨rfl, by simp⟩
/-- R138: what stopping at the tail of a closed stream can do. -/
theorem Core.same_stopAtTail (k : Core) (i : Nat) : k.Same (k.stopAtTail i) := by
  unfold Core.stopAtTail
  simp only
  split
  · split
    · split
      · exact Core.same_stopCtx k i
      · exact .refl k
    · exact .refl k
  · exact .refl k

/-- R138: what the end of an instruction does besides its own effect. -/
theorem Core.same_settle (k : Core) (i : Nat) : k.Same ((k.trimStreams.dropBlocks).stopAtTail i) :=
  (Core.same_trimStreams _).trans ((Core.same_dropBlocks _).trans (Core.same_stopAtTail _ _))

/-! ### Memory -/

/-- Memories read alike where they are equal. -/
theorem sameMemory_of {s t : State} (hm : t.mem = s.mem) (hh : t.host = s.host) (hs : ∀ c, (t.core c).spad = (s.core c).spad) :
    sameMemory s t := by
  have key : ∀ l, t.memOf l = s.memOf l := by
    intro l
    unfold State.memOf
    split
    · next c o => have := hs c; unfold State.core at this; rw [this]
    · rw [hm]
    · rw [hh]
    · rfl
  intro l
  simp only [State.readAt, State.tagsAt, State.isFull, State.poisonedAt, key, and_self]

/-! ### Retirement -/

/-- A state whose core c is replaced by one that is the same after an update of context i. -/
theorem onlyCtx_setCore {s : State} {c i : Nat} {k : Core} (x : Ctx) (h : ((s.core c).setCtx i x).Same k) :
    onlyCtx s (s.setCore c k) c i := by
  refine ⟨rfl, fun d hd => State.core_setCore_ne _ _ hd, ?_, fun j hj => ?_, ?_⟩
  · rw [State.core_setCore_self]
    have h1 := h.1
    rw [Core.setCtx_eq] at h1
    exact h1
  · have := h.2 j
    rw [Core.ctx_setCtx_ne _ _ hj] at this
    simp only [State.ctx, State.core_setCore_self]
    exact ⟨this.1, this.2.1, this.2.2.1⟩
  · refine sameMemory_of rfl rfl fun d => ?_
    by_cases hd : d = c
    · subst hd
      rw [State.core_setCore_self, h.1]
      simp
    · rw [State.core_setCore_ne _ _ hd]

theorem State.setCore_setCore (s : State) (c : Nat) (k k' : Core) : (s.setCore c k).setCore c k' = s.setCore c k' := by
  unfold State.setCore
  have : ∀ t : Tab Core, tabSet (tabSet t c k) c k' = tabSet t c k' := by
    intro t
    induction t with
    | nil => simp [tabSet]
    | cons p r ih =>
      obtain ⟨a, b⟩ := p
      simp only [tabSet]
      split
      · simp [tabSet]
      · split
        · simp [tabSet]
        · next h1 h2 => simp [tabSet, h1, h2, ih]
  simp [this]

/-- The path of a signed block changes nothing that the claims name. -/
theorem Core.addPath_fields (k : Core) (x : Ctx) :
    (k.addPath x).r = x.r ∧ (k.addPath x).st = x.st ∧ (k.addPath x).pcBlk = x.pcBlk ∧ (k.addPath x).pcOff = x.pcOff ∧
    (k.addPath x).streamPos = x.streamPos ∧ (k.addPath x).bmode = x.bmode ∧ (k.addPath x).nreg = x.nreg ∧
    (k.addPath x).inc = x.inc ∧ (k.addPath x).skein = x.skein ∧ (k.addPath x).rank = x.rank := by
  unfold Core.addPath; split <;> exact ⟨rfl, rfl, rfl, rfl, rfl, rfl, rfl, rfl, rfl, rfl⟩
theorem place_advance {x y : Ctx} (h : place x = place y) (n : Nat) : place (x.advance n) = place (y.advance n) := by
  simp only [place, Prod.mk.injEq] at h
  obtain ⟨h1, h2, h3, h4⟩ := h
  unfold Ctx.advance place
  simp only [h2, h4]
  split
  · simp [h1, h3]
  · split <;> simp [h1, h3, h4]
theorem Core.place_addPath (k : Core) (x : Ctx) : place (k.addPath x) = place x := by
  have h := Core.addPath_fields k x
  simp only [place, h]

/-- A context of core c that an instruction set to x moves on: what `retire` does. -/
theorem did_retire {s : State} {c i : Nat} (len : Nat) (x : Ctx) (hi : i < 32) (hx : x.st ≠ .waiting) :
    did s ((s.setCtx c i x).retire c i len) c i len x := by
  let k0 := (s.core c).setCtx i x
  let y := (k0.addPath x).advance len
  let k1 := k0.setCtx i y
  have hret : (s.setCtx c i x).retire c i len = s.setCore c ((k1.trimStreams.dropBlocks).stopAtTail i) := by
    have hc : ((s.core c).setCtx i x).ctx i = x := Core.ctx_setCtx_self _ _ hi
    simp only [State.retire, State.settle, State.setCtx, State.updCore, State.core_setCore_self, State.setCore_setCore, hc]
    rfl
  have hsame := Core.same_settle k1 i
  have hk1 : k1 = (s.core c).setCtx i y := by
    show ((s.core c).setCtx i x).setCtx i y = _
    unfold Core.setCtx; simp [hi]
  have hctx : k1.ctx i = y := Core.ctx_setCtx_self _ _ hi
  have hf := Core.addPath_fields k0 x
  have hi' := hsame.2 i
  rw [hctx] at hi'
  have hyst : y.st ≠ .waiting := by show ((k0.addPath x).advance len).st ≠ _; simp [hf, hx]
  rw [hret]
  have hci : (s.setCore c ((k1.trimStreams.dropBlocks).stopAtTail i)).ctx c i = ((k1.trimStreams.dropBlocks).stopAtTail i).ctx i := by
    simp [State.ctx]
  rw [did, hci]
  refine ⟨?_, ?_, ?_, ?_, ?_, ?_, ?_⟩
  · rw [hi'.1]; show ((k0.addPath x).advance len).r = x.r; simp [hf]
  · rw [(hi'.2.2.2.2.2 hyst).1]; exact place_advance (Core.place_addPath k0 x) len
  · rw [hi'.2.1]; show ((k0.addPath x).advance len).nreg = x.nreg; simp [Ctx.advance_nreg, hf]
  · rw [hi'.2.2.1]; show ((k0.addPath x).advance len).inc = x.inc; simp [Ctx.advance_inc, hf]
  · rw [hi'.2.2.2.1]; show ((k0.addPath x).advance len).skein = x.skein; simp [Ctx.advance_skein, hf]
  · rw [hi'.2.2.2.2.1]; show ((k0.addPath x).advance len).rank = x.rank; simp [Ctx.advance_rank, hf]
  · exact onlyCtx_setCore y (hk1 ▸ hsame)

/-! ### The wrapper -/

/-- R69, R55: where the claims' `ready` holds, and no register that it waits on is HELD, no operand stops an instruction. -/
theorem operandStop_ready {s : State} {c i : Nat} {cls : Cls} {rd wr : List Nat} {al : List (Nat × Nat)}
    (h : ready s c i cls rd wr al) (on : List Nat) (ho : ∀ r ∈ on, ((s.ctx c i).r.cell r).pres ≠ .held) (w : Bool) :
    operandStop s c (s.ctx c i) cls rd wr on al w = none := by
  obtain ⟨_, _, _, _, h1, h2, h3, h4, h5, h6, h7, h8⟩ := h
  have a1 : ((s.ctx c i).signed.isSome && cls.barredSigned) = false := by
    rcases h1 with h | h <;> simp [h]
  have a2 : ((rd ++ wr).any fun r => decide (r ≥ (s.ctx c i).nreg)) = false := by
    rw [List.any_eq_false]; intro r hr; have := h2 r hr; simp; omega
  have a3 : (al.any fun p => p.1 % p.2 != 0) = false := by
    rw [List.any_eq_false]; intro p hp; simp [h3 p hp]
  have a4 : (s.ctx c i).flawOf (rd ++ wr) = none := by
    unfold Ctx.flawOf
    rw [List.find?_eq_none]
    intro f hf hc
    obtain ⟨r, hr, hc⟩ := List.any_eq_true.1 hc
    exact h4 f hf r hr (List.contains_iff_mem.1 hc)
  have a5 : (rd.any fun r => ((s.ctx c i).r.cell r).bad) = false := by
    rw [List.any_eq_false]; intro r hr; simp [(h5 r hr).1]
  have a6 : ((rd ++ wr).any fun r => ((s.ctx c i).r.cell r).pres == .pending) = false := by
    rw [List.any_eq_false]; intro r hr; simpa using h6 r hr
  have a7 : ((rd ++ on).filter fun r => ((s.ctx c i).r.cell r).pres == .held) = [] := by
    rw [List.filter_eq_nil_iff]; intro r hr
    rcases List.mem_append.1 hr with hr | hr
    · simpa using (h5 r hr).2
    · simpa using ho r hr
  have a8 : (cls.heldByAcq && s.anyPending c (s.ctx c i).acqHold) = false := by
    cases hc : cls.heldByAcq <;> simp_all
  have a9 : (cls.isWrite && s.anyPending c (s.ctx c i).relHold) = false := by
    cases hc : cls.isWrite <;> simp_all
  unfold operandStop
  simp only [a1, a2, a3, a4, a5, a6, a7, a8, a9, Bool.and_false, Bool.false_eq_true, if_false]

/-- What an instruction of a Fibre that also waits on the registers `on` answers where nothing stops it. -/
theorem fibreOpOn_ready {s : State} {c i len : Nat} {cls : Cls} {rd wr on : List Nat} {al : List (Nat × Nat)}
    (body : State → Nat → Nat → Ctx → Issue) (h : ready s c i cls rd wr al)
    (ho : ∀ r ∈ on, ((s.ctx c i).r.cell r).pres ≠ .held) :
    fibreOpOn len cls rd wr on al body s = .next ((body s c i (s.ctx c i)).finish s c i len) := by
  have h0 := h.1
  simp only [fibreOpOn, h0, operandStop_ready h on ho]
/-- What an instruction of a Fibre answers where nothing stops it. -/
theorem fibreOp_ready {s : State} {c i len : Nat} {cls : Cls} {rd wr : List Nat} {al : List (Nat × Nat)}
    (body : State → Nat → Nat → Ctx → Issue) (h : ready s c i cls rd wr al) :
    fibreOp len cls rd wr al body s = .next ((body s c i (s.ctx c i)).finish s c i len) :=
  fibreOpOn_ready body h (by simp)

/-- The same for an instruction that does not wait for PENDING registers. -/
theorem fibreOpNoWait_ready {s : State} {c i len : Nat} {cls : Cls} {rd wr : List Nat}
    (body : State → Nat → Nat → Ctx → Issue) (h : ready s c i cls rd wr []) :
    fibreOpNoWait len cls rd wr body s = .next ((body s c i (s.ctx c i)).finish s c i len) := by
  have h0 := h.1
  simp only [fibreOpNoWait, h0, operandStop_ready h [] (by simp)]

/-- What an instruction that only computes on its own context answers. -/
theorem pureOp_ready {s : State} {c i : Nat} (len : Nat) {rd wr : List Nat} {al : List (Nat × Nat)} (f : Ctx → Ctx)
    (h : ready s c i .plain rd wr al) :
    pureOp len rd wr al f s = .next ((s.setCtx c i (f (s.ctx c i))).retire c i len) := fibreOp_ready _ h

/-- A context that is ready does not wait. -/
theorem ready_st {s : State} {c i : Nat} {cls : Cls} {rd wr : List Nat} {al : List (Nat × Nat)} (h : ready s c i cls rd wr al) :
    (s.ctx c i).st ≠ .waiting := by rw [h.2.2.2.1]; simp

/-- R83: an instruction that only computes on its own context has its effect and no other. -/
theorem pureOp_did {s : State} {c i : Nat} (len : Nat) {rd wr : List Nat} {al : List (Nat × Nat)} (f : Ctx → Ctx)
    (hf : ∀ x, (f x).st = x.st) (h : ready s c i .plain rd wr al) :
    ∃ t, pureOp len rd wr al f s = .next t ∧ did s t c i len (f (s.ctx c i)) := by
  refine ⟨_, fibreOp_ready _ h, ?_⟩
  refine did_retire len _ h.2.2.1 ?_
  rw [hf, h.2.2.2.1]; simp

/-- An instruction that computes on its own context and does not fault. -/
theorem faultOp_did {s : State} {c i : Nat} (len : Nat) {rd wr : List Nat} {al : List (Nat × Nat)} (f : Ctx → Except (Nat × Nat) Ctx)
    {y : Ctx} (hy : f (s.ctx c i) = .ok y) (hst : y.st = (s.ctx c i).st) (h : ready s c i .plain rd wr al) :
    ∃ t, faultOp len rd wr al f s = .next t ∧ did s t c i len y := by
  refine ⟨_, fibreOp_ready _ h, ?_⟩
  simp only [hy, Issue.finish]
  refine did_retire len _ h.2.2.1 ?_
  rw [hst, h.2.2.2.1]; simp

end Sys2Proof.Machine
end

