-- ==== Sys2Proof/Laws/Hart.lean ====
section
/-! SUPPORT. What the shared operations of a hart's instruction can do: retirement, exceptions, and the wrapper that every
instruction goes through. -/

namespace Sys2Proof.Machine
open Sys2Proof.Claim

/-! ### Harts of a core -/

@[simp] theorem Core.hart_setHart_self (k : Core) (u : Bool) (h : Hart) : (k.setHart u h).hart u = h := by
  cases u <;> rfl
@[simp] theorem Core.hart_setHart_not (k : Core) (u : Bool) (h : Hart) : (k.setHart u h).hart (!u) = k.hart (!u) := by
  cases u <;> rfl
@[simp] theorem Core.setHart_setHart (k : Core) (u : Bool) (h g : Hart) : (k.setHart u h).setHart u g = k.setHart u g := by
  cases u <;> rfl
@[simp] theorem Core.setHart_hart (k : Core) (u : Bool) : k.setHart u (k.hart u) = k := by cases u <;> rfl
@[simp] theorem Core.setHart_entry (k : Core) (u : Bool) (h : Hart) (n : Nat) : (k.setHart u h).entry n = k.entry n := by
  cases u <;> rfl
@[simp] theorem Core.setHart_seq (k : Core) (u : Bool) (h : Hart) : (k.setHart u h).seq = k.seq := by cases u <;> rfl
@[simp] theorem Core.setHart_tenant (k : Core) (u : Bool) (h : Hart) : (k.setHart u h).tenant = k.tenant := by cases u <;> rfl
@[simp] theorem Core.setHart_spad (k : Core) (u : Bool) (h : Hart) : (k.setHart u h).spad = k.spad := by cases u <;> rfl
@[simp] theorem Core.ctx_setHart (k : Core) (u : Bool) (h : Hart) (i : Nat) : (k.setHart u h).ctx i = k.ctx i := by cases u <;> rfl

@[simp] theorem State.hart_setHart_self (s : State) (c : Nat) (u : Bool) (h : Hart) : (s.setHart c u h).hart c u = h := by
  simp [State.hart, State.setHart]
@[simp] theorem State.setHart_setHart (s : State) (c : Nat) (u : Bool) (h g : Hart) :
    (s.setHart c u h).setHart c u g = s.setHart c u g := by
  simp [State.setHart, State.updCore, State.setCore_setCore]
/-- A change of a hart that was just replaced. -/
theorem State.updHart_setHart (s : State) (c : Nat) (u : Bool) (h : Hart) (f : Hart → Hart) :
    (s.setHart c u h).updHart c u f = s.setHart c u (f h) := by
  simp [State.updHart, State.setHart, State.updCore, State.setCore_setCore]
/-- A change of a hart is its replacement. -/
theorem State.updHart_eq (s : State) (c : Nat) (u : Bool) (f : Hart → Hart) : s.updHart c u f = s.setHart c u (f (s.hart c u)) := rfl
theorem State.core_setHart_ne (s : State) {c d : Nat} (u : Bool) (h : Hart) (hd : d ≠ c) : (s.setHart c u h).core d = s.core d :=
  State.core_updCore_ne _ _ hd
@[simp] theorem State.core_setHart (s : State) (c : Nat) (u : Bool) (h : Hart) : (s.setHart c u h).core c = (s.core c).setHart u h := by
  simp [State.setHart]
@[simp] theorem State.setHart_pkg (s : State) (c : Nat) (u : Bool) (h : Hart) : (s.setHart c u h).pkg = s.pkg := rfl
@[simp] theorem State.setHart_mem (s : State) (c : Nat) (u : Bool) (h : Hart) : (s.setHart c u h).mem = s.mem := rfl
@[simp] theorem State.setHart_host (s : State) (c : Nat) (u : Bool) (h : Hart) : (s.setHart c u h).host = s.host := rfl
@[simp] theorem State.setHart_agent (s : State) (c : Nat) (u : Bool) (h : Hart) : (s.setHart c u h).agent = s.agent := rfl

/-! ### Retirement (R146, R148) -/

/-- A write of a register changes neither where the hart is nor what it does. -/
theorem Hart.set_eq (h : Hart) (d : XReg) (v : Word) : h.set d v = { h with x := (h.set d v).x, shadow := (h.set d v).shadow } := by
  unfold Hart.set
  split
  · rfl
  · split
    · split <;> rfl
    · rfl

/-- A hart that executes is RUNNING after it has retired its instruction. -/
theorem Hart.retireTo_set {h : Hart} (he : h.executes = true) (d : XReg) (v : Word) (pc : Word) :
    (h.set d v).retireTo pc = hartAt h d v pc := by
  have hst : (h.set d v).st = h.st := by rw [Hart.set_eq]
  have hr : (if (h.set d v).st == .waiting then HartSt.running else (h.set d v).st) = .running := by
    rw [hst]
    simp only [Hart.executes, Bool.or_eq_true, Bool.and_eq_true, beq_iff_eq] at he
    rcases he with h1 | h1
    · simp [h1]
    · simp [h1.1]
  have hin : (h.set d v).instret = h.instret := by rw [Hart.set_eq]
  simp only [Hart.retireTo, hartAt, hr, hin]

/-! ### The wrapper of an instruction of a hart -/

/-- An instruction of a hart that executes runs its body. -/
theorem hartOp_ready {s : State} {c : Nat} {u : Bool} (h : hartReady s c u) (body : State → Nat → Bool → Hart → HIssue) :
    hartOp body s = .next ((body s c u (s.hart c u)).finish s c u (hartLen s.hraw)) := by
  simp [hartOp, h.1]

/-- What `hartPure` does: rd gets the value, and nothing else changes. -/
theorem hartPure_done {s : State} {c : Nat} {u : Bool} (h : hartReady s c u) (d : XReg) (f : Hart → Word) :
    ∃ t, hartPure d f s = .next t ∧ hartDone s t c u d (f (s.hart c u)) := by
  refine ⟨_, hartOp_ready h _, ?_⟩
  have hpc : ((s.hart c u).set d (f (s.hart c u))).pc = (s.hart c u).pc := by rw [Hart.set_eq]
  simp only [HIssue.finish, State.updHart_setHart, hpc, Hart.retireTo_set h.2.2, hartDone]

/-- A body that retires with a register written. -/
theorem hart_retire_done {s : State} {c : Nat} {u : Bool} (h : hartReady s c u) (d : XReg) (v : Word) :
    hartDone s ((HIssue.retire (s.setHart c u ((s.hart c u).set d v))).finish s c u (hartLen s.hraw)) c u d v := by
  have hpc : ((s.hart c u).set d v).pc = (s.hart c u).pc := by rw [Hart.set_eq]
  simp only [HIssue.finish, State.updHart_setHart, hpc, Hart.retireTo_set h.2.2, hartDone]

/-- A body that retires with a register written and jumps. -/
theorem hart_jump_done {s : State} {c : Nat} {u : Bool} (h : hartReady s c u) (d : XReg) (v pc : Word) :
    (HIssue.jump (s.setHart c u ((s.hart c u).set d v)) pc).finish s c u (hartLen s.hraw) = s.setHart c u (hartAt (s.hart c u) d v pc) := by
  simp only [HIssue.finish, State.updHart_setHart, Hart.retireTo_set h.2.2]

/-- A body that holds leaves the hart at its instruction. -/
theorem hart_hold_held (s : State) (c : Nat) (u : Bool) (h : Hart) (len : Nat) :
    hartHeld s ((HIssue.hold (s.setHart c u h)).finish s c u len) c u h := by
  simp only [HIssue.finish, State.updHart_setHart, hartHeld]

/-! ### Exceptions (R152) -/

/-- Whether the entry of channel 2 is usable does not depend on what a hart misses. -/
theorem Core.excUsable_missVa (k : Core) (u : Bool) : (k.setHart u { k.hart u with missVa := none }).excUsable u = k.excUsable u := by
  cases u <;> rfl

/-- A body that raises an exception: the hart takes it at its own instruction. -/
theorem hart_exc_taken (s : State) (c : Nat) (u : Bool) (cause mtval len : Nat) :
    excTaken s ((HIssue.exc s cause mtval).finish s c u len) c u cause mtval := by
  have hk : (s.updHart c u fun h => { h with missVa := none }).core c = (s.core c).setHart u { (s.core c).hart u with missVa := none } := by
    simp [State.updHart]
  refine ⟨fun hu => ?_, fun hu => ?_⟩
  · simp only [HIssue.finish, State.takeException, hk, Core.excUsable_missVa, hu, if_true]
    simp only [State.updHart, State.updCore, State.setCore_setCore]
    cases u <;> rfl
  · simp only [HIssue.finish, State.takeException, hk, Core.excUsable_missVa, hu]
    simp only [State.updHart, State.updCore, State.setCore_setCore]
    cases u <;> rfl

end Sys2Proof.Machine
end

