-- ==== Sys2Proof/Laws/Host.lean ====
section
/-! SUPPORT. What the taking of a host's command, its reply, and changes of fence entries and kernels can do. -/

namespace Sys2Proof.Machine

/-! ### Slots and replies (R384, R385) -/

theorem setSlot_self (v : Vector (List Byte) 32) {i : Nat} (d : List Byte) (h : i < 32) : (setSlot v i d).toList.getD i [] = d := by
  simp [setSlot, h, List.getD]
theorem setSlot_ne (v : Vector (List Byte) 32) {i j : Nat} (d : List Byte) (h : j ≠ i) :
    (setSlot v i d).toList.getD j [] = v.toList.getD j [] := by
  unfold setSlot
  split
  · simp [List.getD, Ne.symm h]
  · rfl

/-- A row acts only where the firmware may take a command that is its own. -/
theorem cmdRow_idle {mine named act} {s : State} (h : s.nextCmd = none) : cmdRow mine named act s = .next s := by
  simp [cmdRow, h]
/-- A row whose command breaks no rule acts on it, its slot taken. -/
theorem cmdRow_acts {mine named act} {s : State} {i h : Nat} {p : List Byte} (hn : s.nextCmd = some (i, h, p))
    (hm : mine (hdrOp h) p = true) (hl : hdrPlen h ≤ 48) (hb : cmdBad h p = false) (hs : cmdSpare named p = false) :
    cmdRow mine named act s = .next (act (s.takeSlot i) i h p) := by
  have hl' : ¬ 48 < hdrPlen h := by omega
  simp [cmdRow, hn, hm, hl', hb, hs]
/-- A row whose command breaks one replies with BADCMD. -/
theorem cmdRow_bad {mine named act} {s : State} {i h : Nat} {p : List Byte} (hn : s.nextCmd = some (i, h, p))
    (hm : mine (hdrOp h) p = true) (hl : hdrPlen h ≤ 48) (hb : cmdBad h p = true ∨ cmdSpare named p = true) :
    cmdRow mine named act s = .next ((s.takeSlot i).replyHost i h 1 []) := by
  have hl' : ¬ 48 < hdrPlen h := by omega
  rcases hb with hb | hb <;> simp [cmdRow, hn, hm, hl', hb]
/-- The next command of the firmware, from its slot. -/
theorem nextCmd_of {s : State} {i h : Nat} {p : List Byte} (hi : i = s.agent.nextSlot) (hc : s.agent.cmd = none)
    (hh : h = ofBytes ((s.agent.cmdSlots.toList.getD i []).take 16)) (hp : p = (s.agent.cmdSlots.toList.getD i []).drop 16)
    (hv : h.testBit 64 = true) (hr : (ofBytes ((s.agent.replySlots.toList.getD i []).take 16)).testBit 64 = false) :
    s.nextCmd = some (i, h, p) := by
  subst hi hh hp
  simp only [State.nextCmd, hc, slotHeader, hdrV, bit]
  rw [if_pos (by rw [hv, hr]; rfl)]

/-- What taking a slot leaves. -/
@[simp] theorem State.takeSlot_cores (s : State) (i : Nat) : (s.takeSlot i).cores = s.cores := rfl
@[simp] theorem State.takeSlot_core (s : State) (i c : Nat) : (s.takeSlot i).core c = s.core c := rfl
@[simp] theorem State.takeSlot_mem (s : State) (i : Nat) : (s.takeSlot i).mem = s.mem := rfl
@[simp] theorem State.takeSlot_host (s : State) (i : Nat) : (s.takeSlot i).host = s.host := rfl
@[simp] theorem State.takeSlot_pod (s : State) (i : Nat) : (s.takeSlot i).pod = s.pod := rfl
@[simp] theorem State.takeSlot_pkg (s : State) (i : Nat) : (s.takeSlot i).pkg = s.pkg := rfl
@[simp] theorem State.takeSlot_kernels (s : State) (i : Nat) : (s.takeSlot i).agent.kernels = s.agent.kernels := rfl
@[simp] theorem State.takeSlot_roots (s : State) (i : Nat) : (s.takeSlot i).agent.roots = s.agent.roots := rfl
@[simp] theorem State.takeSlot_frames (s : State) (i : Nat) : (s.takeSlot i).agent.frames = s.agent.frames := rfl
@[simp] theorem State.takeSlot_keys (s : State) (i : Nat) : (s.takeSlot i).agent.keys = s.agent.keys := rfl
@[simp] theorem State.takeSlot_nextSlot (s : State) (i : Nat) : (s.takeSlot i).agent.nextSlot = (i + 1) % 32 := rfl
@[simp] theorem State.fence_takeSlot (s : State) (i k : Nat) : (s.takeSlot i).fence k = s.fence k := rfl

/-! ### Memory keys (R379) -/

/-- A change of keys changes what memory reads, and nothing else. -/
theorem State.rekey_eq (s : State) (old : Agent) (a n : Nat) : ∃ m, s.rekey old a n = { s with mem := m } ∧
    m = s.mem.mapUnits a n (recrypt old s.agent) := ⟨_, rfl, rfl⟩
@[simp] theorem State.rekey_cores (s : State) (old : Agent) (a n : Nat) : (s.rekey old a n).cores = s.cores := rfl
@[simp] theorem State.rekey_core (s : State) (old : Agent) (a n c : Nat) : (s.rekey old a n).core c = s.core c := rfl
@[simp] theorem State.rekey_agent (s : State) (old : Agent) (a n : Nat) : (s.rekey old a n).agent = s.agent := rfl
@[simp] theorem State.rekey_host (s : State) (old : Agent) (a n : Nat) : (s.rekey old a n).host = s.host := rfl
@[simp] theorem State.rekey_reqs (s : State) (old : Agent) (a n : Nat) : (s.rekey old a n).reqs = s.reqs := rfl
@[simp] theorem State.rekey_mem (s : State) (old : Agent) (a n : Nat) :
    (s.rekey old a n).mem = s.mem.mapUnits a n (recrypt old s.agent) := rfl
/-- A unit whose slot stays reads as before. -/
theorem recrypt_same {old new : Agent} {u : Nat} (h : old.slotAt (64 * u) = new.slotAt (64 * u)) (d : List Byte) :
    recrypt old new u d = d := by simp [recrypt, h]

/-- A reply changes the reply slots, the command that runs, the interrupts and one counter alone. -/
theorem State.replyHost_eq (s : State) (i h st : Nat) (res : List Byte) :
    ∃ m c v, s.replyHost i h st res =
      { s with msix := m, agent := { s.agent with cmd := none, counters := c, replySlots := v } } := by
  unfold State.replyHost
  dsimp only
  split
  · unfold State.interruptHost
    split
    · exact ⟨_, _, _, rfl⟩
    · exact ⟨_, _, _, rfl⟩
  · exact ⟨_, _, _, rfl⟩
@[simp] theorem State.replyHost_cores (s : State) (i h st : Nat) (res : List Byte) : (s.replyHost i h st res).cores = s.cores := by
  obtain ⟨m, c, v, e⟩ := s.replyHost_eq i h st res; rw [e]
@[simp] theorem State.replyHost_core (s : State) (i h st : Nat) (res : List Byte) (c : Nat) :
    (s.replyHost i h st res).core c = s.core c := by
  obtain ⟨m, d, v, e⟩ := s.replyHost_eq i h st res; rw [e]; rfl
@[simp] theorem State.replyHost_mem (s : State) (i h st : Nat) (res : List Byte) : (s.replyHost i h st res).mem = s.mem := by
  obtain ⟨m, c, v, e⟩ := s.replyHost_eq i h st res; rw [e]
@[simp] theorem State.replyHost_host (s : State) (i h st : Nat) (res : List Byte) : (s.replyHost i h st res).host = s.host := by
  obtain ⟨m, c, v, e⟩ := s.replyHost_eq i h st res; rw [e]
@[simp] theorem State.replyHost_pod (s : State) (i h st : Nat) (res : List Byte) : (s.replyHost i h st res).pod = s.pod := by
  obtain ⟨m, c, v, e⟩ := s.replyHost_eq i h st res; rw [e]
@[simp] theorem State.replyHost_pkg (s : State) (i h st : Nat) (res : List Byte) : (s.replyHost i h st res).pkg = s.pkg := by
  obtain ⟨m, c, v, e⟩ := s.replyHost_eq i h st res; rw [e]
@[simp] theorem State.fence_replyHost (s : State) (i h st : Nat) (res : List Byte) (k : Nat) :
    (s.replyHost i h st res).fence k = s.fence k := by
  obtain ⟨m, c, v, e⟩ := s.replyHost_eq i h st res; rw [e]; rfl

/-! ### Fence entries (R364) -/

@[simp] theorem State.fence_setFence_self (s : State) {k : Nat} (f : Fence) (h : k < 32) : (s.setFence k f).fence k = f := by
  simp [State.setFence, State.fence, h]
theorem State.fence_setFence_ne (s : State) {k j : Nat} (f : Fence) (h : j ≠ k) : (s.setFence k f).fence j = s.fence j := by
  unfold State.setFence State.fence
  by_cases hk : k < 32 <;> by_cases hj : j < 32 <;> simp [hk, hj, Ne.symm h]
@[simp] theorem State.setFence_cores (s : State) (k : Nat) (f : Fence) : (s.setFence k f).cores = s.cores := by
  unfold State.setFence; split <;> rfl

/-! ### Kernels (R235) -/

/-- A kernel's identifier is the one it is found by. -/
theorem State.kernel_kid {s : State} {kid : Nat} {k : Kernel} (h : s.kernel kid = some k) : k.kid = kid := by
  simpa using List.find?_some h
/-- A change of a kernel that keeps its identifier is found by it. -/
theorem State.kernel_updKernel {s : State} {kid : Nat} {k : Kernel} (f : Kernel → Kernel) (h : s.kernel kid = some k)
    (hf : ∀ q : Kernel, q.kid = kid → (f q).kid = kid) : (s.updKernel kid f).kernel kid = some (f k) := by
  unfold State.kernel at h
  show List.find? _ (List.map _ s.agent.kernels) = some (f k)
  generalize s.agent.kernels = l at h ⊢
  induction l with
  | nil => simp at h
  | cons q r ih =>
    simp only [List.map_cons, List.find?_cons] at h ⊢
    by_cases hq : q.kid = kid
    · have : q = k := by simpa [hq] using h
      subst this
      simp [hq, hf]
    · have hb : (q.kid == kid) = false := by simpa using hq
      rw [hb] at h
      rw [if_neg hq, hb]
      exact ih h
/-- A change of a kernel leaves cores, memories and fences. -/
@[simp] theorem State.updKernel_cores (s : State) (kid : Nat) (f : Kernel → Kernel) : (s.updKernel kid f).cores = s.cores := rfl
@[simp] theorem State.updKernel_mem (s : State) (kid : Nat) (f : Kernel → Kernel) : (s.updKernel kid f).mem = s.mem := rfl
@[simp] theorem State.updKernel_host (s : State) (kid : Nat) (f : Kernel → Kernel) : (s.updKernel kid f).host = s.host := rfl
@[simp] theorem State.fence_updKernel (s : State) (kid : Nat) (f : Kernel → Kernel) (k : Nat) :
    (s.updKernel kid f).fence k = s.fence k := rfl

/-- R359: the notice of an ordered message that has been taken is the one change that taking it makes beside. -/
theorem State.tookOrdered_eq (s : State) (m : Msg) : ∃ n, s.tookOrdered m = { s with pod := { s.pod with notices := n } } := by
  unfold State.tookOrdered
  dsimp only
  split
  · exact ⟨_, rfl⟩
  · exact ⟨s.pod.notices, rfl⟩
theorem State.tookOrdered_plain {m : Msg} (s : State) (h : m.flag flagOrdered = false) : s.tookOrdered m = s := by
  simp [State.tookOrdered, h]
@[simp] theorem State.tookOrdered_cores (s : State) (m : Msg) : (s.tookOrdered m).cores = s.cores := by
  obtain ⟨n, h⟩ := s.tookOrdered_eq m; rw [h]
@[simp] theorem State.tookOrdered_agent (s : State) (m : Msg) : (s.tookOrdered m).agent = s.agent := by
  obtain ⟨n, h⟩ := s.tookOrdered_eq m; rw [h]
@[simp] theorem State.tookOrdered_mem (s : State) (m : Msg) : (s.tookOrdered m).mem = s.mem := by
  obtain ⟨n, h⟩ := s.tookOrdered_eq m; rw [h]
/-- R235: the end of a kernel changes kernels and outcomes of the launch agent alone. -/
theorem State.closeKernel_eq (s : State) (kid status place : Nat) :
    ∃ l o, s.closeKernel kid status place = { s with agent := { s.agent with kernels := l, outcomes := o } } := by
  unfold State.closeKernel
  split
  · exact ⟨s.agent.kernels, s.agent.outcomes, rfl⟩
  · split
    · exact ⟨s.agent.kernels, s.agent.outcomes, rfl⟩
    · dsimp only
      split
      · exact ⟨_, s.agent.outcomes, rfl⟩
      · exact ⟨_, _, rfl⟩
@[simp] theorem State.closeKernel_cores (s : State) (kid status place : Nat) : (s.closeKernel kid status place).cores = s.cores := by
  obtain ⟨l, o, h⟩ := s.closeKernel_eq kid status place; rw [h]
@[simp] theorem State.closeKernel_mem (s : State) (kid status place : Nat) : (s.closeKernel kid status place).mem = s.mem := by
  obtain ⟨l, o, h⟩ := s.closeKernel_eq kid status place; rw [h]
@[simp] theorem State.closeKernel_host (s : State) (kid status place : Nat) : (s.closeKernel kid status place).host = s.host := by
  obtain ⟨l, o, h⟩ := s.closeKernel_eq kid status place; rw [h]

/-! ### Sensors (R390) -/

@[simp] theorem State.setSensor_cores (s : State) (n v : Nat) : (s.setSensor n v).cores = s.cores := rfl
@[simp] theorem State.setSensor_mem (s : State) (n v : Nat) : (s.setSensor n v).mem = s.mem := rfl
@[simp] theorem State.setSensor_readings (s : State) (n v : Nat) : (s.setSensor n v).readings = s.readings := rfl
@[simp] theorem State.monitor_cores (s : State) (n : Nat) : (s.monitor n).cores = s.cores := rfl
@[simp] theorem State.monitor_mem (s : State) (n : Nat) : (s.monitor n).mem = s.mem := rfl
@[simp] theorem State.monitor_agent (s : State) (n : Nat) : (s.monitor n).agent = s.agent := rfl

end Sys2Proof.Machine
end

