-- ==== Sys2Proof/Laws/Lanes.lean ====
section
/-! SUPPORT. Laws of lanes (R13) and of masked lane-wise results (R83). -/

namespace Sys2Proof.Machine
open Sys2Proof.Claim

/-- Lanes fit their width. -/
theorem packLanes_lt (w : Nat) (l : List Nat) : packLanes w l < 2 ^ (w * l.length) := by
  induction l with
  | nil => simp [packLanes]
  | cons x r ih =>
    have hx : x % 2 ^ w < 2 ^ w := Nat.mod_lt _ (Nat.two_pow_pos _)
    have : 2 ^ (w * (x :: r).length) = 2 ^ w * 2 ^ (w * r.length) := by
      rw [← Nat.pow_add]; congr 1; simp [Nat.mul_add, Nat.add_comm]
    rw [packLanes, this]
    calc x % 2 ^ w + 2 ^ w * packLanes w r < 2 ^ w + 2 ^ w * packLanes w r := by omega
      _ = 2 ^ w * (packLanes w r + 1) := by rw [Nat.mul_add]; omega
      _ ≤ 2 ^ w * 2 ^ (w * r.length) := Nat.mul_le_mul_left _ ih

/-- R13: a lane of a packed number. -/
theorem lane_packLanes (w : Nat) (l : List Nat) (j : Nat) : lane (packLanes w l) w j = (l.getD j 0) % 2 ^ w := by
  induction l generalizing j with
  | nil => simp [packLanes, lane]
  | cons x r ih =>
    have hpos : 0 < 2 ^ w := Nat.two_pow_pos w
    cases j with
    | zero => simp [packLanes, lane, Nat.add_mul_mod_self_left]
    | succ j =>
      have h1 : (x % 2 ^ w + 2 ^ w * packLanes w r) / 2 ^ (w * (j + 1)) = packLanes w r / 2 ^ (w * j) := by
        rw [Nat.mul_add, Nat.mul_one, Nat.add_comm (w * j), Nat.pow_add, ← Nat.div_div_eq_div_mul,
          Nat.add_mul_div_left _ _ hpos, Nat.div_eq_of_lt (Nat.mod_lt _ hpos), Nat.zero_add]
      have := ih j
      simp only [lane] at this ⊢
      rw [packLanes, h1, this]
      simp

/-- R13: a lane of `mkLanes`. -/
theorem lane_mkLanes (w n : Nat) (f : Nat → Nat) {j : Nat} (h : j < n) : lane (mkLanes w n f) w j = f j % 2 ^ w := by
  rw [mkLanes, lane_packLanes]
  simp [List.getD, h]

/-- The lanes of a width fill a register. -/
theorem mkLanes_lt (w : Width) (f : Nat → Nat) : mkLanes w.bitsN w.lanes f < 2 ^ 128 := by
  have := packLanes_lt w.bitsN ((List.range w.lanes).map f)
  rw [List.length_map, List.length_range] at this
  have hw : w.bitsN * w.lanes = 128 := by cases w <;> rfl
  rw [hw] at this
  exact this

/-- A lane is below its modulus. -/
theorem lane_lt (v w j : Nat) : lane v w j < 2 ^ w := Nat.mod_lt _ (Nat.two_pow_pos _)

/-- R83: the lanes that `writeLanes` writes. -/
theorem lanesOf_mk (x : Ctx) (m : MReg) (w : Width) (d : VReg) (f : Nat → Nat) :
    lanesOf x m w d f (mkLanes w.bitsN w.lanes fun j => if x.maskBit m j then f j else lane (x.v d.toNat) w.bitsN j) := by
  refine ⟨mkLanes_lt _ _, fun j hj => ?_⟩
  rw [lane_mkLanes _ _ _ hj]
  split
  · rfl
  · exact Nat.mod_eq_of_lt (lane_lt _ _ _)

/-- R13: trunc fits its width. -/
theorem trunc_mod (x : Int) (w : Nat) : trunc x w % 2 ^ w = trunc x w := by
  unfold trunc
  apply Nat.mod_eq_of_lt
  have hp : (0 : Int) < 2 ^ w := by exact_mod_cast Nat.two_pow_pos w
  have h1 := Int.emod_lt_of_pos x hp
  have h0 := Int.emod_nonneg x (by omega : (2 ^ w : Int) ≠ 0)
  have : ((2 ^ w : Nat) : Int) = (2 ^ w : Int) := by norm_cast
  omega

/-- R83: a lane-wise instruction of two sources writes its lanes and does nothing else; g may state its lane result otherwise. -/
theorem lanes2_did {s : State} {c i : Nat} (m : MReg) (w : Width) (b a d : VReg) (f g : Nat → Nat → Nat)
    (hfg : ∀ x y, x < 2 ^ w.bitsN → y < 2 ^ w.bitsN → f x y % 2 ^ w.bitsN = g x y % 2 ^ w.bitsN)
    (h : ready s c i .plain (maskedReads m [a, b] d) [d.toNat] []) :
    ∃ t v, lanes2 m w b a d f s = .next t ∧
      lanesOf (s.ctx c i) m w d
        (fun j => g (lane ((s.ctx c i).v a.toNat) w.bitsN j) (lane ((s.ctx c i).v b.toNat) w.bitsN j)) v ∧
      did s t c i 2 ((s.ctx c i).setV d.toNat v) := by
  obtain ⟨t, ht, hd⟩ := pureOp_did 2 (fun x => x.writeLanes m d w.bitsN w.lanes fun i =>
      f (lane (x.v a.toNat) w.bitsN i) (lane (x.v b.toNat) w.bitsN i)) (fun _ => rfl) h
  refine ⟨t, _, ht, ?_, hd⟩
  have := lanesOf_mk (s.ctx c i) m w d fun j => f (lane ((s.ctx c i).v a.toNat) w.bitsN j) (lane ((s.ctx c i).v b.toNat) w.bitsN j)
  refine ⟨this.1, fun j hj => ?_⟩
  rw [this.2 j hj, hfg _ _ (lane_lt _ _ _) (lane_lt _ _ _)]
/-- R83: a lane-wise instruction of one source writes its lanes and does nothing else. -/
theorem lanes1_did {s : State} {c i : Nat} (m : MReg) (w : Width) (a d : VReg) (f g : Nat → Nat)
    (hfg : ∀ x, x < 2 ^ w.bitsN → f x % 2 ^ w.bitsN = g x % 2 ^ w.bitsN)
    (h : ready s c i .plain (maskedReads m [a] d) [d.toNat] []) :
    ∃ t v, lanes1 m w a d f s = .next t ∧
      lanesOf (s.ctx c i) m w d (fun j => g (lane ((s.ctx c i).v a.toNat) w.bitsN j)) v ∧
      did s t c i 2 ((s.ctx c i).setV d.toNat v) := by
  obtain ⟨t, ht, hd⟩ := pureOp_did 2 (fun x => x.writeLanes m d w.bitsN w.lanes fun i =>
      f (lane (x.v a.toNat) w.bitsN i)) (fun _ => rfl) h
  refine ⟨t, _, ht, ?_, hd⟩
  have := lanesOf_mk (s.ctx c i) m w d fun j => f (lane ((s.ctx c i).v a.toNat) w.bitsN j)
  refine ⟨this.1, fun j hj => ?_⟩
  rw [this.2 j hj, hfg _ (lane_lt _ _ _)]

/-- R13: trunc of a magnitude. -/
theorem trunc_natAbs (x : Int) (w : Nat) : trunc (x.natAbs : Int) w = x.natAbs % 2 ^ w := by
  unfold trunc
  have : ((x.natAbs % 2 ^ w : Nat) : Int) = (x.natAbs : Int) % 2 ^ w := by push_cast; rfl
  omega

/-- R13: trunc undoes sext. -/
theorem trunc_sext {a w : Nat} (h : a < 2 ^ w) : trunc (sext a w) w = a := by
  unfold trunc sext
  rw [Nat.mod_eq_of_lt h]
  have : ((2 ^ w : Nat) : Int) = (2 ^ w : Int) := by norm_cast
  split
  · rw [Int.emod_eq_of_lt (by omega) (by omega)]; omega
  · rw [show (a : Int) - 2 ^ w = a + 2 ^ w * (-1) by omega, Int.add_mul_emod_self_left, Int.emod_eq_of_lt (by omega) (by omega)]; omega

/-- No width is zero. -/
theorem Width.pos (w : Width) : 0 < w.bitsN := by cases w <;> decide

end Sys2Proof.Machine
end

