-- ==== Sys2Proof/Tests/Slice0.lean ====
section
/-! SUPPORT. Tests: ill-formed terms, words of the spec's encodings, worked examples of the spec one step each, and for each
statement with hypotheses a state and operands that meet them. -/

namespace Sys2Proof.Tests
open Sys2Proof Sys2Proof.Machine
set_option Elab.async false

/-! ### Ill-formed instructions (R68) -/

/-- R88: a shift count of the width. -/
theorem test_wf_shift : (Instr.shlImm .w8 8 1 2).wf = false ∧ (Instr.shrImm .w16 16 1 2).wf = false ∧
    (Instr.sraImm .w32 32 1 2).wf = false ∧ (Instr.rotImm .w32 40 1 2).wf = false ∧ (Instr.rotImm .w64 63 1 2).wf = true := by decide
/-- R88: movh past the lane. -/
theorem test_wf_movh : (Instr.movh 0 false 21 1).wf = false ∧ (Instr.movh 0 true 53 1).wf = false ∧ (Instr.movh 0 true 52 1).wf = true := by
  decide
/-- R89: a lane index past the lanes. -/
theorem test_wf_lane : (Instr.ext .w32 4 1 2).wf = false ∧ (Instr.ins 0 .w64 2 1 2).wf = false ∧ (Instr.bcst 0 .w8 16 1 2).wf = false := by
  decide
/-- R102: b.all and b.nall of 0 or 17 bits. -/
theorem test_wf_branch : (Instr.bAll 0 0 1).wf = false ∧ (Instr.bNall 0 17 1).wf = false ∧ (Instr.bAll 0 16 1).wf = true := by decide
/-- R60: selectors that name nothing, and kset past 16. -/
theorem test_wf_selector : (Instr.setx 1 9).wf = false ∧ (Instr.getx 10 1).wf = false ∧ (Instr.getx 9 1).wf = true ∧
    (Instr.kset 17 1).wf = false := by decide
/-- R59: an identity selector that is not assigned. -/
theorem test_wf_rdid : (Instr.rdid 0x0B 1).wf = false ∧ (Instr.rdid 0x23 1).wf = true := by decide
/-- R111: rnd and frc do not round stochastically. -/
theorem test_wf_rnd : (Instr.rnd .sr 1 2 .f32).wf = false ∧ (Instr.frc .sr 1 2 .f32).wf = false := by decide
/-- R120: a conversion to the same type, one of ratio eight, and .sat to a type that is not of 8 bits. -/
theorem test_wf_cvt : (Instr.cvt .f32 .rne .f32 1 2).wf = false ∧ (Instr.cvt .f64 .rne .s8 1 2).wf = false ∧
    (Instr.cvtSat .f16 .rne .f32 1 2).wf = false ∧ (Instr.cvtSat .e4m3 .rne .f32 1 2).wf = true := by decide
/-- R283: an atomic of a wider scope orders something. -/
theorem test_wf_amo : (Instr.amoAdd .none .die false 1 2).wf = false ∧ (Instr.amoSwp .none .pod false 1 2).wf = false ∧
    (Instr.amoAdd .none .core false 1 2).wf = true := by decide
/-- R160: a full/empty word of a wider scope without its ordering. -/
theorem test_wf_fe : (Instr.ldfe false .pkg 0 1 2).wf = false ∧ (Instr.feclr false .pod 0 1).wf = false ∧
    (Instr.stff true .pod 0 1 2).wf = true := by decide
/-- R197: a reply of more than four registers, hank operations of no element, and the fma parcel at register 31. -/
theorem test_wf_counts : (Instr.reply 1 2 5).wf = false ∧ (Instr.hkProd 0 1 2).wf = false ∧ (Instr.hkComm 0 1).wf = false ∧
    (Instr.hkCons 0 1 2).wf = false ∧ (Instr.hkFree 0 1).wf = false ∧ (Instr.parcelFmaF32 31 1).wf = false ∧
    (Instr.parcelFmaF16 31 1).wf = false := by decide
/-- The decoders refuse an ill-formed word, the all-ones word and an unassigned major (R68). -/
theorem test_refused : decodeFibreWord 0x00388D61 = .ok (.bAll 7 4 1) ∧ decodeFibreWord 0x00380D61 = .error .fieldLimit ∧
    decodeFibreWord 0xFFFFFFFF = .error .allOnes ∧ decodeFibreWord 0x0000000D = .error .unassignedMajor ∧
    decodeFibre 0xFFFFFFFF = .unassignedEncoding := ⟨rfl, rfl, rfl, rfl, rfl⟩

/-! ### Words of the spec's worked examples -/

/-- R85, R88, R89, R95, R100: integer, immediate, lane, capability and tensor words. -/
theorem test_words_integer : decodeFibreWord 0x9438C281 = .ok (.addsS 2 .w16 7 6 5) ∧
    decodeFibreWord 0x30402093 = .ok (.shlImm .w64 4 1 1) ∧ decodeFibreWord 0x2000009F = .ok (.ext .w32 0 0 1) ∧
    decodeFibreWord 0x00088119 = .ok (.cinc 1 4 2) ∧ decodeFibreWord 0x0000041D = .ok (.shp 0 8) ∧
    decodeFibreWord 0x0240211D = .ok (.tix 8 1 2) := ⟨rfl, rfl, rfl, rfl, rfl, rfl⟩
/-- R60, R102: extension register, mask and branch words. -/
theorem test_words_control : decodeFibreWord 0x020104E7 = .ok (.getx 8 9) ∧ decodeFibreWord 0x040060E7 = .ok (.kset 3 1) ∧
    decodeFibreWord 0x00388D61 = .ok (.bAll 7 4 1) ∧ decodeFibreWord 0x0221_04E7 = .error .unassignedSubcode :=
  ⟨rfl, rfl, rfl, rfl⟩
/-- R111, R112, R114, R122, R125: floating-point words; class into a register below v4 shares bits with an unassigned compare. -/
theorem test_words_float : decodeFibreWord 0x0438C2A5 = .ok (.addFp .rup 7 6 5 .f32) ∧
    decodeFibreWord 0x000801AD = .ok (.fma 0 .rne 1 0 3 .f32) ∧ decodeFibreWord 0x6000A331 = .ok (.rsum 1 .f32 .rne 5 6) ∧
    decodeFibreWord 0xC1498533 = .ok (.mxpk false true 12 10) ∧ decodeFibreWord 0x101121B5 = .ok (.rsq .f32 9 3) ∧
    decodeFibreWord 0x2A002137 = .ok (.classify 0 .f32 1 2) := ⟨rfl, rfl, rfl, rfl, rfl, rfl⟩
/-- R276 to R283: memory words. -/
theorem test_words_memory : decodeFibreWord 0x009121C1 = .ok (.ld 2 .b32 9 3) ∧ decodeFibreWord 0xA01160C5 = .ok (.stRel .pkg 0 .b32 11 1) ∧
    decodeFibreWord 0x60116145 = .ok (.ldAcq .pkg 0 .b32 11 2) ∧ decodeFibreWord 0xE0100045 = .ok (.fenceRel .pkg) ∧
    decodeFibreWord 0xF0180045 = .ok (.fence .pod) ∧ decodeFibreWord 0x60312247 = .ok (.ldg 1 false 6 9 4) ∧
    decodeFibreWord 0x02912249 = .ok (.amoAddf .none .core false 9 4) ∧
    decodeFibreWord 0xF2112149 = .ok (.amoSwp .acqrel .pod false 9 2) := ⟨rfl, rfl, rfl, rfl, rfl, rfl, rfl, rfl⟩
/-- R197, R213, R220, R222, R226: message, Skimmer, group and hold words. -/
theorem test_words_message : decodeFibreWord 0x0261054F = .ok (.sendr 12 8 10) ∧ decodeFibreWord 0x22490053 = .ok (.skmPut 9 8) ∧
    decodeFibreWord 0x04016569 = .ok (.join 11 10) ∧ decodeFibreWord 0x00000A4D = .ok (.hold 20) ∧
    decodeFibreWord 0x0A51004D = .ok (.rstvRel 10 8) := ⟨rfl, rfl, rfl, rfl, rfl⟩
/-- R62, R66, R70: parcels. -/
theorem test_parcels : decodeParcel 0x10A2 = .ok (.parcelAddF32 2 2) ∧ decodeParcel 0x20C6 = .ok (.parcelAddS32 4 3) ∧
    decodeParcel 0x00E8 = .ok (.parcelFmaF32 0 3) ∧ decodeParcel 0x10F4 = .ok (.parcelSt128 2 3) ∧
    decodeParcel 0x0002 = .ok .parcelStop ∧ decodeParcel 0x003E = .ok .endParcel ∧ decodeParcel 0xFFFE = .ok .signatureMarker :=
  ⟨rfl, rfl, rfl, rfl, rfl, rfl, rfl⟩
/-- R154, R202, R242, R285: words of a hart's custom spaces; decodeHart leaves any other word to its RISC-V row. -/
theorem test_words_hart : decodeJdWord 0x000E05AB = some (.jdSend 28 11) ∧ decodeJdWord 0x0005957B = some (.jdName 11 10) ∧
    decodeJdWord 0x0005B57B = some (.jdCnt 11 10) ∧ decodeJdWord 0x0005207B = some (.jdFence 10) ∧
    (decodeHart 0x00A58533).1 = .rv64imacInstruction := ⟨rfl, rfl, rfl, rfl, rfl⟩

/-! ### Small states -/

/-- Context 0 of core 0 at the start of a block of `nop` parcels, about to run an instruction. -/
def fib : State :=
  let s : State := { (State.reset.placeFibre []) with cur := .fibre 0 0, turns := [] }
  s.setCtx 0 0 { (s.ctx 0 0) with st := .running }
/-- The same with a changed context. -/
def fibOf (f : Ctx → Ctx) : State := fib.setCtx 0 0 (f (fib.ctx 0 0))
/-- Whether an instruction answers a next state of which p holds. -/
def gives (s : State) (i : Instr) (p : State → Bool) : Bool :=
  match exec i s with
  | .next t => p t
  | _ => false
/-- `Claim.ready` as a Bool. -/
def readyB (s : State) (c i : Nat) (cls : Cls) (rd wr : List Nat) (al : List (Nat × Nat)) : Bool :=
  let x := s.ctx c i
  s.cur == .fibre c i && c < numCores && i < 32 && x.st == .running && (x.signed.isNone || !cls.barredSigned) &&
  ((rd ++ wr).all fun r => r < x.nreg && (x.r.cell r).pres != .pending && x.flaws.all fun f => !f.regs.contains r) &&
  (al.all fun p => p.1 % p.2 == 0) && (rd.all fun r => !(x.r.cell r).bad && (x.r.cell r).pres != .held) &&
  (!cls.heldByAcq || !s.anyPending c x.acqHold) && (!cls.isWrite || !s.anyPending c x.relHold)
theorem ready_of {s : State} {c i : Nat} {cls : Cls} {rd wr : List Nat} {al : List (Nat × Nat)} (h : readyB s c i cls rd wr al = true) :
    Claim.ready s c i cls rd wr al := by
  simp only [readyB, Bool.and_eq_true, List.all_eq_true, decide_eq_true_eq, beq_iff_eq, bne_iff_ne, Bool.or_eq_true, Option.isNone_iff_eq_none,
    Bool.not_eq_true'] at h
  obtain ⟨⟨⟨⟨⟨⟨⟨⟨⟨h1, h2⟩, h3⟩, h4⟩, h5⟩, h6⟩, h7⟩, h8⟩, h9⟩, h10⟩ := h
  refine ⟨h1, h2, h3, h4, h5, fun r hr => (h6 r hr).1.1, h7, fun f hf r hr hm => ?_, h8, fun r hr => (h6 r hr).1.2, fun h => ?_, fun h => ?_⟩
  · have := (h6 r hm).2 f hf
    simp [hr] at this
  · rcases h9 with h9 | h9 <;> simp_all
  · rcases h10 with h10 | h10 <;> simp_all
/-- Register r of context 0 of core 0. -/
def reg (t : State) (r : Nat) : Nat := (t.ctx 0 0).v r

/-! ### Integer, lane, mask and special-register instructions -/

/-- R85's example: adds.s16 saturates 40,000 to 32,767 and keeps a masked lane. -/
theorem test_adds_s16 : gives (fibOf fun x => (((x.setMask 2 1).setV 6 (30000 + 30000 * 2 ^ 16)).setV 7 (10000 + 10000 * 2 ^ 16)).setV 5 0x12340000)
    (.addsS 2 .w16 7 6 5) (fun t => reg t 5 == 0x12347FFF) = true := by decide +kernel
/-- R85: div of the least number by −1, and by 0. -/
theorem test_div : gives (fibOf fun x => (x.setV 1 (0x80 + 7 * 2 ^ 8)).setV 2 0xFF) (.div 0 .w8 2 1 3) (fun t => reg t 3 % 2 ^ 16 == 0xFF80) = true := by
  decide +kernel
/-- R88: 0x12345678 in three instructions. -/
theorem test_movh : gives (fibOf fun x => x.setV 1 0x00345678) (.movh 0x123 false 20 1) (fun t => reg t 1 % 2 ^ 32 == 0x12345678) = true := by
  decide +kernel
/-- R54, R87: mov keeps a tag, mov.t clears it. -/
theorem test_mov_tag : gives (fibOf fun x => x.setV 1 7 true) (.mov 0 .w32 1 2) (fun t => (t.ctx 0 0).vtag 2) = true ∧
    gives (fibOf fun x => x.setV 2 7 true) (.mov 1 .w32 1 2) (fun t => (t.ctx 0 0).vtag 2) = false := by decide +kernel
/-- R89: zip interleaves. -/
theorem test_zip : gives (fibOf fun x => (x.setV 1 (1 + 2 * 2 ^ 64)).setV 2 (3 + 4 * 2 ^ 64)) (.zip .w64 2 1 4)
    (fun t => reg t 4 == 1 + 3 * 2 ^ 64 && reg t 5 == 2 + 4 * 2 ^ 64) = true := by decide +kernel
/-- R53: zip into an odd register faults with ILLOPND. -/
theorem test_zip_odd : gives fib (.zip .w64 2 1 5) (fun t => (t.ctx 0 0).st == .faulted && (t.ctx 0 0).cause == cILLOPND) = true := by
  decide +kernel
/-- R52: a register past the allocation faults with ILLOPND and writes nothing. -/
theorem test_past_allocation : gives (fibOf fun x => { x with nreg := 16 }) (.add 0 .w32 1 2 16)
    (fun t => (t.ctx 0 0).cause == cILLOPND && reg t 16 == 0) = true := by decide +kernel
/-- R86: a compare of four lanes clears the mask above them. -/
theorem test_cmp : gives (fibOf fun x => ((x.setMask 1 0xFFFF).setV 2 5).setV 3 6) (.cmp 0 .w32 .lt 3 2 1)
    (fun t => (t.ctx 0 0).mask 1 == 1) = true := by decide +kernel
/-- R57: k0 discards what is written to it. -/
theorem test_kset_k0 : gives fib (.kset 3 0) (fun t => (t.ctx 0 0).mask 0 == 0xFFFF) = true := by decide +kernel

theorem wit_LaneResultsOfTwoSources : Claim.lane2 (.add 1 .w32 2 3 4) = some (1, .w32, 2, 3, 4, fun _ a b => a + b) ∧
    Claim.ready fib 0 0 .plain (maskedReads 1 [3, 2] 4) [4] [] := ⟨rfl, ready_of (by decide +kernel)⟩
theorem wit_LaneResultsOfOneSource : Claim.lane1 (.clz 0 .w32 3 4) = some (0, .w32, 3, 4, fun w a => w - bitLength a) ∧
    Claim.ready fib 0 0 .plain (maskedReads 0 [3] 4) [4] [] := ⟨rfl, ready_of (by decide +kernel)⟩
theorem wit_IntegerParcels : Claim.parcelLane (.parcelAddS32 31 0) = some (.w32, 31, 0, fun a b => a + b) ∧
    Claim.ready fib 0 0 .plain [0, 31] [0] [] := ⟨rfl, ready_of (by decide +kernel)⟩
theorem wit_WholeRegisterLanes : (∃ f, Claim.wholeLanes (.movi 0xFFF false .w8 63) = some (2, [], .w8, 63, f)) ∧
    Claim.ready fib 0 0 .plain [] [63] [] := ⟨⟨_, rfl⟩, ready_of (by decide +kernel)⟩
theorem wit_MaskedLaneMoves : (∃ f, Claim.laneMove (.perm 1 .w16 2 3 4) = some (1, .w16, [3, 2, 4], 4, f)) ∧
    Claim.ready fib 0 0 .plain [3, 2, 4] [4] [] := ⟨⟨_, rfl⟩, ready_of (by decide +kernel)⟩
theorem wit_RegisterMoves : Claim.ready fib 0 0 .plain [1] [2] [] ∧ Claim.ready fib 0 0 .plain [1, 2] [62, 63] [(62, 2)] := by
  unfold Claim.ready; decide +kernel
theorem wit_MaskResults : (∃ p, Claim.maskOp (.kset 16 1) = some ([], 1, p)) ∧ (∃ p, Claim.maskOp (.knot 1 0) = some ([], 0, p)) ∧
    Claim.ready fib 0 0 .plain [] [] [] := ⟨⟨_, rfl⟩, ⟨_, rfl⟩, ready_of (by decide +kernel)⟩
theorem wit_RegisterReads : (∃ f, Claim.regRead (.rdid 0x23 9) = some ([], 9, f)) ∧ Claim.ready fib 0 0 .plain [] [9] [] :=
  ⟨⟨_, rfl⟩, ready_of (by decide +kernel)⟩
theorem wit_SetxWrites : Claim.ready fib 0 0 .plain [5] [] [] ∧ (7 : BitVec 6).toNat < 8 ∧ 16 < (19 : BitVec 6).toNat ∧
    (19 : BitVec 6).toNat < 20 := by unfold Claim.ready; decide +kernel

/-! ### Capabilities and tensors -/

/-- R97's capability: R, W and C over 0x40000000 to 0x80000000. -/
def cap97 : Nat := (capMake 0x40000000 0x80000000 (permR + permW + permC)).getD 0
/-- v4 holds it, and v9 the length 0x1000001. -/
def fib97 : State := fibOf fun x => (x.setV 4 cap97 true).setV 9 0x1000001
/-- R97's example: cbnd faults with CAPREP. -/
theorem test_cbnd : gives fib97 (.cbnd 9 4 6) (fun t => (t.ctx 0 0).cause == cCAPREP && (t.ctx 0 0).faultAddr == 0x40000000) = true := by
  decide +kernel
/-- R97's example: cbnd.r rounds to exponent 1. -/
theorem test_cbnd_r : gives fib97 (.cbndR 9 4 6)
    (fun t => reg t 6 == 0x2000004000000123 * 2 ^ 64 + 0x40000000 && (t.ctx 0 0).vtag 6) = true := by decide +kernel
/-- R101's entry: the tensor (40, 24, 6). -/
def shape101 : Nat := 40 + 24 * 2 ^ 32 + 6 * 2 ^ 64 + 2 * 2 ^ 160 + 0x999999999A * 2 ^ 192 + 0x9555555556 * 2 ^ 256 + 0x8D55555556 * 2 ^ 320
def fib101 : State := fibOf fun x => ((((x.setV 1 5031).setV 8 (shape101 % 2 ^ 128)).setV 9 (shape101 / 2 ^ 128 % 2 ^ 128)).setV 10
  (shape101 / 2 ^ 256 % 2 ^ 128)).setV 11 (shape101 / 2 ^ 384)
/-- R101's example: tix gives (31, 5, 5, 0). -/
theorem test_tix : gives fib101 (.tix 8 1 2) (fun t => reg t 2 == 31 + 5 * 2 ^ 32 + 5 * 2 ^ 64 && reg t 3 == 0) = true := by decide +kernel
/-- R101's example: tlin with strides (2, 96, 2,304) gives 12,062. -/
theorem test_tlin : gives (fibOf fun x => ((x.setV 2 (31 + 5 * 2 ^ 32 + 5 * 2 ^ 64)).setV 4 (2 + 96 * 2 ^ 64)).setV 5 2304) (.tlin 4 2 1)
    (fun t => reg t 1 == 12062) = true := by decide +kernel

theorem wit_CapabilityAddresses : (∃ f, Claim.capAddr (.cinc 9 4 6) = some (4, [4, 9], 6, f)) ∧
    Claim.ready fib97 0 0 .plain [4, 9] [6] [] := ⟨⟨_, rfl⟩, ready_of (by decide +kernel)⟩
theorem wit_CapabilityReads : (∃ f, Claim.capRead (.cperm 9 4 6) = some ([4, 9], 6, f)) ∧ Claim.ready fib97 0 0 .plain [4, 9] [6] [] :=
  ⟨⟨_, rfl⟩, ready_of (by decide +kernel)⟩
/-- The clauses of CapabilityBounds: no tag, outside, not representable, and within. -/
theorem wit_CapabilityBounds : (∃ f, Claim.capBound (.cbnd 9 4 6) = some (4, [4, 9], 6, f)) ∧ Claim.ready fib97 0 0 .plain [4, 9] [6] [] ∧
    (fib.ctx 0 0).vtag 4 = false ∧ (fib97.ctx 0 0).vtag 4 = true ∧ capDecode (reg fib97 4) = (0x40000000, 0x80000000, 0x23) ∧
    capExp 0x40000000 0x41000001 = none ∧ capExp 0x40000000 0x80000000 = some 7 :=
  ⟨⟨_, rfl⟩, ready_of (by decide +kernel), by decide +kernel⟩
theorem wit_CapabilityRoundedBounds : Claim.ready fib97 0 0 .plain [4, 9] [6] [] ∧ (fib97.ctx 0 0).vtag 4 = true ∧
    capRoundExp 0x40000000 0x41000001 = some 1 := by unfold Claim.ready; decide +kernel
theorem wit_BoundsDecodeExactly : capExp 0 (2 ^ 60) = some 37 ∧ capExp 1 (2 ^ 60) = none ∧ bits (cap97) 59 0 = 0x40000000 := by decide +kernel
theorem wit_TixDividesExactly : shapeExtent shape101 0 = 40 ∧ shapeShift shape101 0 = 32 + 6 ∧
    shapeMagic shape101 0 = (2 ^ 38 + 40 - 1) / 40 ∧ shapeExtent shape101 1 = 24 ∧ shapeShift shape101 1 = 32 + 5 ∧
    shapeMagic shape101 1 = (2 ^ 37 + 24 - 1) / 24 := by decide +kernel
theorem wit_TensorOperations : Claim.ready fib101 0 0 .plain [] [8, 9, 10, 11] [(8, 4)] ∧
    Claim.ready fib101 0 0 .plain [1, 8, 9, 10, 11] [2, 3] [(2, 2), (8, 4)] ∧
    Claim.ready fib101 0 0 .plain [2, 3, 8, 9, 10] [1] [(2, 2), (8, 4)] := 
  ⟨ready_of (by decide +kernel), ready_of (by decide +kernel), ready_of (by decide +kernel)⟩

/-! ### Control -/

/-- R102's example: b.all k1, 4 at offset 5 to offset 12. -/
theorem test_b_all : gives (fibOf fun x => { x.setMask 1 0xF with pcOff := 5 }) (.bAll 7 4 1) (fun t => (t.ctx 0 0).pcOff == 12) = true ∧
    gives (fibOf fun x => { x.setMask 1 0x7 with pcOff := 5 }) (.bAll 7 4 1) (fun t => (t.ctx 0 0).pcOff == 7) = true := by decide +kernel
/-- R65: a target before the block faults with ILLINST. -/
theorem test_branch_out : gives fib (.b 0x1FFF) (fun t => (t.ctx 0 0).st == .faulted && (t.ctx 0 0).cause == cILLINST) = true := by
  decide +kernel
/-- R103: jal at offset 4 links to offset 6. -/
theorem test_jal : gives (fibOf fun x => { x with pcOff := 4 }) (.jal 8) (fun t => (t.ctx 0 0).ext 5 == 0x100C && (t.ctx 0 0).pcOff == 12) = true := by
  decide +kernel
/-- R62: the end parcel goes to the next block. -/
theorem test_end : gives fib .endParcel (fun t => (t.ctx 0 0).pcBlk == 0x1040 && (t.ctx 0 0).pcOff == 0) = true := by decide +kernel
/-- R104: trap faults with its number and leaves the program counter. -/
theorem test_trap : gives fib (.trap 63) (fun t => (t.ctx 0 0).cause == cTRAP && (t.ctx 0 0).faultAddr == 63 && (t.ctx 0 0).pcOff == 0) = true := by
  decide +kernel
/-- A capability with X over the block 0x1000. -/
def capX : Nat := (capMake 0x1000 0x1040 (permR + permX)).getD 0
/-- v1 holds it, and slot 0 offset 4 of the block. -/
def fibX : State := fibOf fun x => { x.setV 1 (capX + 8) true with slot0 := { valid := true, blk := 0x1000, off := 4 }, mbr := true }

theorem wit_Branches : (∃ p, Claim.branch (.bZ 31 5) = some (31, [5], p)) ∧ (∃ p, Claim.branch (.b 0x1FFF) = some (0x1FFF, [], p)) ∧
    Claim.ready fib 0 0 .branch [5] [] [] ∧ (fib.ctx 0 0).signed = none ∧ (fib.ctx 0 0).pcOff = 0 ∧
    (31 : BitVec 13).toInt = 31 ∧ (32 : BitVec 13).toInt = 32 ∧ (0x1FFF : BitVec 13).toInt = -1 :=
  ⟨⟨_, rfl⟩, ⟨_, rfl⟩, ready_of (by decide +kernel), by decide +kernel⟩
theorem ok_of {ε α : Type} [DecidableEq α] {r : Except ε α} {a : α}
    (h : (match r with | .ok b => decide (b = a) | .error _ => false) = true) : r = .ok a := by
  cases r <;> simp_all
theorem wit_JumpsAndLinks : Claim.ready fib 0 0 .leaves [] [] [] ∧ Claim.ready fibX 0 0 .leaves [1] [] [] ∧
    fetchCheck (fibX.core 0) false (reg fibX 1) ((fibX.ctx 0 0).vtag 1) = .ok (0x1000, 4) ∧
    (∃ d, fib.fetchBlock 0 (fib.ctx 0 0).lvl 0x1000 = .ready d) ∧ (∃ d, fibX.fetchBlock 0 (fibX.ctx 0 0).lvl 0x1000 = .ready d) :=
  ⟨ready_of (by decide +kernel), ready_of (by decide +kernel), ok_of (by decide +kernel), ⟨_, rfl⟩, ⟨_, rfl⟩⟩
theorem wit_BlockControl : Claim.ready fibX 0 0 .plain [1] [] [] ∧ Claim.ready fibX 0 0 .leaves [] [] [] ∧ (fibX.ctx 0 0).slot0.valid = true ∧
    (fibX.ctx 0 0).mbr = true ∧ (∃ d, fibX.fetchBlock 0 (fibX.ctx 0 0).lvl (fibX.ctx 0 0).slot0.blk = .ready d) :=
  ⟨ready_of (by decide +kernel), ready_of (by decide +kernel), by decide +kernel, by decide +kernel, ⟨_, rfl⟩⟩
theorem wit_NopAndBlockEnd : Claim.ready fib 0 0 .plain [] [] [] ∧ Claim.ready fib 0 0 .leaves [] [] [] ∧ (fib.ctx 0 0).signed = none ∧
    (fib.ctx 0 0).pcOff < 32 := ⟨ready_of (by decide +kernel), ready_of (by decide +kernel), by decide +kernel⟩
theorem wit_FibreTraps : Claim.trapOf .unassignedEncoding = some (cILLINST, 0) ∧ Claim.ready fib 0 0 .plain [] [] [] :=
  ⟨rfl, ready_of (by decide +kernel)⟩
theorem wit_Stops : Claim.ready fib 0 0 .leaves [] [] [] := ready_of (by decide +kernel)
/-- peerw goes on at a FREE context, and waits for a READY one. -/
theorem wit_PeerWaits : Claim.ready (fibOf fun x => x.setV 1 31) 0 0 .wait [1] [] [] ∧ (fib.ctx 0 0).byDispatch = false ∧
    (fib.ctx 0 31).st = .free ∧ ((fib.setCtx 0 31 { (fib.ctx 0 31) with st := .ready }).ctx 0 31).st = .ready ∧ (fib.ctx 0 0).lvl = false :=
  ⟨ready_of (by decide +kernel), by decide +kernel⟩

/-! ### Floating point -/

/-- R112's example: fma rounds once. -/
theorem test_fma : gives (fibOf fun x => ((x.setV 0 0x3F800001).setV 1 0x3F7FFFFE).setV 3 0xBF800000) (.fma 0 .rne 1 0 3 .f32)
    (fun t => reg t 3 % 2 ^ 32 == 0xA8800000 && (t.ctx 0 0).r.flags == 0) = true := by decide +kernel
/-- R121's example: 460, 470 and −470 to E4M3 with and without .sat. -/
theorem test_cvt_sat : gives (fibOf fun x => x.setV 24 (0x43E60000 + 0x43EB0000 * 2 ^ 32 + 0xC3EB0000 * 2 ^ 64)) (.cvtSat .e4m3 .rne .f32 24 20)
      (fun t => reg t 20 % 2 ^ 24 == 0xFE7E7E) = true ∧
    gives (fibOf fun x => x.setV 24 (0x43E60000 + 0x43EB0000 * 2 ^ 32 + 0xC3EB0000 * 2 ^ 64)) (.cvt .e4m3 .rne .f32 24 20)
      (fun t => reg t 20 % 2 ^ 24 == 0x7F7F7E) = true := by decide +kernel
/-- R118: the classes of −Inf and of a quiet NaN in .f16. -/
theorem test_class : gives (fibOf fun x => x.setV 1 (0xFC00 + 0x7E00 * 2 ^ 16)) (.classify 0 .f16 1 2)
    (fun t => reg t 2 % 2 ^ 32 == 1 + 2 ^ 9 * 2 ^ 16 && (t.ctx 0 0).r.flags == 0) = true := by decide +kernel
/-- R117: lt is false of NaN and raises NV; R114: rsum's tree of 1, 2^−24, 2^−24 with a NaN masked off loses both (R48). -/
theorem test_compare_sum : gives (fibOf fun x => x.setV 1 0x7FC00000) (.cmpFp 0 .f32 .lt 2 1 1)
      (fun t => (t.ctx 0 0).mask 1 == 0 && (t.ctx 0 0).r.flags == 16) = true ∧
    gives (fibOf fun x => (x.setMask 1 7).setV 5 (0x3F800000 + 0x33800000 * 2 ^ 32 + 0x33800000 * 2 ^ 64 + 0x7FC00000 * 2 ^ 96))
      (.rsum 1 .f32 .rne 5 6) (fun t => reg t 6 == 0x3F800000) = true := by decide +kernel

theorem wit_FloatArithmetic : (∃ g, Claim.fpArith (.fma 1 .sr 2 3 4 .f16) = some (2, 1, fmt16, .sr, 3, 2, 4, g)) ∧
    (∃ g, Claim.fpArith (.divFp .rup 2 3 4 .f64) = some (2, 0, fmt64, .rup, 3, 2, 4, g)) ∧
    Claim.ready fib 0 0 .plain (Claim.fpReads (.fma 1 .sr 2 3 4 .f16) 3 2 4) [4] [] := ⟨⟨_, rfl⟩, ⟨_, rfl⟩, ready_of (by decide +kernel)⟩
theorem wit_FloatFunctions : (∃ g, Claim.fpUnary (.sqrt .rdn 3 4 .bf16) = some (fmtB16, .rdn, 3, 4, g)) ∧
    Claim.ready fib 0 0 .plain [3] [4] [] := ⟨⟨_, rfl⟩, ready_of (by decide +kernel)⟩
theorem wit_FloatComparesAndClasses : Claim.ready fib 0 0 .plain [3, 2] [] [] ∧ Claim.ready fib 0 0 .plain (maskedReads 1 [3] 4) [4] [] :=
  ⟨ready_of (by decide +kernel), ready_of (by decide +kernel)⟩
theorem wit_FloatReductions : Claim.ready fib 0 0 .plain [3] [4] [] ∧ Claim.ready fib 0 0 .plain [3, 2, 4] [4] [] :=
  ⟨ready_of (by decide +kernel), ready_of (by decide +kernel)⟩
theorem wit_Conversions : Claim.ready fib 0 0 .plain (regSpan 24 4) (regSpan 20 1) [(24, 4), (20, 1)] ∧
    Claim.ready fib 0 0 .plain (regSpan 12 4) (regSpan 10 2) [(12, 4), (10, 2)] ∧
    Claim.ready fib 0 0 .plain (regSpan 10 1) (regSpan 12 4) [(10, 1), (12, 4)] :=
  ⟨ready_of (by decide +kernel), ready_of (by decide +kernel), ready_of (by decide +kernel)⟩
theorem wit_ConversionsRetire :
    Claim.ready fib 0 0 .plain (regSpan 24 4) (regSpan 20 1) [(24, 4), (20, 1)] ∧
    Claim.ready fib 0 0 .plain (regSpan 24 1) (regSpan 20 4) [(24, 1), (20, 4)] ∧
    Claim.ready fib 0 0 .plain (regSpan 12 4) (regSpan 10 1) [(12, 4), (10, 1)] ∧
    Claim.ready fib 0 0 .plain (regSpan 12 4) (regSpan 10 2) [(12, 4), (10, 2)] ∧
    Claim.ready fib 0 0 .plain (regSpan 10 2) (regSpan 12 4) [(10, 2), (12, 4)] :=
  ⟨ready_of (by decide +kernel), ready_of (by decide +kernel), ready_of (by decide +kernel), ready_of (by decide +kernel),
    ready_of (by decide +kernel)⟩
/-- The least powers of two that overflow E5M2 and E4M3 in every mode. -/
theorem wit_EightBitInfinities : 0 < 1 ∧ 17 ≤ (bitLength 1 : Int) + 16 ∧ 10 ≤ (bitLength 1 : Int) + 9 := by decide
/-- A tie and an exact value in .f32. -/
theorem wit_RoundingBrackets : fmt32 ∈ [fmt64, fmt32, fmt16, fmtB16, fmtE5m2, fmtE4m3] ∧ (fround fmt32 .rne false 0 (.fin false (2 ^ 24 + 1) 0 false)).2 < 4 ∧
    (fround fmt32 .rup false 0 (.fin true 3 (-150) false)).2 < 4 ∧ (0 < 2 ^ 24 + 1 ∧ 2 ^ 24 + 1 < 2 ^ 4096) :=
  ⟨by simp, by decide +kernel, by decide +kernel, by decide +kernel⟩

/-! ### Memory -/

/-- A capability with R, W, A, C and L over the first 4,096 bytes of the scratchpad. -/
def capS : Nat := (capMake spadBase (spadBase + 4096) (permR + permW + permA + permC + permL)).getD 0
/-- v9 holds it, moved to byte 64, and v6 the .z32 indices 0, 1, 4 and 9. -/
def fibS : State := fibOf fun x => (((x.setV 9 (capS + 64) true).setV 6 (0 + 2 ^ 32 + 4 * 2 ^ 64 + 9 * 2 ^ 96)).setV 2 0x11223344).setMask 1 5
/-- Where an access of n bytes with the permissions goes. -/
def at9 (n al pm : Nat) (k : AccKind) : Bool :=
  match accessCheck (fibS.core 0) 0 (reg fibS 9) true (spadBase + 64) n al pm k with
  | .ok l => l == .spad 0 64
  | _ => false
/-- A leaf that maps the 64 KiB page at 0x20000 to stack 0 at 0x50000, with R and W. -/
def leaf2 : Nat := 2 + 4 + 8 + 2 ^ 8 + 2 * 2 ^ 16 + 5 * 2 ^ 64
/-- A capability with R, W, A and C over that page. -/
def capG : Nat := (capMake 0x20000 0x30000 (permR + permW + permA + permC)).getD 0
/-- v9 holds it, and the page is in the translation buffer of core 0. -/
def fibG : State := (fibOf fun x => ((x.setV 9 capG true).setV 2 7).setMask 1 5).updCore 0 fun k => { k with tlb := { k.tlb with entries := [(0, leaf2)] } }

/-- R269, R277: a load from the scratchpad posts one read of 16 bytes and makes v3 PENDING. -/
theorem test_ld : gives fibS (.ld 0 .b128 9 3)
    (fun t => t.reqs.map (fun r => (r.loc, r.va)) == [(.spad 0 64, spadBase + 64)] && ((t.ctx 0 0).r.cell 3).pres == .pending) = true := by
  decide +kernel
/-- R272: a load past the bounds faults with CAPBND at its address. -/
theorem test_ld_bounds : gives fibS (.ld 252 .b128 9 3)
    (fun t => (t.ctx 0 0).cause == cCAPBND && (t.ctx 0 0).faultAddr == spadBase + 4096) = true := by decide +kernel
/-- R272: without the tag, CAPTAG. -/
theorem test_st_tag : gives fib (.st 0 .b32 9 3) (fun t => (t.ctx 0 0).cause == cCAPTAG) = true := by decide +kernel
/-- R281: a gather under mask 5 posts lanes 0 and 2. -/
theorem test_ldg : gives fibS (.ldg 1 false 6 9 4) (fun t => t.reqs.map (·.va) == [spadBase + 64, spadBase + 68]) = true := by decide +kernel

theorem wit_LoadsIssue : Claim.memOp (.ldAcq .pkg 0 .b32 9 3) = some (2, true, 0, .b32, 9, 3, true, 1, 2) ∧
    Claim.ready fibS 0 0 .load [9, 3] [3] (sizeAlign .b32 3) ∧
    checkSpan fibS 0 (fibS.ctx 0 0) 9 (spadBase + 64) 4 4 permR .read = .ok [(0, 4, .spad 0 64)] ∧
    mayPost fibS 0 0 [(0, 4, .spad 0 64)] false = true := ⟨rfl, ready_of (by decide +kernel), ok_of (by decide +kernel), by decide +kernel⟩
theorem wit_StoresIssue : Claim.memOp (.stRel .die 0 .b64 9 2) = some (2, false, 0, .b64, 9, 2, true, 2, 1) ∧
    Claim.ready fibG 0 0 .writeOp [9, 2] [] (sizeAlign .b64 2) ∧
    checkSpan fibG 0 (fibG.ctx 0 0) 9 0x20000 8 8 permW .write = .ok [(0, 8, .pma 0x50000)] ∧
    fibG.overlapsOutstanding 0 0 (.pma 0x50000) 8 true = false ∧ (fibG.ctx 0 0).signed = none ∧
    mayPost fibG 0 0 [(0, 8, .pma 0x50000)] true = true ∧
    (∃ g : Signed, ((fibOf fun x => { x with signed := some { blk := 0x1000, entry := x.r } }).ctx 0 0).signed = some g ∧ g.stores.length < 8) :=
  ⟨rfl, ready_of (by decide +kernel), ok_of (by decide +kernel), by decide +kernel, by decide +kernel, by decide +kernel, ⟨_, rfl, by decide⟩⟩
theorem wit_GathersAndScatters : Claim.ready fibS 0 0 .load [9, 6, 4] [4] [] ∧ Claim.ready fibS 0 0 .store [9, 6, 4] [] [] ∧
    checkLanes fibS 0 (fibS.ctx 0 0) 9 4 permR .read (laneAddrs (fibS.ctx 0 0) 1 32 9 6)
      = .ok [(0, spadBase + 64, .spad 0 64), (2, spadBase + 68, .spad 0 68)] ∧
    lanesFree fibS 0 0 4 false [(0, spadBase + 64, .spad 0 64), (2, spadBase + 68, .spad 0 68)] = true ∧
    accessCheck (fibS.core 0) 0 (reg fibS 9) true (spadBase + 64) 4 4 permR .read = .ok (.spad 0 64) ∧
    mayPost fibS 0 0 [(0, 4, .spad 0 64)] false = true :=
  ⟨ready_of (by decide +kernel), ready_of (by decide +kernel), ok_of (by decide +kernel), by decide +kernel, by decide +kernel, by decide +kernel⟩
theorem wit_AtomicsIssue : Claim.atomicOp (.amoCas .acqrel .pod true 9 2) = some (.cas, .acqrel, .pod, true, 9, 2) ∧
    Claim.ready fibG 0 0 .atomic [9, 2, 3] [2] [(2, 2)] ∧
    accessCheck (fibG.core 0) 0 (reg fibG 9) ((fibG.ctx 0 0).vtag 9) 0x20000 8 8 (permR + permW + permA) .write = .ok (.pma 0x50000) ∧
    (Loc.pma 0x50000).hasState = true ∧ mayPost fibG 0 0 [(0, 8, .pma 0x50000)] true = true :=
  ⟨rfl, ready_of (by decide +kernel), by decide +kernel, by decide +kernel, by decide +kernel⟩
/-- Each check of R272 in turn fails at an address or permission where the earlier ones pass. -/
theorem wit_AccessChecks : canonical (2 ^ 60) = false ∧ canonical (2 ^ 60 - 8) = true ∧ 2 ^ 60 < 2 ^ 60 - 8 + 16 ∧ bits capG 71 64 &&& permX ≠ permX ∧
    bits capG 71 64 &&& permR = permR ∧ 0x20004 % 8 ≠ 0 ∧ 0x30000 % 8 = 0 ∧ (capDecode capG).2.1 = 0x30000 ∧ (capDecode capG).1 = 0x20000 ∧
    at9 8 8 (permR + permW) .write = true := by decide +kernel
theorem wit_FencesHoldBack : Claim.ready fibS 0 0 .plain [] [] [] := ready_of (by decide +kernel)

/-! ### Full/empty words, join counters and held registers -/

/-- R261: stff stores and fills; ldfe then empties. -/
theorem test_fullEmpty : gives fibS (.stff false .core 0 9 2) (fun t => t.isFull (.spad 0 64) && ofBytes (t.readAt (.spad 0 64) 8) == 0x11223344 &&
    gives { t with cur := .fibre 0 0 } (.ldfe false .core 0 9 3) (fun u => !u.isFull (.spad 0 64) && reg u 3 == 0x11223344)) = true := by
  decide +kernel
/-- R265: jc.init of 2 and two decrements: the second crosses. -/
theorem test_join_counter : gives fibS (.jcInit .core 2 9) (fun t => ofBytes (t.readAt (.spad 0 64) 8) == 0x11223344) = true := by decide +kernel

theorem wit_FullEmptyInScratchpad : Claim.feInstr (.stef false .core 0 9 2) = some (.stef, permW, .write, .waitWrite, 0, 9, 2, false) ∧
    Claim.ready fibS 0 0 .waitWrite [9, 2] [] [] ∧
    accessCheck (fibS.core 0) 0 (reg fibS 9) ((fibS.ctx 0 0).vtag 9) (spadBase + 64) 8 8 permW .write = .ok (.spad 0 64) ∧
    fibS.overlapsOutstanding 0 0 (.spad 0 64) 8 true = false ∧ Claim.freshIds fibS ∧ fibS.poisonedAt (.spad 0 64) 8 = false ∧
    fibS.waitersAt (.spad 0 64) = [] ∧ fibS.isFull (.spad 0 64) = false ∧ (fibS.setFull (.spad 0 64) true).isFull (.spad 0 64) = true ∧
    fibS.ctxReqs 0 0 = [] :=
  ⟨rfl, ready_of (by decide +kernel), by decide +kernel, by decide +kernel, by unfold Claim.freshIds; decide +kernel, by decide +kernel, by decide +kernel,
    by decide +kernel, by decide +kernel, by decide +kernel⟩
/-- On HBM the request is posted; on an EMPTY scratchpad word ldfe queues. -/
theorem wit_FullEmptyWaits : Claim.feInstr (.ldfe true .pod 0 9 2) = some (.ldfe, permR + permW, .write, .wait, 0, 9, 2, false) ∧
    Claim.ready fibG 0 0 .wait [9] [2] [] ∧ Claim.ready fibS 0 0 .wait [9] [2] [] ∧
    accessCheck (fibG.core 0) 0 (reg fibG 9) ((fibG.ctx 0 0).vtag 9) 0x20000 8 8 (permR + permW) .write = .ok (.pma 0x50000) ∧
    (Loc.pma 0x50000).hasState = true ∧ fibG.overlapsOutstanding 0 0 (.pma 0x50000) 8 true = false ∧ Claim.freshIds fibG ∧
    (Loc.pma 0x50000).isSpad = false ∧ fibG.entriesFree 0 1 = true ∧ fibS.isFull (.spad 0 64) = false ∧ fibS.poisonedAt (.spad 0 64) 8 = false :=
  ⟨rfl, ready_of (by decide +kernel), ready_of (by decide +kernel), by decide +kernel, by decide +kernel, by decide +kernel,
    by unfold Claim.freshIds; decide +kernel, by decide +kernel⟩
/-- jc.dec of a counter at 1 crosses; at 2 it does not; the continuation is 0. -/
theorem wit_JoinUpdatesInScratchpad : Claim.jcInstr (.jcDec .core 2 9) = some (.dec, 2, 9) ∧ Claim.ready fibS 0 0 .writeOp [9, 2] [] [] ∧
    fibS.ctxReqs 0 0 = [] ∧ Claim.freshIds fibS ∧ fibS.entriesFree 0 1 = true ∧
    accessCheck (fibS.core 0) 0 (reg fibS 9) ((fibS.ctx 0 0).vtag 9) (spadBase + 64) 16 16 (permW + permA) .write = .ok (.spad 0 64) ∧
    fibS.poisonedAt (.spad 0 64) 16 = false ∧ ofBytes (fibS.readAt (.spad 0 64) 16) / 2 ^ 64 = 0 ∧
    Claim.jcCount .dec 1 1 = 0 ∧ 0 < sext 1 64 ∧ Claim.jcCount .dec 2 1 = 1 :=
  ⟨rfl, ready_of (by decide +kernel), by decide +kernel, by unfold Claim.freshIds; decide +kernel, by decide +kernel, by decide +kernel,
    by decide +kernel⟩
theorem wit_JoinUpdatesPosted : Claim.jcInstr (.jcInit .core 2 9) = some (.init, 2, 9) ∧ Claim.ready fibG 0 0 .writeOp [9, 2] [] [] ∧
    fibG.jcStalled 0 0 = false ∧ fibG.entriesFree 0 1 = true ∧
    accessCheck (fibG.core 0) 0 (reg fibG 9) ((fibG.ctx 0 0).vtag 9) 0x20000 16 16 (permW + permA) .write = .ok (.pma 0x50000) ∧
    (fibG.ctx 0 0).v 2 / 2 ^ 64 = 0 ∧ fibG.overlapsOutstanding 0 0 (.pma 0x50000) 16 true = false :=
  ⟨rfl, ready_of (by decide +kernel), by decide +kernel⟩
theorem wit_JoinWaits : Claim.ready fibS 0 0 .wait [9] [] [] ∧ Claim.ready fibG 0 0 .wait [9] [] [] ∧
    accessCheck (fibS.core 0) 0 (reg fibS 9) ((fibS.ctx 0 0).vtag 9) (spadBase + 64) 16 16 permR .read = .ok (.spad 0 64) ∧
    accessCheck (fibG.core 0) 0 (reg fibG 9) ((fibG.ctx 0 0).vtag 9) 0x20000 16 16 permR .read = .ok (.pma 0x50000) ∧
    fibS.overlapsOutstanding 0 0 (.spad 0 64) 16 false = false ∧ sext (ofBytes (fibS.readAt (.spad 0 64) 16) % 2 ^ 64) 64 ≤ 0 ∧
    0 < sext (ofBytes ((fibS.storeAt (.spad 0 64) [5] none).readAt (.spad 0 64) 16) % 2 ^ 64) 64 ∧ fibG.entriesFree 0 1 = true :=
  ⟨ready_of (by decide +kernel), ready_of (by decide +kernel), by decide +kernel⟩
theorem wit_HoldingRegisters : Claim.ready fib 0 0 .hold [] [20] [] ∧ Claim.ready fibS 0 0 .hold [1] [] [] ∧ Claim.ready fibS 0 0 .plain [] [2, 5] [] ∧
    ((List.range 64).filter fun r => (36 : Nat).testBit r) = [2, 5] :=
  ⟨ready_of (by decide +kernel), ready_of (by decide +kernel), ready_of (by decide +kernel), by decide +kernel⟩

/-! ### Messages, channels, groups and boxes -/

/-- A descriptor: one register of payload to channel ch of core 1. -/
def descTo (ch : Nat) : Nat := 1 * 4 + ch * 2 ^ 34 + 2 ^ 46
/-- v8 holds a descriptor for channel ch, v12 and v13 a payload. -/
def fibD (ch : Nat) : State := fibOf fun x => ((x.setV 8 (descTo ch)).setV 12 0x1000).setV 13 99

/-- R197: send injects one flit for core 1 and takes an entry of the request table. -/
theorem test_send : gives (fibD 20) (.send 12 8) (fun t => (t.core 0).table.length == 1 && (t.core 0).seq == 1 && (t.ctx 0 0).st == .running) = true := by
  decide +kernel
/-- R197: sendr makes its pair PENDING. -/
theorem test_sendr : gives (fibD 20) (.sendr 12 8 10) (fun t => ((t.ctx 0 0).r.cell 10).pres == .pending && ((t.ctx 0 0).r.cell 11).pres == .pending) = true := by
  decide +kernel
/-- R197: a descriptor with reserved bits raises MSGDESC. -/
theorem test_send_bad : gives (fibOf fun x => x.setV 8 (descTo 20 + 1)) (.send 12 8) (fun t => (t.ctx 0 0).cause == cMSGDESC) = true := by
  decide +kernel

theorem wit_FibreSends : descOk' (descTo 20) 4 = true ∧ (fibD 20).canSend 0 (descPrio (descTo 20)) true = true ∧ descPlen (descTo 20) = 1 ∧
    Claim.payloadReady (fibD 20) 0 0 12 1 ∧ Claim.ready (fibD 20) 0 0 .writeOp [8] [] [] ∧ Claim.ready (fibD 20) 0 0 .writeOp [8, 12] [] [] ∧
    Claim.ready (fibD 3) 0 0 .writeOp [8] [] [] ∧ descRchan (descTo 3) = 0 ∧ descChan (descTo 3) = 3 ∧ ((fibD 3).ctx 0 0).vlo 12 = 0x1000 ∧
    ((fibD 3).core 0).inWindow false 0x1000 = true :=
  ⟨by decide +kernel, by decide +kernel, by decide +kernel, ⟨by decide +kernel, .inr ⟨by decide +kernel, ready_of (by decide +kernel)⟩⟩, ready_of (by decide +kernel),
    ready_of (by decide +kernel), ready_of (by decide +kernel), by decide +kernel⟩
/-- reply to a request that wants none, and to one on channel 20. -/
theorem wit_FibreReplies : Claim.ready (fibD 20) 0 0 .writeOp [8] [10, 11] [(10, 2)] ∧ descOk' (descTo 20) 4 = true ∧ descRchan (descTo 20) = 0 ∧
    (fibD 20).canSend 0 false false = true ∧ Claim.payloadReady (fibD 20) 0 0 12 1 ∧ (descTo 20).testBit 57 = false ∧
    bits (20 * 2 ^ 20) 29 20 ≠ 0 ∧ bits 0 29 20 = 0 :=
  ⟨ready_of (by decide +kernel), by decide +kernel, by decide +kernel, by decide +kernel, ⟨by decide +kernel, .inr ⟨by decide +kernel, ready_of (by decide +kernel)⟩⟩,
    by decide +kernel⟩
/-- A valid hank of 4 slots of 16 bytes with 3 filled and 1 free, and a PENDING register. -/
def hank4 : Nat := 3 + 1 * 2 ^ 16 + 6 * 2 ^ 83 + 2 ^ 91
theorem wit_ChannelsAndHanks : Claim.ready fib 0 0 .wait [] [5] [] ∧ ((fib.ctx 0 0).r.cell 5).pres = .present ∧
    Claim.ready (fibOf fun x => x.setPres 5 .pending) 0 0 .wait [] [] [] ∧
    (((fibOf fun x => x.setPres 5 .pending).ctx 0 0).r.cell 5).pres = .pending ∧
    Claim.ready (fibOf fun x => x.setV 5 1023) 0 0 .plain [5] [6] [] ∧ (fib.core 0).mayChange false 1023 = true ∧ (fib.core 0).mayChange false 5 = false ∧
    hkValid hank4 = true ∧ hkSlots hank4 = 4 ∧ hkFree hank4 < 2 ∧ 2 ≤ hkFilled hank4 ∧ hkFilled hank4 + hkFree hank4 + 0 ≤ hkSlots hank4 :=
  ⟨ready_of (by decide +kernel), by decide +kernel, ready_of (by decide +kernel), by decide +kernel, ready_of (by decide +kernel), by decide +kernel⟩
theorem wit_DepositsAreSent : Claim.ready (fibOf fun x => x.setV 8 (0x100 + 5 * 2 ^ 32 + 30 * 2 ^ 44)) 0 0 .writeOp [8, 4, 5, 6, 7] [] [(4, 4)] ∧
    depositOk (0x100 + 8 * 2 ^ 37 + 30 * 2 ^ 44) true = true ∧ depositOk (0x100 + 5 * 2 ^ 37 + 511 * 2 ^ 44) false = true ∧
    fib.canSend 0 false true = true := ⟨ready_of (by decide +kernel), by decide +kernel⟩
/-- join of a resident Skein, of a name that is not resident, and of 0; leave by a Fibre that has joined. -/
def fibJ : State := (fibOf fun x => { x.setV 11 0x100 with skein := 0x100, joined := true }).updCore 0 fun k => { k with residents := [{ name := 0x100, lvl := false, handle := none }] }
theorem wit_JoiningAndLeaving : Claim.ready fibJ 0 0 .plain [11] [10] [] ∧ Claim.ready fib 0 0 .plain [11] [10] [] ∧ (fibJ.ctx 0 0).joined = true ∧
    (fib.ctx 0 0).mbr = false ∧ (fib.ctx 0 0).skein = 0 ∧ (fib.ctx 0 0).vlo 11 = 0 ∧ fib.entriesFree 0 1 = true ∧
    (∃ r ∈ (fibJ.core 0).residents, r.name = 0x100 ∧ r.lvl = (fibJ.ctx 0 0).lvl) ∧ ((fibJ.core 0).members 0x100).length < 32 :=
  ⟨ready_of (by decide +kernel), ready_of (by decide +kernel), by decide +kernel⟩
/-- A box of depth 1 in box 3 with one entry; a configuration that R208 admits, and one that overlaps it. -/
def fibB : State := (fibOf fun x => x.setV 8 3).updCore 0 fun k => k.setBox 3 { depth := 1, on := true, entries := [{ key := 7, tb := 0, value := 0, rcore := 0, rchan := 0, lvl := false }] }
theorem wit_SkimmerCommands : Claim.ready fibB 0 0 .writeOp [8, 9] [10] [] ∧ Claim.ready fibB 0 0 .writeOp [8] [10, 11] [(10, 2)] ∧
    (fibB.core 0).boxOk 4 (SkBox.ofWord (2 + 2 ^ 11 + 8 * 2 ^ 12)) = true ∧ (fibB.core 0).boxOk 4 (SkBox.ofWord (2 + 2 ^ 11 + 7 * 2 ^ 12)) = false ∧
    ((fibB.core 0).box 3).on = true ∧ ((fibB.core 0).box 3).entries[0]? = some { key := 7, tb := 0, value := 0, rcore := 0, rchan := 0, lvl := false } ∧ ((fibB.core 0).box 3).entries[1]? = none :=
  ⟨ready_of (by decide +kernel), ready_of (by decide +kernel), by decide +kernel⟩

/-! ### Harts -/

/-- Hart N of core 0, RUNNING at 0x1000 with both ambient capabilities, about to run an instruction with the operands. -/
def hartN (op : HartOp) : State :=
  let s := State.reset.placeHart []
  { (s.updCore 0 fun k => { k with idN := { k.idN with amb1 := BitVec.ofNat 128 ambientCap1 } }) with cur := .hart 0 false, turns := [], hop := op, hraw := 3 }
/-- The same with values in registers. -/
def hartOf (op : HartOp) (rs : List (XReg × Nat)) : State :=
  let s := hartN op
  s.setHart 0 false (rs.foldl (fun h r => h.set r.1 (BitVec.ofNat 64 r.2)) (s.hart 0 false))
/-- Register r of hart N of core 0. -/
def xreg (t : State) (r : XReg) : Nat := ((t.hart 0 false).get r).toNat

/-- R146: x0 stays zero; R148: a csrrw of jdivec returns the old value; a read-only CSR raises cause 2. -/
theorem test_hart_x0 : gives (hartN (.rv (.ri .addi 0 0 5) false)) .rv64imacInstruction (fun t => xreg t 0 == 0 && (t.hart 0 false).pc == 0x1004) = true := by
  decide +kernel
theorem test_hart_csr : gives (hartOf (.csr .rw false 0x800 10 11) [(11, 0x2007)]) .csrWrite
      (fun t => (t.hart 0 false).jdivec == 0x2004 && xreg t 10 == 0) = true ∧
    gives (hartOf (.csr .rw false 0xCC4 10 11) [(11, 1)]) .csrWrite (fun t => (t.hart 0 false).excCause == 2) = true := by decide +kernel
/-- R149: a store and a load of the scratchpad; lb sign-extends. -/
theorem test_hart_memory : gives (hartOf (.store .sb 10 11 0 false) [(10, spadBase + 8), (11, 0x80)]) .hartStore
    (fun t => gives { t with cur := .hart 0 false, hop := .load .lb 12 10 0 false } .hartLoad
      (fun u => xreg u 12 == 2 ^ 64 - 0x80)) = true := by decide +kernel
/-- R149: a misaligned word raises cause 4 with its address. -/
theorem test_hart_misaligned : gives (hartOf (.load .lw 12 10 0 false) [(10, spadBase + 2)]) .hartLoad
    (fun t => (t.hart 0 false).excCause == 4 && (t.hart 0 false).excVal.toNat == spadBase + 2) = true := by decide +kernel
/-- R154: jd.skalloc of two members takes contexts 0 and 1 as STOPPED. -/
theorem test_skalloc : gives (hartOf (.custom 0) [(11, 2)]) (.jdSkalloc 11 10)
    (fun t => xreg t 10 == 0 && (t.ctx 0 1).st == .stopped && (t.ctx 0 1).rank == 1 && (t.ctx 0 2).st == .free) = true := by decide +kernel
/-- R286: sc without a reservation answers 1 and stores nothing. -/
theorem test_sc : gives (hartOf (.sc false .none 12 10 11) [(10, spadBase), (11, 7)]) .sc
    (fun t => xreg t 12 == 1 && ofBytes (t.readAt (.spad 0 0) 4) == 0) = true := by decide +kernel

/-- `Claim.hartReady` of hart N of core 0. -/
theorem hart_ready (op : HartOp) (rs : List (XReg × Nat)) (h : ((hartOf op rs).hart 0 false).executes = true) :
    Claim.hartReady (hartOf op rs) 0 false := ⟨rfl, by decide, h⟩

theorem hck_of {r : HCheck} {l : Loc} (h : (match r with | .ok m => decide (m = l) | _ => false) = true) : r = .ok l := by
  cases r <;> simp_all

theorem wit_HartComputes : Claim.hartReady (hartOf (.rv (.ri .addi 0 0 5) false) []) 0 false ∧
    Claim.rvResult (hartOf (.rv (.ri .addi 0 0 5) false) []) 0 false (.ri .addi 0 0 5) = some (0, 5) ∧
    (∃ v, Claim.rvResult (hartOf .none []) 0 false (.csrRead 0xCD6 7) = some (7, v)) :=
  ⟨hart_ready _ _ (by decide +kernel), by decide +kernel, ⟨_, by rfl⟩⟩
theorem wit_HartJumps : Claim.hartReady (hartOf (.rv (.br .beq 0 0 8) false) []) 0 false ∧
    (hartOf (.rv (.jalr 1 2 4) true) []).hop = .rv (.jalr 1 2 4) true ∧
    (({ (hartOf .none []).hart 0 false with jdieA := true } : Hart)).jdieA = true := ⟨hart_ready _ _ (by decide +kernel), rfl, rfl⟩
theorem wit_HartTraps : Claim.hartReady (hartOf .none []) 0 false ∧ Claim.hartTrap (hartOf .none []) 0 false .ecall = some (8, 0) ∧
    Claim.hartTrap (hartOf (.rv .ebreak false) []) 0 false .rv64imacInstruction = some (3, 0x1000) ∧
    Claim.hartTrap (hartOf .none [(5, 9)]) 0 false (.jdTrap 5) = some (24, 9) ∧
    Claim.hartTrap (hartOf .none []) 0 false .jdUiret = some (2, 3) :=
  ⟨hart_ready _ _ (by decide +kernel), by decide +kernel, by decide +kernel, by decide +kernel, by decide +kernel⟩
theorem wit_CsrWrites : Claim.hartReady (hartOf (.csr .rs true 0x801 10 1) []) 0 false ∧
    (hartOf (.csr .rs true 0x801 10 1) []).hop = .csr .rs true 0x801 10 1 := ⟨hart_ready _ _ (by decide +kernel), rfl⟩
/-- A page of HBM that hart N may reach. -/
def hartG (op : HartOp) (rs : List (XReg × Nat)) : State :=
  (hartOf op rs).updCore 0 fun k => { k with tlb := { k.tlb with entries := [(0, leaf2)] } }
/-- Scratchpad, shape table, handler window, HBM, misaligned and outside. -/
theorem wit_HartLoads : Claim.hartReady (hartOf (.load .ld 12 10 0 false) [(10, spadBase)]) 0 false ∧
    Claim.freshIds (hartOf (.load .ld 12 10 0 false) [(10, spadBase)]) ∧
    (hartOf .none []).hartCheck 0 false spadBase 8 permR false = .ok (.spad 0 0) ∧
    (hartOf .none []).hartCheck 0 false (shapeBase + 8) 8 permR false = .ok (.shape 0 8) ∧
    (hartOf .none []).hartCheck 0 false (handlerBase + 32) 8 permR false = .ok (.handler 0 32) ∧
    (hartG .none []).hartCheck 0 false 0x20008 8 permR false = .ok (.pma 0x50008) ∧ (hartG .none []).entriesFree 0 1 = true ∧
    (hartOf .none []).poisonedAt (.spad 0 0) 8 = false ∧ (spadBase + 4) % 8 ≠ 0 ∧ ((hartOf .none []).core 0).ambient false (2 ^ 40) 8 permR = false :=
  ⟨hart_ready _ _ (by decide +kernel), by unfold Claim.freshIds; decide +kernel, hck_of (by decide +kernel), hck_of (by decide +kernel), hck_of (by decide +kernel), hck_of (by decide +kernel), by decide +kernel⟩
theorem wit_HartStores : Claim.hartReady (hartOf (.store .sd 10 11 0 false) [(10, spadBase)]) 0 false ∧
    (hartOf .none []).hartCheck 0 false spadBase 8 permW true = .ok (.spad 0 0) ∧
    (hartOf .none []).hartCheck 0 false shapeBase 8 permW true = .ok (.shape 0 0) ∧
    (hartOf .none []).hartCheck 0 false (handlerBase + 32 * 20) 8 permW true = .ok (.handler 0 640) ∧
    (∃ k, ((hartOf .none []).core 0).storeWindow false 640 (bytesOf 0x1000 8) = some k) ∧
    ((hartOf .none []).core 0).storeWindow false 0 (bytesOf 0x1000 8) = none ∧
    (hartG .none []).hartCheck 0 false 0x20008 8 permW true = .ok (.pma 0x50008) :=
  ⟨hart_ready _ _ (by decide +kernel), hck_of (by decide +kernel), hck_of (by decide +kernel), hck_of (by decide +kernel), Option.isSome_iff_exists.mp (by decide +kernel), by decide +kernel, hck_of (by decide +kernel)⟩
/-- amo, lr and sc in the scratchpad, with and without a reservation, and in HBM. -/
theorem wit_HartAtomics : Claim.hartReady (hartOf (.amo .add true .none 12 10 11) [(10, spadBase)]) 0 false ∧
    Claim.freshIds (hartOf (.amo .add true .none 12 10 11) [(10, spadBase)]) ∧ (hartOf (.lr false .acq 12 10) []).hartReqs 0 false = [] ∧
    (hartOf .none []).hartCheck 0 false spadBase 8 (permR + permW + permA) true = .ok (.spad 0 0) ∧
    (hartOf .none []).hartCheck 0 false spadBase 4 (permR + permA) false = .ok (.spad 0 0) ∧
    (hartOf .none []).hartCheck 0 false spadBase 4 (permW + permA) true = .ok (.spad 0 0) ∧
    atomicNew (AmoOp.at .add) 8 5 0 3 = some 8 ∧ (hartOf .none []).reserved 0 false (.spad 0 0) 4 = false ∧
    ({ hartOf .none [] with resvs := [{ core := 0, urgent := false, loc := .spad 0 0, n := 4 }] } : State).reserved 0 false (.spad 0 0) 4 = true ∧
    (hartG .none []).hartCheck 0 false 0x20008 8 (permR + permW + permA) true = .ok (.pma 0x50008) ∧ (Loc.pma 0x50008).hartAtomic = true :=
  ⟨hart_ready _ _ (by decide +kernel), by unfold Claim.freshIds; decide +kernel, by decide +kernel, hck_of (by decide +kernel), hck_of (by decide +kernel), hck_of (by decide +kernel), by decide +kernel, by decide +kernel, by decide +kernel, hck_of (by decide +kernel), by decide +kernel⟩
theorem wit_HartFences : Claim.hartReady (hartOf (.fence 0 3 3) [(10, 15)]) 0 false ∧ (hartOf (.fence 0 3 3) []).hartReqs 0 false = [] ∧
    ({ hartOf (.fence 0 3 3) [] with reqs := [{ id := 0, core := 0, who := .hart false, op := .hartRead 8 false, va := 0, loc := .pma 0, isWrite := false, insn := 0 }] }
      : State).hartReqs 0 false ≠ [] := ⟨hart_ready _ _ (by decide +kernel), by decide +kernel, by decide +kernel⟩

/-! ### Harts: messages, Skeins and engines -/

/-- jd.send with room and without, jd.sendx from byte 64, jd.ack of a message that wants an answer and of none. -/
theorem wit_HartSends : Claim.hartReady (hartOf (.custom 0) [(11, descTo 20)]) 0 false ∧ descOk' (descTo 20) 4 = true ∧ descOk' (descTo 20 + 1) 4 = false ∧
    (hartOf .none []).canSend 0 false true = true ∧ (hartOf .none []).hartSpad 0 false (spadBase + 64) 16 permR = .ok 64 ∧
    (hartOf .none []).spadPoison 0 64 16 = none ∧ bits (20 * 2 ^ 35) 44 35 ≠ 0 ∧ (20 * 2 ^ 35 : Nat).testBit 45 = false :=
  ⟨hart_ready _ _ (by decide +kernel), by decide +kernel, by decide +kernel, by decide +kernel, ok_of (by decide +kernel), by decide +kernel, by decide +kernel,
    by decide +kernel⟩
/-- A message for hart N at the head of its request queue. -/
def hartM : State := (hartOf (.custom 0) []).updCore 0 fun k =>
  ({ k with inbox := { k.inbox with nReq := [{ chan := 20, plen := 1, payload := List.replicate 16 0#8 }] } } : Core).setEntry 20 (2 * 2 ^ 63 + 2 ^ 70)
theorem wit_HartReceives : Claim.hartReady (hartOf (.custom 0) []) 0 false ∧ ((hartOf .none []).hart 0 false).jdieA = false ∧
    ((hartOf .none []).core 0).hartHead false = none ∧ (∃ p, (hartM.core 0).hartHead false = some p) :=
  ⟨hart_ready _ _ (by decide +kernel), by decide +kernel, by decide +kernel, Option.isSome_iff_exists.mp (by decide +kernel)⟩
/-- A core whose hart N owns a Skein of one STOPPED member, context 0, in handle 0, with a code window. -/
def hartK (op : HartOp) (rs : List (XReg × Nat)) : State :=
  (hartOf op rs).updCore 0 fun k => { (k.setCtx 0 { st := .stopped, nreg := 16, mbr := true, handle := some 0 }) with
    skeins := k.skeins.set 0 (some { urgent := false, members := [0], code := 0 }), idN := { k.idN with jdcwb := 0x1000, jdcwl := 0x2000 } }
/-- chset of an entry word, a hank word and a hank operation; chen of a channel that the level may change, and of one it may not. -/
theorem wit_HartChannels : Claim.hartReady (hartOf (.custom 0) [(11, 20)]) 0 false ∧ selOk 20 = true ∧ selOk (2 ^ 14) = true ∧ selOk (2 ^ 15) = true ∧
    (∃ k1, ((hartOf .none []).core 0).storeEntry false 20 (5 * 2 ^ 0) (2 ^ 64 - 1) = some k1) ∧
    (∃ g, hkApply (HkOp.ofCode 0) hank4 1 = .ok g) ∧ selOk (2 ^ 40) = false ∧ ((hartOf .none []).core 0).mayChange false 20 = true ∧
    ((hartOf .none []).core 0).mayChange false 0 = false :=
  ⟨hart_ready _ _ (by decide +kernel), by decide +kernel, by decide +kernel, by decide +kernel, Option.isSome_iff_exists.mp (by decide +kernel),
    ⟨_, by rfl⟩, by decide +kernel⟩
/-- Two members with room; 32 of 64 registers without. -/
theorem wit_SkeinAllocation : Claim.hartReady (hartOf (.custom 0) [(11, 2)]) 0 false ∧
    ((hartOf .none []).core 0).canCreate false (List.replicate 2 16) = true ∧ ((hartOf .none []).core 0).skeins.toList.getD 0 none = none ∧
    ((hartOf .none []).core 0).canCreate false (List.replicate 32 64) = false := ⟨hart_ready _ _ (by decide +kernel), by decide +kernel⟩
/-- A member that is done, one that has faulted and one that is busy; a block in the window, one past it, and one not aligned. -/
theorem wit_SkeinControl : Claim.hartReady (hartK (.custom 0) [(10, 0), (11, 0x1000)]) 0 false ∧
    (∃ sk, ((hartK .none []).core 0).handleOf false 0 = some sk ∧ sk.members = [0] ∧ (hartK .none []).bcastStatus 0 sk 0x1000 ≠ 0) ∧
    (∃ sk, (((hartK .none []).updCore 0 fun k => { (k.setCtx 0 { st := .ready }) with skeins := k.skeins.set 0 (some { urgent := false, members := [0], code := 0, started := true, opened := true }) })).bcastStatus
      0 sk 0x1000 = 0) ∧
    ((hartK .none []).core 0).handleOf false 3 = none ∧ (hartK .none []).memberDone 0 0 = true ∧ 16 ≤ ((hartK .none []).ctx 0 0).nreg ∧
    ((hartK .none []).setCtx 0 0 { st := .faulted }).memberDone 0 0 = false ∧ ((hartK .none []).setCtx 0 0 { st := .ready }).memberDone 0 0 = false ∧
    ((hartK .none []).core 0).inWindow false 0x1000 = true ∧ ((hartK .none []).core 0).inWindow false 0x100000 = false :=
  ⟨hart_ready _ _ (by decide +kernel), ⟨_, by rfl, by rfl, by decide +kernel⟩,
    ⟨{ urgent := false, members := [0], code := 0, started := true, opened := true }, by decide +kernel⟩, by decide +kernel⟩
theorem wit_SkeinStatusAndContexts : Claim.hartReady (hartK (.custom 0) []) 0 false ∧
    (∃ sk, ((hartK .none []).core 0).handleOf false 0 = some sk) ∧ (hartK .none []).memberBusy 0 0 = false ∧
    ((hartK .none []).setCtx 0 0 { st := .ready }).memberBusy 0 0 = true ∧ fselOk 0 = true ∧ fselOk (64 * 1 + 256 * 7) = true ∧
    fselOk (2 ^ 40) = false ∧ ((hartK .none []).ctx 0 0).lvl = false ∧ ((hartK .none []).ctx 0 1).st = .free :=
  ⟨hart_ready _ _ (by decide +kernel), Option.isSome_iff_exists.mp (by decide +kernel), by decide +kernel⟩
/-- jd.skm in its three forms on box 3 with one entry; jd.name of an unnamed Skein; the six counters. -/
theorem wit_HartUnits : Claim.hartReady (hartK (.custom 0) [(11, spadBase)]) 0 false ∧
    (hartOf .none []).hartSpad 0 false spadBase 32 permR = .ok 0 ∧ (hartOf .none []).spadPoison 0 0 32 = none ∧
    ((hartOf .none []).core 0).boxOk 0 (SkBox.ofWord (ofBytes ((hartOf .none []).readAt (.spad 0 0) 16))) = true ∧
    (fibB.core 0).boxOk 4 (SkBox.ofWord (2 + 2 ^ 11 + 7 * 2 ^ 12)) = false ∧ (bits (1 + 4 * 3) 5 2 = 3 ∧ ((fibB.core 0).box 3).on = true) ∧
    ((hartOf .none []).core 0).box 0 = {} ∧
    (let x := descTo 20 + 5 * 2 ^ 128; bits x 127 64 = 0 ∧ descOk' (x % 2 ^ 64) 4 = true ∧ descPlen (x % 2 ^ 64) = 1) ∧
    (∃ sk, ((hartK .none []).core 0).handleOf false 0 = some sk ∧ sk.name = 0) ∧ Claim.counter (hartOf .none []) 0 false 4 = some 2048 :=
  ⟨hart_ready _ _ (by decide +kernel), ok_of (by decide +kernel), by decide +kernel, by decide +kernel, by decide +kernel, by decide +kernel, rfl,
    by decide +kernel, ⟨_, by rfl, by rfl⟩, by decide +kernel⟩

/-- Hart N holds the open batch. -/
def hartT (op : HartOp) (rs : List (XReg × Nat)) : State :=
  (hartOf op rs).updCore 0 fun k => { k with footprint := 2 ^ 18, tw := { k.tw with openB := true } }
/-- A product of 16 by 16 by 16 in BF16 from the scratchpad, and its epilogue; an operand word that names the latch is refused. -/
theorem wit_TwisterCommands : Claim.hartReady (hartT (.custom 0) []) 0 false ∧ Claim.twCompute (.jdTwmma 11 10 12) = some (0, 11, 10, 12) ∧
    ((hartT .none []).core 0).twBad false 0 (2048 * 2 ^ 21) 0 = none ∧ (((hartT .none []).core 0).twBad false 0 (3 * 2 ^ 19) 0).isSome = true ∧
    ((hartT .none []).core 0).epiBad false (16 * 2 ^ 38 * 0 + 64 * 2 ^ 44 * 0 + 4 * 2 ^ 48) 0 = none ∧
    (((hartT .none []).core 0).epiBad false 1 0).isSome = true ∧
    ((hartT .none []).core 0).tw.cmd = none ∧ (hartT .none []).canCommand 0 false 0 = true :=
  ⟨hart_ready _ _ (by decide +kernel), rfl, by decide +kernel⟩
theorem wit_TwisterControl : Claim.hartReady (hartT (.custom 0) [(10, 1)]) 0 false ∧ ((hartT .none []).core 0).tw.heldBy false = true ∧
    ((hartOf .none []).core 0).tw.heldBy false = false ∧ ((hartOf .none []).core 0).domBad 0 false (2 ^ 30) = true ∧
    ((hartT .none []).core 0).domBad 0 false 0 = false :=
  ⟨hart_ready _ _ (by decide +kernel), by decide +kernel⟩
theorem wit_TwisterInstructionsRetire : Claim.hartReady (hartT (.custom 0) [(10, 1)]) 0 false ∧ ((hartT .none []).core 0).tw.busy = false ∧
    ((hartOf .none []).core 0).tw.openB = false ∧ ((hartT .none []).core 0).domBad 0 false 0 = false ∧
    ((hartOf .none []).updCore 0 fun k => { k with tw := { k.tw with saving := some false } }).hartReqs 0 false = [] ∧
    ((hartT .none []).core 0).twAddrBad false spadBase permW = false ∧
    (match (hartOf .none []).twArea 0 false spadBase false 2049 with | .ok ps => ps.all fun p => p.2.isLocal | _ => false) = true :=
  ⟨hart_ready _ _ (by decide +kernel), by decide +kernel⟩
/-- The image goes to the first bytes of the scratchpad. -/
theorem wit_TwisterImages : Claim.hartReady (hartT (.custom 0) [(10, spadBase)]) 0 false ∧ ((hartT .none []).core 0).twAddrBad false spadBase permW = false ∧
    ((hartOf .none []).core 0).twAddrBad false (spadBase + 8) permR = true ∧ ((hartT .none []).core 0).tw.openB = true ∧
    (match (hartT .none []).twArea 0 false spadBase true 2049 with | .ok ps => ps.length == 2049 && ps.all fun p => p.2.isLocal | _ => false) = true ∧
    ofBytes ((List.replicate 64 (0#8)).take 2) = 0 := ⟨hart_ready _ _ (by decide +kernel), by decide +kernel⟩
/-- A copy of one row of 16 `.z8` elements, by a Fibre and by jd.cdr; a record with a reserved bit. -/
def cdRec : Nat := spadBase + 256 + 1 * 2 ^ 60 + 16 * 2 ^ 128 + 1 * 2 ^ 288 + 16 * 2 ^ 468
theorem wit_CarderCommands : Claim.cdrInstr (.cdrCpy 16 8 9) = some (0, 16, 8, 9) ∧
    Claim.ready (fibOf fun x => x.setV 9 capS true) 0 0 .writeOp [9, 16, 8, 9, 10, 11, 12, 13] [] [(8, 8)] ∧
    (({ id := 0, op := 0, record := cdRec, word := 0, lvl := false } : CdCmd).layoutBad (fib.core 0) 0 true 0) = none ∧
    (({ id := 0, op := 0, record := cdRec + 2 ^ 71, word := 0, lvl := false } : CdCmd).layoutBad (fib.core 0) 0 true 0) = some 71 ∧
    (({ id := 0, op := 0, record := cdRec, word := 0, lvl := false } : CdCmd).capBad (fib.core 0) 0 0 false).isSome = true ∧
    (fib.core 0).cdFree false = true ∧ fib.canCommand 0 false 0 = true ∧ (fib.core 0).replyOk false 0 = true ∧
    Claim.hartReady (hartOf (.custom 0) [(11, spadBase)]) 0 false ∧
    (cdOfRecord 0 cdRec false).layoutBad ((hartOf .none []).core 0) 0 true 0 = none ∧ (cdOfRecord 0 cdRec false).ambientBad ((hartOf .none []).core 0) = none :=
  ⟨rfl, ready_of (by decide +kernel), by decide +kernel, by decide +kernel, by decide +kernel, by decide +kernel, by decide +kernel, by decide +kernel,
    hart_ready _ _ (by decide +kernel), by decide +kernel⟩
/-- Puts of keys 3 and 1 in either order to a box of depth 1 that holds key 7. -/
theorem wit_PutsKeepTheHighest : let e (k : Nat) : SkEntry := { key := k, tb := 0, value := 0, rcore := 0, rchan := 0, lvl := false }
    [e 1, e 3].Perm [e 3, e 1] ∧ ({ depth := 1, on := true, entries := [e 7] } : SkBox).entries.length ≤ 1 :=
  ⟨List.Perm.swap _ _ _, by decide⟩

/-! ### Events: homes and answers -/

/-- Request 7 of context 0 of core 0, an operation on the word at 0x50000 of HBM. -/
def rq (op : ReqOp) (w : Bool) : Req := { id := 7, core := 0, who := .fibre 0 0, op := op, va := 0x20000, loc := .pma 0x50000, isWrite := w, insn := 7, regs := [3], rd := 3 }
/-- The machine with it on its way; the context is READY, and the event names the request. -/
def homeS (r : Req) : State := { fib.updCtx 0 0 (fun x => { x with st := .ready }) with cur := .env, reqs := [r], nextReq := 8, ev := { k := 7 } }
/-- The same with context 0 in a wait for it. -/
def waitS (r : Req) (k : WKind) : State :=
  (homeS r).updCtx 0 0 fun x => { x with st := .waiting, wait := { kind := k, req := 7, addr := 0x20000, limit := 4 } }
theorem wf_of {s : State} {l : Loc} (h : (match s.memOf l with | some m => m.1.wf | none => true) = true) : Claim.wfAt s l := by
  intro m hm
  simpa [hm] using h
/-- A read answers the bytes of its home; a load of them then lands in its register. -/
theorem test_read_lands : gives ((homeS (rq (.read 4 3 0 []) false)).storeAt (.pma 0x50000) [1, 2, 3, 4] none) .memoryReadRequest
    (fun t => gives t .loadLands fun u => reg u 3 == 0x04030201 && u.reqs == []) = true := by decide +kernel
/-- A write is performed at its home. -/
theorem test_write_home : gives (homeS (rq (.write [9, 8] none) true)) .memoryWriteRequest
    (fun t => t.readAt (.pma 0x50000) 4 == [9, 8, 0, 0] && t.stageOf 7 == some .performed) = true := by decide +kernel
/-- R283: amo.add of −1 to 5. -/
theorem test_amo_home : gives ((homeS (rq (.atomic .add 4 0xFFFFFFFF 0) true)).storeAt (.pma 0x50000) [5] none) .atomicRequest
    (fun t => t.readAt (.pma 0x50000) 4 == [4, 0, 0, 0] && t.stageOf 7 == some (.answered [5, 0, 0, 0] [])) = true := by decide +kernel

theorem wit_HomeReadsAndWrites : let s := homeS (rq (.write [9, 8] (some [])) true)
    s.findReq 7 = some (rq (.write [9, 8] (some [])) true) ∧ s.onWay (rq (.write [9, 8] (some [])) true) = true ∧ (Loc.pma 0x50000).isLocal = true ∧
    s.memOf (.pma 0x50000) ≠ none ∧ s.ownerOk (s.core 0).tenant (.pma 0x50000) = true ∧ s.frozen (.pma 0x50000) = false ∧
    s.poisonedAt (.pma 0x50000) 2 = false ∧
    ({ s with agent := { s.agent with frames := [(0x50000, { owner := 5 })] } } : State).ownerOk 1023 (.pma 0x50000) = false := by decide +kernel
theorem wit_homeAt (op : ReqOp) (w : Bool) : Claim.homeAt (homeS (rq op w)) (rq op w) ∧ Claim.wfAt (homeS (rq op w)) (.pma 0x50000) :=
  ⟨⟨rfl, rfl, rfl, by rfl, (show some _ ≠ none from nofun), by rfl⟩, wf_of rfl⟩
/-- An access of tenant 1023 of another package to the word: the leaf in the gateway's buffer, and no leaf for the next page. -/
theorem wit_OtherPackagesAccess :
    let s : State := { State.reset with ev := { k := 4, n := 0x20000, codes := [1023, 0], data := [1, 2] }
                                        pod := { ({} : Pod) with tlb0 := { entries := [(0, 1023, leaf2)] } } }
    s.gateTranslate 0 1023 0x20000 .read = (s, .hit (.pma 0x50000)) ∧ s.gateTranslate 0 1023 0x20000 .write = (s, .hit (.pma 0x50000)) ∧
    s.gateTranslate 0 1023 0x30000 .read = (s, .refused) ∧ s.reqs = [] ∧ s.ownerOk 1023 (.pma 0x50000) = true ∧
    s.poisonedAt (.pma 0x50000) 2 = false ∧ s.frozen (.pma 0x50000) = false ∧ s.memOf (.pma 0x50000) ≠ none :=
  ⟨rfl, rfl, rfl, by decide +kernel⟩
theorem wit_StoresClearTags : let m : Mem := { tags := [3] }
    m.wf = true ∧ m.poisoned 32 0x30 8 = false ∧ setHas m.tags 3 = true := by decide +kernel
/-- With the reservation of hart N, and without. -/
theorem wit_HomeAtomics : let s := homeS { rq (.sc 4 7) true with who := .hart false }
    s.frozen (.pma 0x50000) = false ∧ s.poisonedAt (.pma 0x50000) 4 = false ∧ s.reserved 0 false (.pma 0x50000) 4 = false ∧
    ({ s with resvs := [{ core := 0, urgent := false, loc := .pma 0x50000, n := 4 }] } : State).reserved 0 false (.pma 0x50000) 4 = true := by decide +kernel
/-- An EMPTY word and a FULL one, with no waiter. -/
theorem wit_HomeFullEmpty : let s := homeS (rq (.fe .ldfe 0) true)
    s.poisonedAt (.pma 0x50000) 8 = false ∧ s.isFull (.pma 0x50000) = false ∧ (s.setFull (.pma 0x50000) true).isFull (.pma 0x50000) = true ∧
    s.waitersAt (.pma 0x50000) = [] ∧ s.waiters (.pma 0x50000) < 4096 ∧ (Loc.pma 0x50000).hasState = true := by decide +kernel
/-- A ldff and a ldfe that wait for the store. -/
theorem wit_HomeServesReaders :
    let a (n : Nat) (op : FeOp) : Req := { rq (.fe op 0) true with id := n, insn := n, stage := .waiter }
    let s := { homeS (rq (.fe .stef 5) true) with reqs := [a 1 .ldff, a 2 .ldfe, rq (.fe .stef 5) true] }
    s.waitersAt (.pma 0x50000) = [a 1 .ldff] ++ a 2 .ldfe :: [] ∧ (s.reqs.map (·.id)).Nodup ∧ s.isFull (.pma 0x50000) = false ∧
    s.findReq 7 = some (rq (.fe .stef 5) true) := by decide +kernel
/-- A counter at 1 that a decrement of 1 crosses; jc.wait finds it above 0, and one at 0. -/
theorem wit_HomeJoinCounters : let s := (homeS (rq (.jc .dec 1 0) true)).storeAt (.pma 0x50000) [1] none
    s.poisonedAt (.pma 0x50000) 16 = false ∧ sext (ofBytes (s.readAt (.pma 0x50000) 16) % 2 ^ 64) 64 = 1 ∧ Claim.jcCount .dec 1 1 = 0 ∧
    s.waiters (.pma 0x50000) < 4096 ∧ s.findReq 7 = some (rq (.jc .dec 1 0) true) ∧ s.frozen (.pma 0x50000) = false := by decide +kernel
theorem wit_CancelsAndRetries :
    (homeS { rq (.fe .ldfe 0) true with stage := .waiter, cancel := true }).findReq 7 = some { rq (.fe .ldfe 0) true with stage := .waiter, cancel := true } ∧
    (homeS { rq (.fe .ldfe 0) true with stage := .waitFull 0 }).findReq 7 = some { rq (.fe .ldfe 0) true with stage := .waitFull 0 } ∧
    0 + 256 ≤ (((homeS (rq (.fe .ldfe 0) true)).updCore 0 fun k => { k with counter := 300 }).core 0).counter ∧
    (fibG.core 0).translate 0x20000 .write = .hit (.pma 0x50000) := by decide +kernel
/-- A read of four bytes with its data, a poisoned one and one whose home does not admit the tenant. -/
theorem wit_LoadsLand : let r (st : Stage) : Req := { rq (.read 4 3 0 []) false with stage := st }
    let s := homeS (r (.answered [1, 2, 3, 4] []))
    s.findReq 7 = some (r (.answered [1, 2, 3, 4] [])) ∧ s.alive 0 0 (s.ctx 0 0).inc.toNat = true ∧ (s.ctx 0 0).signed = none ∧
    (s.ctx 0 0).inc.toNat = 0 ∧ s.lastOf (r (.answered [1, 2, 3, 4] [])) = true ∧
    ({ s with reqs := [r .poisoned, { r .poisoned with id := 8 }] } : State).lastOf (r .poisoned) = false ∧ (s.ctx 0 0).st = .ready := by decide +kernel
theorem wit_AtomicsAndWritesLand : let r : Req := { rq (.atomic .addf 4 0x3F800000 0) true with stage := .answered [0, 0, 0, 0] [] }
    let h : Req := { rq (.write [1] none) true with who := .hart false, stage := .fenced }
    (homeS r).findReq 7 = some r ∧ (homeS r).alive 0 0 0 = true ∧ (homeS h).findReq 7 = some h ∧
    (({ hartOf .none [] with cur := .env, reqs := [h], ev := { k := 7 } } : State).hart 0 false).st = .running ∧
    ((hartOf .none []).hart 0 false).missVa = none := by decide +kernel
/-- ldfe answered in its wait, jc.wait answered in its, and a jc.dec that crosses with no continuation and with one. -/
theorem wit_ServiceAnswers : let r (op : ReqOp) (st : Stage) : Req := { rq op true with stage := st }
    (waitS (r (.fe .ldfe 0) (.answered [1] [])) .fullEmpty).findReq 7 = some (r (.fe .ldfe 0) (.answered [1] [])) ∧
    (waitS (r (.fe .ldfe 0) (.answered [1] [])) .fullEmpty).alive 0 0 0 = true ∧
    ((waitS (r (.jc .wait 0 0) (.answered [] [])) .join).ctx 0 0).st = .waiting ∧
    ((waitS (r (.jc .wait 0 0) (.answered [] [])) .join).ctx 0 0).wait.req = 7 ∧
    ((homeS (r (.jc .dec 1 0) (.crossed 0 0))).ctx 0 0).st = .ready ∧ contOk (descTo 20) = true := by decide +kernel
/-- A wait on presence whose limit has passed; a cancel that found the waiter, and one that found it served. -/
theorem wit_WaitLimits : let s := (waitS (rq (.fe .ldfe 0) true) .fullEmpty).updCore 0 fun k => { k with counter := 9 }
    (s.ctx 0 0).st = .waiting ∧ (s.ctx 0 0).wait.limit ≠ 0 ∧ (s.ctx 0 0).wait.start + (s.ctx 0 0).wait.limit ≤ (s.core 0).counter ∧
    (s.ctx 0 0).wait.cancelSent = false ∧ s.findReq (s.ctx 0 0).wait.req = some (rq (.fe .ldfe 0) true) ∧ (Loc.pma 0x50000).isSpad = false ∧
    (s.ctx 0 0).waitsFor 7 = true ∧ s.alive 0 0 0 = true := by decide +kernel
theorem wit_HartAccessesEnd : let r : Req := { rq (.hartRead 8 false) false with who := .hart false, stage := .answered [1, 2, 3, 4, 5, 6, 7, 8] [] }
    let s : State := { (hartOf .none []).updHart 0 false fun h => { h with pend := some 7 } with cur := .env, reqs := [r] }
    (s.hart 0 false).pend = some 7 ∧ s.findReq 7 = some r ∧ (s.hart 0 false).st = .running ∧ (s.hart 0 false).missVa = none := by decide +kernel
/-- A block in fetch; a STOPPED context with nothing outstanding. -/
theorem wit_BlocksAndDrains : let e : BlkEntry := { addr := 0x1000, loc := .pma 0x50000 }
    let s := (homeS (rq (.fe .ldfe 0) true)).updCore 0 fun k => { k with blocks := [e] }
    ((s.core 0).blocks.filter fun b => b.data.isNone && b.failed.isNone)[0]? = some e ∧ s.ownerOk (s.core 0).tenant e.loc = true ∧
    s.poisonedAt e.loc 64 = false ∧
    ({ fibOf (fun x => { x with st := .stopped }) with reqs := [] } : State).outstanding 0 0 = false := by decide +kernel
/-- A block that starts with a marker and the CRC-32C of an empty path, and one with another word: a first run and a second. -/
def sigS (d : List Byte) (g : Option Signed) : State :=
  ({ (State.reset.placeFibre (0xFE#8 :: 0xFF#8 :: d)) with cur := .fibre 0 0, turns := [] } : State).updCtx 0 0
    fun x => { x with signed := g, st := if g.isSome then .running else .ready }
theorem wit_SignedBlocks : let g : Signed := { blk := 0x1000, entry := {} }
    let s := sigS [0, 0] none
    ((s.ctx 0 0).st = .ready ∧ (s.ctx 0 0).pcOff = 0 ∧ (s.core 0).checker = none ∧ (s.core 0).stopped = false ∧ (s.core 0).level = .live ∧
      (s.core 0).currentBlock (s.ctx 0 0) = some 0x1000 ∧
      (match s.fetchBlock 0 false 0x1000 with | .ready d => (markerOf d).isSome && parcelAt d 1 == crc32c [] % 2 ^ 16 | _ => false) = true) ∧
    Claim.ready (sigS [0, 0] (some g)) 0 0 .plain [] [] [] ∧ ((sigS [0, 0] (some g)).ctx 0 0).signed = some g ∧
    (match (sigS [1, 0] (some { g with second := true })).fetchBlock 0 false 0x1000 with | .ready d => parcelAt d 1 != crc32c [] % 2 ^ 16 | _ => false) = true ∧
    (((sigS [0, 0] none).core 0).findBlock 0x1000).isSome = true :=
  ⟨by decide +kernel, ready_of (by decide +kernel), by decide +kernel⟩
/-- R374: where the words differ the first run starts again, and the second faults with SIGFAIL. -/
theorem test_signature : let g : Signed := { blk := 0x1000, entry := {} }
    gives (sigS [0, 0] (some g)) .signatureMarker (fun t => (t.ctx 0 0).pcBlk == 0x1040 && (t.ctx 0 0).signed == none) = true ∧
    gives (sigS [1, 0] (some g)) .signatureMarker (fun t => (t.ctx 0 0).pcBlk == 0x1000 && (t.ctx 0 0).signed.isSome) = true ∧
    gives (sigS [1, 0] (some { g with second := true })) .signatureMarker (fun t => (t.ctx 0 0).cause == cSIGFAIL) = true := by decide +kernel

/-! ### Events: translation, errors, pre-emption and migration -/

/-- Tenant 1023 has a table of four 64 KiB pages at 0x40000, the third of them leaf l, and core 0 a miss at 0x20010. -/
def missS (l : Nat) (m : Miss) : State :=
  let s : State := { fibOf fun x => { x with st := .translating, missVa := 0x20010 } with
    cur := .env, ev := { core := 0, k := 0 }
    agent := { ({} : Agent) with roots := [(1023, 2 + 0x40000 * 2 ^ 64 + 4 * 2 ^ 160)] } }
  (s.storeAt (.pma 0x40020) (bytesOf l 16) none).updCore 0 fun k => { k with tlb := { k.tlb with misses := [m] } }
/-- The leaf of that page, at a state st of R338. -/
def leafSt (st : Nat) : Nat := 2 + 4 + 8 + st * 2 ^ 8 + 5 * 2 ^ 64
/-- R337, R131: the walk answers the miss, and the fill makes the Fibre READY with the page in the buffer. -/
theorem test_miss : gives (missS (leafSt 1) { va := 0x20010, kind := 0, epoch := 0 }) .translationMiss
    (fun t => gives t .translationFill fun u => (u.ctx 0 0).st == .ready && (u.core 0).translate 0x20018 .read == .hit (.pma 0x50018)) = true := by
  decide +kernel

theorem wit_BufferLookups : (fibG.core 0).tlb.find 0x20010 = some leaf2 ∧ (fibG.core 0).tlb.find 0x30000 = none := by decide +kernel
/-- A page that is there, one in migration, one that is not. -/
theorem wit_MissesAreWalked : let m : Miss := { va := 0x20010, kind := 0, epoch := 0 }
    ((missS (leafSt 1) m).core 0).tlb.misses[0]? = some m ∧ (missS (leafSt 1) m).walk 1023 0x20010 = some (leafSt 1 + 2 * 2 ^ 16, 0x40020) ∧
    (missS (leafSt 2) m).walk 1023 0x20010 = some (leafSt 2 + 2 * 2 ^ 16, 0x40020) ∧ (missS 0 m).walk 1023 0x20010 = none ∧
    descKind (leafSt 1) = 0 := by decide +kernel
/-- A fill and a refusal of the buffer's epoch, and an older one, for a Fibre in the granule. -/
theorem wit_FillsAndRefusals : let m (f : Option Nat) : Miss := { va := 0x20010, kind := 0, epoch := 0, walked := true, fill := some f }
    ((missS (leafSt 1) (m (some leaf2))).core 0).tlb.misses[0]? = some (m (some leaf2)) ∧ (missS (leafSt 1) (m none)).reqs = [] ∧
    ((missS 0 (m none)).ctx 0 0).st = .translating ∧ 0x20010 / 2 ^ 16 = ((missS 0 (m none)).ctx 0 0).missVa / 2 ^ 16 ∧
    (((missS 0 (m none)).updCore 0 fun k => { k with tlb := { k.tlb with epoch := 1 } }).core 0).tlb.epoch > 0 := by decide +kernel
/-- A shootdown that core 0 has not answered, one without an answer outstanding for a move, and one for the host. -/
theorem wit_Shootdowns : let q : Shoot := { leaf := { desc := 0x40020, tenant := 1023, va := 0x20000 }, size := 65536, epoch := 1, await := [0], move := true }
    let s : State := { fibG with cur := .env, agent := { ({} : Agent) with shoots := [q] } }
    s.agent.shoots.find? (fun p => p.await.contains 0) = some q ∧ s.usesPage 0 q = false ∧
    ({ s with reqs := [rq (.read 4 3 0 []) false] } : State).usesPage 0 q = true ∧
    [{ q with await := [numCores] }].find? (fun p => p.await.contains (numCores + 0)) = some { q with await := [numCores] } ∧
    [{ q with await := [], move := false }].find? (fun p => p.await.isEmpty) = some { q with await := [], move := false } := by decide +kernel
/-- A move from 0x50000 to 0x80000 whose shootdown is complete. -/
theorem wit_PageCopies : let m : PageMove := { leaf := { desc := 0x40020, tenant := 1023, va := 0x20000 }, src := 0x50000, dst := 0x80000, size := 65536, retiring := true, shot := true, byHost := false }
    let s := missS (leafSt 3) { va := 0, kind := 0, epoch := 0 }
    [m].find? (fun m => m.shot) = some m ∧ s.mem.wf = true ∧ m.src + m.size ≤ m.dst ∧ m.leaf.desc + 16 ≤ m.dst ∧
    s.poisonedAt (.pma m.leaf.desc) 16 = false := by decide +kernel
/-- A frame with 16 corrected errors and 65 poisoned granules, MAPPED, with a frame in the pool. -/
theorem wit_FramesRetire : let f : Frame := { corrected := 16, poisoned := List.range 65, leaf := some { desc := 0x40020, tenant := 1023, va := 0x20000 } }
    let s := missS (leafSt 1) { va := 0, kind := 0, epoch := 0 }
    let u : State := { s with agent := { s.agent with frames := [(0x50000, f)], pool := [(0x80000, 0)] }, ev := { k := 0x50008 } }
    u.frameAt 0x50008 = some (0x50000, f) ∧ u.mem.wf = true ∧ u.poisonedAt (.pma 0x40020) 16 = false ∧ descSt (u.mem.num 0x40020 16) = 1 ∧
    u.agent.pool.find? (fun p => p.2 == f.size) = some (0x80000, 0) := by decide +kernel
theorem wit_ErrorsStrike : pmaOk 0x50000 1 = true ∧ 3 < (fib.ctx 0 0).nreg ∧ (fib.core 0).spad.wf = true ∧
    (∃ b ∈ (fib.core 0).blocks, b.addr = 0x1000 ∧ b.data ≠ none) ∧ setSorted (fib.core 0).tw.bank0.poison = true :=
  ⟨by decide, by decide +kernel, by decide +kernel, ⟨_, List.mem_cons_self .., by decide +kernel, by decide +kernel⟩, by decide +kernel⟩
theorem wit_FaultsAndMargins : (fib.core 0).residents = [] ∧ (∀ d ∈ clusterCores (coreCluster 0), (fib.core d).residents = []) ∧ ([2, 9, 9, 9, 9, 9, 9, 9] : List Nat).foldl min 63 = 2 ∧
    (List.replicate 8 25).foldl min 63 = 25 ∧ (List.replicate 8 8).foldl min 63 = 8 := by decide +kernel

/-- Core 0 runs a normal kernel that may be pre-empted, and an urgent one waits for the core. -/
def preS : State :=
  let run : Kernel := { kid := 1, st := .running, record := List.replicate 35 0 ++ [4] ++ List.replicate 220 0, cores := [0] }
  { fib.updCore 0 fun k => { k with idN := { k.idN with kernel := some 1 } } with cur := .env, agent := { ({} : Agent) with kernels := [run] } }
/-- The level that halts, the save of it, and a context that is HALTED. -/
def haltS (l : LevelSt) : State :=
  (fibOf fun x => { x with st := .halted, inc := 5#8 }).updCore 0 fun k => { k with level := l, saveArea := some 0x100000 }
theorem wit_ImagesAreSaved : ((haltS .saving).core 0).saveArea = some 0x100000 ∧ ((haltS .saving).core 0).level = .saving ∧
    (haltS .saving).saveWaits 0 = false ∧ ((haltS .saving).core 0).inbox.late = [] ∧ (haltS .saving).mem.wf = true ∧
    ((haltS .saving).ctx 0 0).lvl = false ∧ ((haltS .halting).core 0).tw.openB = false := by decide +kernel
/-- The 48 bytes of a header that checks, with one record, of context 3; the same with a wrong CRC does not check. -/
def imgS (crc : Nat) : State :=
  let s : State := { fib.updCore 0 fun k => { k with level := .restoring, saveArea := some 0x100000, saved := [{ idx := 3, name := 0, rank := 0, joined := false, handle := none, faultSeq := none }] } with cur := .env }
  ((s.poke 0x100000 (bytesOf 0x4A5A5356 4 ++ bytesOf 1 2 ++ bytesOf 1 2)).poke 0x100010 (bytesOf 48 8)).poke 0x10002C (bytesOf crc 4)
    |>.poke (0x100000 + imgTwister) [3, 0, 1]
theorem wit_ImagesAreRestored :
    let head := bytesOf 0x4A5A5356 4 ++ bytesOf 1 2 ++ bytesOf 1 2 ++ List.replicate 8 0#8 ++ bytesOf 48 8 ++ List.replicate 24 0#8
    let s := imgS (crc32c head)
    s.imageOk 0 0x100000 = true ∧ (imgS 1).imageOk 0 0x100000 = false ∧ s.cancelsOut 0 = false ∧ (s.core 0).inbox.late = [] ∧
    s.recordOf 0x100000 3 = some (0x100000 + imgTwister) ∧ s.mem.num (0x100000 + 40) 4 = 0 ∧ (s.core 0).spad.wf = true ∧
    (s.core 0).saved.map (·.idx) = [3] := by decide +kernel
/-- A Skein of one HALTED member at core 0, to go to core 1. -/
def migS : State :=
  let s := (fibOf fun x => { x with st := .halted, skein := 0x100, joined := true }).updCore 0 fun k => { k with residents := [{ name := 0x100, lvl := false, handle := none }] }
  { s with cur := .env, agent := { ({} : Agent) with migrations := [{ name := 0x100, src := 0, dst := 1, level := false }] } }
theorem wit_SkeinsMigrate : migS.agent.migrations[migS.ev.k]? = some { name := 0x100, src := 0, dst := 1, level := false } ∧
    (migS.core 0).members 0x100 = [0] ∧ migS.outstanding 0 0 = false ∧ (migS.core 1).canCreate false [64] = true ∧
    ([({ name := 0x100, src := 0, dst := 1, level := false, installed := true } : Migration)].find? fun g => g.name == 0x100 && g.installed).isSome = true := by
  decide +kernel
/-- R218: the member moves to context 0 of core 1. -/
theorem test_migration : gives migS .skeinMigrationInstalled (fun t => (t.ctx 0 0).st == .free && (t.ctx 1 0).skein == 0x100) = true := by decide +kernel

/-! ### Events: messages, names and side links -/

/-- Core 0 lies in an ACTIVE fence of its tenant, with an entry e of channel ch, an inbox and a request table. -/
def msgS (ch e : Nat) (b : Inbox) (l : List Entry) : State :=
  { (fib.updCore 0 fun k => { (k.setEntry ch e) with inbox := b, table := l }) with
    cur := .env, agent := { ({} : Agent) with fences := (Vector.replicate 32 ({} : Fence)).set 0 { st := .active, tenant := 1023, wm := 1 } } }
/-- An enabled entry that dispatches Fibres with 32 registers at block 0x1000, one of hart N, and one of the Carder. -/
def entFib : Nat := 0x1000 + 2 ^ 68 + 2 ^ 70
def entHart : Nat := 2 * 2 ^ 63 + 2 ^ 70
def entCd : Nat := 4 * 2 ^ 63 + 2 ^ 70
/-- A request to a channel of core 0 with one register of payload, and an answer. -/
def reqM (ch : Nat) : Msg := { chan := ch, tenant := 1023, plen := 1, payload := 5#8 :: List.replicate 15 0#8, seq := 9 }
def ansM (ch : Nat) (fl : Nat) : Msg := { chan := ch, tenant := 1023, answer := true, plen := 1, flags := fl, payload := 5#8 :: List.replicate 15 0#8, seq := 9 }

/-- R179, R189, R190: a request is queued, and the Fibre it dispatches finds its payload in v0. -/
theorem test_dispatch : gives (msgS 20 entFib { arrived := [reqM 20] } []) .messageArrival
    (fun t => gives t .dispatch fun u => (u.ctx 0 1).v 0 == 5 && (u.ctx 0 1).nreg == 32 && (u.ctx 0 1).pcBlk == 0x1000) = true := by decide +kernel

/-- A request that is taken, one of another tenant, one to a channel that goes nowhere, one too long, and a full ring. -/
theorem wit_RequestsArrive : let s := msgS 20 entFib { arrived := [reqM 20] } []
    Claim.waitsAt s 0 0 (reqM 20) ∧ s.coreFenced 0 = false ∧ (reqM 20).tenant = (s.core 0).tenant ∧
    chanBad (reqM 20) ((s.core 0).entry 20) = false ∧ s.sizeOk 0 (reqM 20) ((s.core 0).entry 20) = true ∧
    chanBad (reqM 21) ((s.core 0).entry 21) = true ∧ s.sizeOk 0 { reqM 20 with plen := 5 } ((s.core 0).entry 20) = false := by
  refine ⟨⟨?_, ?_, ?_, ?_, ?_⟩, ?_⟩ <;> decide +kernel
theorem wit_AnswersArrive : let e : Entry := { x := 0, id := 3, seq := 9, lvl := false, slot := true, ans := .channel 20 }
    let s := msgS 20 (entFib + 2 ^ 67) { arrived := [ansM 20 0] } [e]
    Claim.waitsAt s 0 0 (ansM 20 0) ∧ (ansM 20 0).isNotice = false ∧ s.answerBad 0 (ansM 20 0) = false ∧
    (s.core 0).table.find? (fun e => e.seq == 9 && !e.got && e.ans == .channel 20) = some e ∧ ({ ansM 0 0 with plen := 0 } : Msg).isNotice = true ∧
    (s.core 0).isFaultAnswer (ansM 20 0) = false := by
  refine ⟨⟨?_, ?_, ?_, ?_, ?_⟩, ?_⟩ <;> decide +kernel
theorem wit_DispatchCreatesFibres : let s := msgS 20 entFib { nReq := [reqM 20] } []
    (s.core 0).nextHead = some (.nReq, reqM 20) ∧ (s.core 0).isFaultAnswer (reqM 20) = false ∧ entTarget ((s.core 0).entry 20) = 0 ∧
    (s.core 0).freeIdx = some 1 ∧ (reqM 20).flag flagPoison = false := by decide +kernel
/-- Hart N STARTABLE, interruptible, and in a jd.recv. -/
theorem wit_DispatchToHarts : let s (f : Hart → Hart) := (msgS 20 entHart { nReq := [reqM 20] } []).updHart 0 false f
    let startable := s fun h => { h with st := .startable }
    let recv := s fun h => { h with st := .waiting, wait := .recv, pc := 0x1000 }
    let running := s fun h => { h with st := .running, jdieE := true, pc := 0x1000 }
    (startable.core 0).nextHead = some (.nReq, reqM 20) ∧ (recv.core 0).nextHead = some (.nReq, reqM 20) ∧ (recv.core 0).interruptible false = false ∧
    (running.core 0).nextHead = some (.nReq, reqM 20) ∧ (running.core 0).interruptible false = true ∧ entTarget ((s id).core 0 |>.entry 20) = 2 := by
  decide +kernel
/-- The answer to fault 9 of context 0, whose incarnation is 0, that retries; and one of hart N. -/
theorem wit_FaultRepliesSettle : let m (ch : Nat) (p : List Byte) : Msg := { ansM ch 0 with payload := p ++ List.replicate (32 - p.length) 0#8, plen := 2 }
    let s := (msgS 1 (2 * 2 ^ 63) { arrived := [m 1 [1]] } []).updCtx 0 0 fun x => { x with st := .faulted, faultSeq := some 9 }
    Claim.waitsAt s 0 0 (m 1 [1]) ∧ (s.core 0).isFaultAnswer (m 1 [1]) = true ∧ Claim.word (m 1 [1]) 0 8 = 1 ∧ Claim.word (m 1 [1]) 16 1 = 0 ∧
    (s.ctx 0 0).st = .faulted ∧ (s.ctx 0 0).inc.toNat = Claim.word (m 1 [1]) 17 1 ∧ (s.ctx 0 0).faultSeq = some (m 1 [1]).seq ∧
    (s.core 0).isFaultAnswer (m 2 [2]) = true := by
  refine ⟨⟨?_, ?_, ?_, ?_, ?_⟩, ?_⟩ <;> decide +kernel
theorem wit_SendrAnswersLand : let e : Entry := { x := 4, id := 3, seq := 9, lvl := false, slot := false, ans := .regs 0 0 10 20 }
    let s := msgS 20 0 { arrived := [ansM 0x204 0] } [e]
    Claim.waitsAt s 0 0 (ansM 0x204 0) ∧ (s.core 0).table.find? (fun e => e.x == (ansM 0x204 0).chan - 0x200 && e.seq == 9) = some e ∧
    s.alive 0 0 0 = true ∧ (s.ctx 0 0).signed = none ∧ s.coreFenced 0 = false := by
  refine ⟨⟨?_, ?_, ?_, ?_, ?_⟩, ?_⟩ <;> decide +kernel
/-- A deposit of v3 of rank 0 of the Skein 0x100 in core 0: HELD, not HELD, of a rank that is not there, forwarded. -/
def depM (w : Nat) : Msg := { chan := 0, dest := 0x100, tenant := 1023, plen := 2, flags := 8, payload := bytesOf w 16 ++ bytesOf 77 16 }
def depS (w : Nat) (p : Pres) : State :=
  ((msgS 20 0 { deposits := [depM w] } []).updCtx 0 0 fun x => { x.setPres 3 p with skein := 0x100, joined := true }).updCore 0 fun k =>
    { k with residents := [{ name := 0x100, lvl := false, handle := none }] }
/-- R227: it writes v3, which is PRESENT then. -/
theorem test_deposit : gives (depS (3 * 2 ^ 8) .held) .depositArrival (fun t =>
    reg (t.landDeposits 0) 3 == 77 && (((t.landDeposits 0).ctx 0 0).r.cell 3).pres == .present) = true := by decide +kernel
theorem wit_DepositsArrive : let s := depS (3 * 2 ^ 8) .held
    (s.core 0).level = .live ∧ (s.core 0).inbox.deposits[0]? = some (depM (3 * 2 ^ 8)) ∧ (depM (3 * 2 ^ 8)).depositBad = none ∧ s.coreFenced 0 = false ∧
    (s.core 0).forwarding.find? (fun f => f.1 == 0x100) = none ∧ ((s.core 0).residents.find? fun r => r.name == 0x100).isSome = true ∧
    ((s.core 0).members 0x100).find? (fun i => (s.ctx 0 i).rank == 0) = some 0 ∧ ((s.ctx 0 0).r.cell 3).pres = .held ∧
    (depM (2 ^ 5)).depositBad ≠ none ∧ (s.core 0).inbox.landing = [] ∧ (∀ g ∈ s.agent.migrations, g.name ≠ 0x100) ∧
    (s.updCore 0 fun k => { k with forwarding := [(0x100, 1, 1)] }).coreFenced 0 = false ∧
    ((s.updCore 0 fun k => { k with forwarding := [(0x100, 1, 1)] }).core 0).forwarding.find? (fun f => f.1 == 0x100) = some (0x100, 1, 1) := by
  decide +kernel
/-- The same deposit taken: v3 HELD, HELD since this cycle, PRESENT, and no member of the rank. -/
def landS (p : Pres) : State := (depS 0 p).updCore 0 fun k => { k with inbox := { k.inbox with deposits := [], landing := [(depM (3 * 2 ^ 8), false)] } }
theorem wit_DepositsLand : let s := landS .held
    (s.core 0).level = .live ∧ (s.core 0).inbox.landing = [(depM (3 * 2 ^ 8), false)] ∧ (s.ctx 0 0).signed = none ∧ (s.ctx 0 0).heldAt = none ∧
    ((s.core 0).members 0x100).find? (fun i => (s.ctx 0 i).rank == Claim.word (depM (3 * 2 ^ 8)) 0 16 % 32) = some 0 ∧
    ((s.ctx 0 0).r.cell 3).pres = .held ∧ (((landS .present).ctx 0 0).r.cell 3).pres ≠ .held ∧ 4 ≤ (s.ctx 0 0).nreg ∧
    ((s.updCtx 0 0 fun x => { x with heldAt := some (0, [3]) }).ctx 0 0).heldAt = some ((s.core 0).counter, [3]) ∧
    ((s.updCtx 0 0 fun x => { x with rank := 4 }).core 0).members 0x100 = [0] := by decide +kernel
/-- The name 0x100: index 1, generation 0, of package 0. -/
theorem wit_NameServersForward : let e (st : NameSt) : NameEntry := { st := st, core := 3, tenant := 1023 }
    let s (st : NameSt) : State := { fib with cur := .env, agent := { ({} : Agent) with nsDeposits := [depM 0], names := [(1, e st)] } }
    (s .live).agent.nsDeposits[(s .live).ev.k]? = some (depM 0) ∧ (s .live).nameEntry 0x100 = some (e .live) ∧
    (s .exited).nameEntry 0x100 = some (e .exited) ∧ (s .free).nameEntry 0x100 = none ∧ (depM 0).rcore / 4096 = (s .live).pkg := by decide +kernel
theorem wit_NamesAreGiven : let q : NameReq := { core := 0, ctx := none, handle := some 0 }
    let r : NameRange := { tenant := 1023, first := 16, count := 2, free := [16, 17] }
    let s : State := { fib with cur := .env, agent := { ({} : Agent) with nameReqs := [q], ranges := [r], cacheUpdates := [(0, 0x100, 3, true)] } }
    s.agent.cacheUpdates[s.ev.k]? = some (0, 0x100, 3, true) ∧ s.agent.nameReqs[s.ev.k]? = some q ∧ s.agent.ranges = [] ++ r :: [] ∧
    r.tenant = (s.core 0).tenant ∧ r.free = 16 :: [17] := by decide +kernel
/-- An answer for a Fibre's join, and one for hart N's jd.name. -/
theorem wit_NamesArrive : let q : NameReq := { core := 0, ctx := some 0, handle := none, answer := some (some 0x1001) }
    let e : Entry := { x := 0, id := 3, seq := 9, lvl := false, slot := false, ans := .join 0 0 10 }
    let s : State := { msgS 20 0 {} [e] with agent := { ({} : Agent) with nameReqs := [q], names := [(0x10, { st := .live, gen := 1 })] } }
    let g : State := (hartK .none []).updHart 0 false fun h => { h with naming := true, pendRd := 10 }
    s.agent.nameReqs[s.ev.k]? = some q ∧
    ((s.core 0).table.find? fun e => match e.ans with | .join j n _ => j == 0 && n == 0 | _ => false) = some e ∧ s.alive 0 0 0 = true ∧
    s.nameEntry 0x1001 = some { st := .live, gen := 1 } ∧ (s.core 0).residents = [] ∧
    (s.ctx 0 0).signed = none ∧ (s.ctx 0 0).joined = false ∧ ((g.core 0).handleOf false 0).isSome = true ∧ (g.hart 0 false).naming = true ∧
    (g.hart 0 false).jdieA = false ∧ (s.core 0).level = .live := by decide +kernel
/-- A put to a box of depth 1 with key 7: with key 9, and with key 3; and to a box with room. -/
theorem wit_PutsAreRanked : let e (k : Nat) : SkEntry := { key := k, tb := 0, value := 0, rcore := 0, rchan := 0, lvl := false }
    let s := fibB.updCore 0 fun k => { k with puts := [(reqM 20, 3)] }
    (s.core 0).puts = (reqM 20, 3) :: [] ∧ (s.core 0).notices < 64 ∧ s.entriesFree 0 1 = true ∧ ((s.core 0).box 3).entries = [] ++ [e 7] ∧
    ((s.core 0).box 3).depth ≤ ((s.core 0).box 3).entries.length ∧ (e 9).above (e 7) = true ∧ (e 3).above (e 7) = false := by decide +kernel
/-- A deposit for the east with a rotated operand that waits for the link too, inside its fence and where it ends. -/
theorem wit_SideLinksCarry : let r : Rotated := { src := 0, dst := 1, isB := false, buf := {}, dir := .east, crossed := [0] }
    let s : State := { (msgS 20 0 {} []).updCore 0 (fun k => { k with side := { k.side with outbound := [(.east, depM 0)] } }) with rotated := [r] }
    neighbour 0 .east = 1 ∧ (s.core 0).side.outbound[0]? = some (.east, depM 0) ∧ 0 < (s.core 0).side.credit .east ∧
    (s.core 0).side.credit .east < 2 ^ 8 ∧ s.coreFenced 0 = false ∧ (s.core 0).side.turnedAt .east = false ∧ r.hopAt 0 .east = some 0 ∧
    ((s.updCore 0 fun k => { k with drained := true }).coreFenced 0 = true) ∧
    (({ st := .active, tenant := 1023 } : Fence).holds 0 = true ∧ ({ st := .active, tenant := 1023 } : Fence).holds 1 = false) := by decide +kernel

/-! ### Events: the Twister and the Carder -/

/-- The Twister of core 0 with a running command. -/
def twS (f7 r1 r2 : Nat) : State :=
  { (hartT .none []).updCore 0 fun k => { k with tw := { k.tw with cmd := some { f7 := f7, rs1 := r1, rs2 := r2, seq := 0, chan := 0 } } } with cur := .env }
/-- A product of 16 by 16 by 16 in INT8 from offsets 0 and 2048 to the front bank. -/
theorem wit_MatrixProducts : let s := twS 0 (2048 * 2 ^ 21) (6 * 2 ^ 14)
    let h := twShape 0 (6 * 2 ^ 14)
    (s.core 0).tw.cmd = some { f7 := 0, rs1 := 2048 * 2 ^ 21, rs2 := 6 * 2 ^ 14, seq := 0, chan := 0 } ∧ (s.core 0).level = .live ∧ s.anyPending 0 [] = false ∧
    srcKind (twSource (2048 * 2 ^ 21) false) = 0 ∧ srcKind (twSource (2048 * 2 ^ 21) true) = 0 ∧ (s.core 0).tw.a.o ≠ .filling ∧
    (s.core 0).spad.poison = [] ∧ tabSorted ((s.core 0).tw.bank h.back).acc = true ∧ h.ty = 6 ∧ h.cnt = 0 ∧ 16 * h.rblk + h.m ≤ 128 ∧
    16 * h.cblk + h.n ≤ 128 ∧ h.k = 16 := by decide +kernel
/-- An FP32 epilogue of a zero region, and one whose first block fails its checksum. -/
theorem wit_Epilogues : let s := twS 4 (4 * 2 ^ 48) 0
    let e := epiOf (4 * 2 ^ 48) 0
    (s.core 0).tw.cmd = some { f7 := 4, rs1 := 4 * 2 ^ 48, rs2 := 0, seq := 0, chan := 0 } ∧ e.par = false ∧ e.n * e.osize ≤ e.pitch ∧
    (s.core 0).spad.wf = true ∧ ((s.core 0).tw.bank e.back).poison = [] ∧ ((s.core 0).tw.bank e.back).blockOk 0 0 = true ∧
    ({ cs := [(0, 0x3F800000#32)] } : Bank).blockOk 0 0 = false := by decide +kernel
/-- A rotation whose neighbours' latches are FREE, an operand of two beats whose first has crossed its link, one whose second has, and one
of which none has. -/
theorem wit_LatchesRotate :
    let r (crossed taken : Nat) : Rotated :=
      { src := 1, dst := 0, isB := false, buf := { elems := List.replicate 128 0 }, dir := .west, crossed := [crossed], taken := taken }
    let d := 2 ^ 25 + 1 * 2 ^ 12
    let s := (twS 1 0 0).updCore 0 fun k => { k with tw := { k.tw with dom := d } }
    let u := s.updCore 1 fun k => { k with tw := { k.tw with dom := d } }
    (u.core 0).tw.cmd.isSome = true ∧ (u.core 0).tw.dom ≠ 0 ∧ twSends 1 false = true ∧ twDown d 0 false = 1 ∧ ((u.core 1).tw.latch false).o = .free ∧
    (u.core 1).tw.dom = (u.core 0).tw.dom ∧ u.rotated = [] ∧ [r 1 0].find? (fun r => r.dst == 0 && r.isB == false) = some (r 1 0) ∧
    (r 1 0).beats = 2 ∧ (r 1 0).taken < (r 1 0).reached 1 ∧ (r 0 0).reached 1 ≤ (r 0 0).taken ∧ (r 2 1).beats ≤ (r 2 1).taken + 1 ∧
    (r 2 1).taken < (r 2 1).reached 1 := by decide +kernel
/-- One word of sixteen `.z8` elements: a copy within the scratchpad, a put to HBM, and the last element of a fill. -/
def cdS (op off base pos : Nat) : State :=
  let x : CdCmd := { id := 5, op := op, record := cdRec - (spadBase + 256) + base + (if op = 3 then 2 ^ 67 + 7 * 2 ^ 708 else 0), word := off, lvl := false, pos := pos }
  { fibG.updCore 0 fun k => { k with carderN := [x] } with cur := .env }
/-- R318: the word that a command moves next. -/
def cdMoves (s : State) (p : State → Bool) : Bool :=
  match s.cdPick 0 with
  | some x => (let r := s.cdRun 0 x 1; p r.1 && r.2.pos == 16)
  | none => false
theorem test_carder : cdMoves ((cdS 0 0 (spadBase + 256) 0).storeAt (.spad 0 256) [1, 2, 3] none) (fun t => t.readAt (.spad 0 0) 4 == [1, 2, 3, 0]) = true ∧
    cdMoves ((cdS 2 0 0x20040 0).storeAt (.spad 0 0) [1, 2, 3] none) (fun t => t.readAt (.pma 0x50040) 4 == [1, 2, 3, 0]) = true := by decide +kernel
theorem wit_CarderMoves : let s := cdS 2 0 0x20040 0
    ((s.cdPick 0).any fun x => x.pos + 16 == x.stream && x.ended.isNone && x.deals == 0 && !x.byMsg && !x.flg && !x.cnv && !x.tagp && x.place 0 == 0) = true ∧
    ((s.cdPick 0).bind fun x => x.elemAddr 0 3) = some 0x20043 ∧
    ((s.cdPick 0).any fun x => match s.cdLoc 0 x 0x20043 1 .cwrite with | .ok l => l == .pma 0x50043 | _ => false) = true ∧
    (((cdS 3 0 0x20040 15).cdPick 0).any fun x => x.pos + x.esz == x.stream && x.fillv == 7 && x.elemAddr 0 15 == some 0x2004F) = true ∧
    (((cdS 0 0 (spadBase + 256) 0).cdPick 0).bind fun x => x.elemAddr 0 0) = some (spadBase + 256) ∧ s.mem.wf = true := by decide +kernel
/-- A message to the Carder's channel whose record breaks no rule, and one with a reserved bit of it set; its hank 0
holds four payloads of 256 bytes. -/
def cdM (rec : Nat) : Msg := { chan := 20, tenant := 1023, plen := 9, rchan := 7, seq := 3, payload := bytesOf rec 128 ++ List.replicate 16 0#8 }
def cdMS (rec : Nat) : State :=
  (msgS 20 (entCd + 2 ^ 73 + capS * 2 ^ 128 + 2 ^ 79) { nReq := [cdM rec] } []).updCore 0 fun k => k.setHank 0 (4 * 2 ^ 16 + 10 * 2 ^ 83 + 4 * 2 ^ 88 + 2 ^ 91)
theorem wit_CarderMessages :
    ((cdMS cdRec).core 0).nextHead = some (.nReq, cdM cdRec) ∧ entTarget (((cdMS cdRec).core 0).entry 20) = 4 ∧ ((cdMS cdRec).core 0).isFaultAnswer (cdM cdRec) = false ∧
    Claim.word (cdM cdRec) 128 1 = 0 ∧ Claim.word (cdM cdRec) 129 15 = 0 ∧
    (cdOfRecord 0 (Claim.word (cdM cdRec) 0 128) false).layoutBad ((cdMS cdRec).core 0) 0 true 0 = none ∧
    (cdOfRecord 0 (Claim.word (cdM cdRec) 0 128) false).capBad ((cdMS cdRec).core 0) 0 (entRoot (((cdMS cdRec).core 0).entry 20)) (entRT (((cdMS cdRec).core 0).entry 20)) = none ∧
    (cdOfRecord 0 (Claim.word (cdM (cdRec + 2 ^ 71)) 0 128) false).layoutBad ((cdMS cdRec).core 0) 0 true 0 = some 71 := by decide +kernel
/-- A deal block of one word from core 1 for core 0, which its fence admits; and with core 0 drained. -/
theorem wit_DealBlocksLand : let d : Deal := { src := 1, lvl := false, cmd := 5, dst := 0, off := 64, words := [{ bytes := List.replicate 16 (some 9#8) }] }
    let x : CdCmd := { id := 5, op := 1, record := cdRec, word := 0, lvl := false, deals := 1 }
    let s : State := { (msgS 20 0 {} []).updCore 1 fun k => { k with carderN := [x] } with deals := [d] }
    s.deals[s.ev.k]? = some d ∧ (s.core 0).level = .live ∧ (s.core 0).spad.wf = true ∧ (s.core 1).cdQueue false = [x] ∧ s.dealFenced d = false ∧
    (s.updCore 0 fun k => { k with drained := true }).dealFenced d = true := by decide +kernel

/-! ### Events: host commands and kernels -/

/-- n bytes with numbers of eight bytes or fewer at offsets. -/
def layout (n : Nat) (l : List (Nat × Nat × Nat)) : List Byte :=
  l.foldl (fun d f => d.take f.1 ++ bytesOf f.2.1 f.2.2 ++ d.drop (f.1 + f.2.2)) (List.replicate n 0#8)
/-- The machine with a command in slot 0. -/
def cmdS (op : Nat) (p : List Byte) : State :=
  { State.reset with agent := { ({} : Agent) with cmdSlots := (Vector.replicate 32 (List.replicate 64 0#8)).set 0 (bytesOf (op + 48 * 2 ^ 16 + 2 ^ 64) 16 ++ p) } }
/-- `Claim.offered` and `Claim.wellFormed` as a Bool. -/
def cmdB (ins : Instr) (p : List Byte) : Bool :=
  match Claim.hostRow ins with
  | some (op, sel, named) =>
    let h := op + 48 * 2 ^ 16 + 2 ^ 64
    let d := (cmdS op p).agent.cmdSlots.toList.getD 0 []
    d.length == 64 && h == ofBytes (d.take 16) && p == d.drop 16 && h.testBit 64 && h / 2 ^ 16 % 256 == 48 && h % 256 == op &&
      (sel.all fun x => cmdNum p x.1 1 == x.2) && !cmdBad h p && !cmdSpare named p
  | none => false
theorem cmd_of {ins : Instr} {p : List Byte} {op : Nat} (ho : (Claim.hostRow ins).map (·.1) = some op) (h : cmdB ins p = true) :
    Claim.offered (cmdS op p) ins 0 (op + 48 * 2 ^ 16 + 2 ^ 64) p ∧ Claim.wellFormed ins (op + 48 * 2 ^ 16 + 2 ^ 64) p := by
  unfold cmdB at h
  obtain ⟨⟨o, sel, named⟩, hr, rfl⟩ := Option.map_eq_some_iff.mp ho
  simp only [hr, Bool.and_eq_true, beq_iff_eq, Bool.not_eq_true', Option.all_eq_true] at h
  obtain ⟨⟨⟨⟨⟨⟨⟨⟨h1, h2⟩, h3⟩, h8⟩, h9⟩, h4⟩, h5⟩, h6⟩, h7⟩ := h
  exact ⟨⟨by decide, rfl, rfl, h1, h2, h3, h8,
    show (ofBytes (((Vector.replicate 32 (List.replicate 64 0#8)).toList.getD 0 []).take 16)).testBit 64 = false from by decide +kernel, by omega, o, sel, named, hr, h4, fun x v hx => h5 (x, v) hx⟩, h6,
    fun _ _ _ hx => by rw [hr] at hx; cases hx; exact h7⟩
/-- Forty-eight bytes with some of them set. -/
def pay (l : List (Nat × Nat × Nat)) : List Byte := layout 48 l
/-- A payload of each row of a host command is offered and well formed. -/
theorem wit_offered : (cmdB .launch (pay []) && cmdB .mapSetRoot (pay [(16, 2, 1)]) && cmdB .mapInstallLeaf (pay [(2, 1, 1), (16, 14, 1)]) &&
    cmdB .mapRemoveLeaf (pay [(2, 2, 1)]) && cmdB .mapSetFirmwareRegion (pay [(2, 3, 1), (16, 64, 8)]) && cmdB .mapAddRetirementFrame (pay [(2, 4, 1)]) &&
    cmdB .migrate (pay [(8, 0x20000, 8), (16, 0x80000, 8)]) && cmdB .fenceRectCreate (pay [(2, 5, 2)]) && cmdB .fenceRectSeal (pay [(0, 1, 1)]) &&
    cmdB .fenceRectUnseal (pay [(0, 2, 1)]) && cmdB .fenceRectRemove (pay [(0, 3, 1)]) && cmdB .resetRect (pay [(1, 31, 1)]) &&
    cmdB .keyLoadMemory (pay [(2, 1, 1)]) && cmdB .keyLoadLink (pay [(0, 1, 1)]) && cmdB .attest (pay [(32, 64, 8)]) && cmdB .spareSwap (pay []) &&
    cmdB .telemetryErrorCounts (pay [(16, 192, 4)]) && cmdB .telemetryHotness (pay [(0, 1, 1)]) && cmdB .telemetryClusterRows (pay [(0, 2, 1)]) &&
    cmdB .telemetryRails (pay [(0, 3, 1)]) && cmdB .nameRange (pay [(2, 1, 2), (4, 1, 2)]) && cmdB .podConfigSetPackage (pay [(1, 3, 1)]) &&
    cmdB .podConfigRoutingEntry (pay [(0, 1, 1), (8, 3, 8)]) && cmdB .podConfigActivate (pay [(0, 2, 1)]) &&
    cmdB .podConfigMarkPackage (pay [(0, 3, 1), (1, 4, 1), (2, 2, 1)]) && cmdB .podConfigPort (pay [(0, 4, 1), (2, 1, 1)])) = true := by decide +kernel
theorem wit_LaunchReadsRecords : Claim.offered (cmdS 1 (pay [])) .launch 0 (1 + 48 * 2 ^ 16 + 2 ^ 64) (pay []) ∧
    Claim.wellFormed .launch (1 + 48 * 2 ^ 16 + 2 ^ 64) (pay []) ∧ cmdNum (pay []) 0 8 % 64 = 0 ∧ cmdNum (pay [(0, 8, 8)]) 0 8 % 64 ≠ 0 :=
  ⟨(cmd_of rfl (by decide +kernel)).1, (cmd_of rfl (by decide +kernel)).2, by decide +kernel⟩
theorem wit_MalformedCommands : Claim.offered (cmdS 1 (pay [(47, 1, 1)])) .launch 0 (1 + 48 * 2 ^ 16 + 2 ^ 64) (pay [(47, 1, 1)]) ∧
    ¬ Claim.wellFormed .launch (1 + 48 * 2 ^ 16 + 2 ^ 64) (pay [(47, 1, 1)]) :=
  ⟨⟨by decide, rfl, rfl, by decide +kernel, by decide +kernel, by decide +kernel, by decide, by rfl, by decide, 1, none, [(0, 8)], rfl, by decide, nofun⟩,
    fun h => absurd (h.2 1 none [(0, 8)] rfl) (by decide +kernel)⟩

/-- A kernel of one core with a record and an image that break no rule; g are its image's flags. -/
def kern (st : KernelSt) (g : Nat) : Kernel :=
  { kid := 1, st := st
    record := layout 256 [(0, 0x20000, 8), (8, 192, 8), (16, 0x20000, 8), (24, 0x10000, 8), (32, 15, 1), (33, 1, 1), (38, 1022, 2), (195, 1, 1), (196, 1, 1)]
    image := layout 192 [(0, 0x4A5A4B49, 4), (4, 1, 2), (6, g, 1), (12, 4096, 4), (18, 1, 2), (72, 128, 8), (96, 0x20000, 8), (136, 0x1000, 8), (144, 65 + 4 * (g % 2), 1)] }
/-- The package with kernels and a fence of tenant 1022 around core 0. -/
def kernS (l : List Kernel) : State :=
  { State.reset with ev := { k := 1 }
                     agent := { ({} : Agent) with kernels := l, fences := (Vector.replicate 32 ({} : Fence)).set 0 { st := .active, tenant := 1022, wm := 1 } } }
theorem wit_KernelsAreChecked : let k := kern .checking 0
    (kernS [k]).kernel 1 = some k ∧ k.badRecord = false ∧ ({ k with record := layout 256 [] } : Kernel).badRecord = true ∧
    k.badImage = false ∧ ({ k with image := [] } : Kernel).badImage = true ∧ (kernS [k]).readShared k.tenant k.linkBase 192 1 = none ∧
    (kernS [kern .blocked 0]).kernel 1 = some (kern .blocked 0) ∧ (kern .blocked 0).prereqs = [] := by decide +kernel
theorem wit_KernelsArePlaced : let k := kern .placing 0
    let s := kernS [k]
    s.kernel 1 = some k ∧ s.mayPlace k = true ∧ s.badPlaces k = none ∧ s.cellsOf k = [0] ∧ s.takes k 0 = true ∧ s.allocCores k [] [0] ≠ none ∧
    ({ s with agent := { s.agent with fences := Vector.replicate 32 {} } } : State).badPlaces k = some (4, 0) ∧
    s.allocCores (kern .placing 2) [] [0] = none ∧
    (kernS [{ kern .loading 0 with places := [{ pkg := 9, x0 := 0, y0 := 0, w := 1, h := 1 }] }]).kernel 1 =
      some { kern .loading 0 with places := [{ pkg := 9, x0 := 0, y0 := 0, w := 1, h := 1 }] } ∧
    (let g := { k with kid := 9 * 2 ^ 24 + 1, guest := true }
     g.badRecord = false ∧ g.badImage = false ∧ g.kid / 2 ^ 24 ≠ (kernS []).pkg ∧ (kernS []).agent.kernels = []) := by decide +kernel
/-- A start message accepted, bounced, and due to be sent again. -/
theorem wit_KernelsStart : let p : Place := { pkg := 0, x0 := 0, y0 := 0, w := 1, h := 1, report := some 0 }
    let k := { kern .loading 0 with places := [p] }
    let r : Start := { core := 0, place := 0, seq := 5 }
    let m (fl rc : Nat) : Msg := { answer := true, seq := 5, flags := fl, rchan := rc, dest := 0xFFF }
    (kernS [k]).kernel 1 = some k ∧ (∀ q ∈ k.places, q.report = some 0) ∧ p.cells = [0] ∧ k.startLevel = false ∧
    ((kernS [{ kern .running 0 with starts := [r] }]).agent.kernels.find? fun k => k.starts.any fun t => t.seq == (m 0 0).seq && t.bounced.isNone) =
      some { kern .running 0 with starts := [r] } ∧
    (m 16 5).flag flagNack = true ∧ (m 0 0).flag flagNack = false := by decide +kernel
theorem wit_SweepsEndKernels : let r : SweepRes := { sent := 3, recv := 3, idle := true }
    let k := { kern .running 0 with part := some (0, r), prev := some r, places := [{ pkg := 0, x0 := 0, y0 := 0, w := 1, h := 1 }] }
    (kernS [k]).kernel 1 = some k ∧ 0 ≤ k.cores.length ∧ (∀ p ∈ k.places, p.pkg = (kernS [k]).pkg) := by decide +kernel
/-- Core 0 runs a normal kernel that may be pre-empted, and an urgent one that is exclusive waits for the core. -/
theorem wit_NormalLevelHalts : let new := { kern .placing 5 with kid := 2 }
    let s := (kernS [{ kern .running 2 with cores := [0] }, new]).updCore 0 fun k => { k with idN := { k.idN with kernel := some 1 } }
    s.wantsHalt 0 = some new ∧ s.reqs = [] := by decide +kernel
/-- R235, R238, R239: the kernel is placed on core 0, whose hart N is STARTABLE. -/
theorem test_placement : gives (kernS [kern .placing 0]) .placementReady
    (fun t => (t.hart 0 false).st == .startable && (t.core 0).footprint == 4096 && (t.kernel 1).any (·.st == .loading)) = true := by decide +kernel

/-! ### Events: what the firmware does, the Reel and the pod -/

/-- A leaf of HBM for tenant 0 at 0x40000, and the machine's answers to what commands ask of it. -/
def fwS : State :=
  { cmdS 2 (pay [(2, 1, 1), (8, 0x40000, 8), (16, 14, 1)]) with
    agent := { (cmdS 2 (pay [(2, 1, 1), (8, 0x40000, 8), (16, 14, 1)])).agent with roots := [(0, 0)], keys := [(1, { ld := true })] } }
theorem wit_RootsAndRegions : rootBad 2 = false ∧ rootBad 3 = true ∧ pmaOk 0 64 = true ∧ pmaOk (2 ^ 54) 64 = false ∧ cmdNum (pay [(16, 2, 1)]) 16 32 = 2 ∧
    State.reset.isRetired 0x80000 65536 = false ∧ State.reset.frameAt 0x80000 = none ∧
    ({ State.reset with agent := { ({} : Agent) with frames := [(0x80000, {})] } } : State).frameAt 0x80000 ≠ none := by decide +kernel
/-- A leaf that may be installed at 0x40000, and one that is there already; a tenant without a key. -/
theorem wit_LeavesAreInstalled : let d := setBits (cmdNum (pay [(16, 14, 1)]) 16 16) 8 3 1
    descType d = 2 ∧ descOk (rootLay 0 == 1) d = true ∧ tabGet fwS.agent.roots 0 = some 0 ∧ descSt (fwS.mem.num 0x40000 16) = 0 ∧
    fwS.mem.wf = true ∧ fwS.mem.poison = [] ∧ fwS.agent.keySlot 0 ≠ none ∧ leafTarget d + 65536 ≤ 0x40000 ∧
    (fwS.storeAt (.pma 64) [7#8] none).mem.read 64 64 ≠ List.replicate 64 0#8 ∧ (∃ k ∈ fwS.agent.keys, k.2.ld = true ∧ k.2.tenant = 0) ∧ State.reset.agent.keys = [] ∧
    descSt ((fwS.storeAt (.pma 0x40000) (bytesOf d 16) none).mem.num 0x40000 16) = 1 :=
  ⟨by decide +kernel, by decide +kernel, by decide +kernel, by decide +kernel, by decide +kernel, by decide +kernel, by decide +kernel, by decide +kernel,
    by decide +kernel, ⟨_, List.mem_cons_self .., by decide, by decide⟩,
    by decide +kernel⟩
/-- A MAPPED leaf that the walk of tenant 1023 finds, and a frame that is free. -/
theorem wit_LeavesAreRemovedAndMoved : let s := missS (leafSt 1) { va := 0, kind := 0, epoch := 0 }
    s.mem.wf = true ∧ s.mem.poison = [] ∧ descType (s.mem.num 0x40020 16) = 2 ∧ descSt (s.mem.num 0x40020 16) = 1 ∧
    s.freeFrame 0x80000 65536 = true ∧ s.freeFrame (2 ^ 54) 65536 = false ∧ (s.walk 1023 0x20000).isSome = true ∧ (s.walk 1023 0x70000).isSome = false := by
  decide +kernel
/-- An entry that is FREE, one that is ACTIVE, and a rectangle that meets it. -/
theorem wit_FencesAreCommanded : let f : Fence := { st := .resetting, tenant := 5, wm := 1 }
    (State.reset.fence 0).st = .free ∧ ((kernS []).fence 0).st = .active ∧ f.meets ((kernS []).fence 0) = true ∧ f.holds 1 = true ∧ f.holds 2 = false ∧
    (∀ j ∈ List.range 32, (State.reset.fence j).st = .free) := by decide +kernel
theorem wit_GroupResetsFinish : let f : Fence := { st := .resetting, tenant := 5, wm := 1 }
    let s : State := { kernS [] with ev := { k := 0 }, agent := { (kernS []).agent with fences := (kernS []).agent.fences.set 0 f, cmd := some { slot := 0, header := 0, payload := [], wait := 3, arg := 0 } } }
    (s.fence 0).st = .resetting ∧ s.reqs = [] := by decide +kernel
theorem wit_KeysAreLoaded : cmdNum (pay [(2, 1, 1)]) 1 1 ≤ 1 ∧ cmdNum (pay [(2, 1, 1)]) 2 1 ≠ 0 ∧ tabGet State.reset.agent.keys 1 = none ∧
    tabGet fwS.agent.keys 1 = some { ld := true } := by decide +kernel
/-- Cluster 0, drained, stands at place 0 of its cluster-row; a range that no tenant holds, and one that another does. -/
theorem wit_AttestationSparesAndNames : let s : State := { State.reset with agent := { ({} : Agent) with drained := [0], ranges := [{ tenant := 5, first := 1, count := 4, free := [] }] } }
    State.reset.host.wf = true ∧ rowOf 0 = 0 ∧ s.agent.physical 0 = 0 ∧ (s.agent.row 0).2 = false ∧ (s.agent.row 0).1 = 6 ∧
    cmdNum (pay [(2, 1, 2), (4, 1, 2)]) 2 2 = 1 ∧ (∃ r ∈ s.agent.ranges, r.tenant ≠ 0 ∧ r.first < 1 + 1 ∧ 1 < r.first + r.count) :=
  ⟨by decide, by decide, by decide +kernel, by decide +kernel, by decide +kernel, by decide +kernel, ⟨_, List.mem_cons_self .., by decide, by decide, by decide⟩⟩
theorem wit_TelemetryReports : State.reset.host.wf = true ∧ State.reset.host.poison = [] ∧ cmdNum (pay [(16, 192, 4)]) 16 4 = 192 ∧
    min numCores ((192 - 128) / 32) = 2 ∧ (1 + 48 * 2 ^ 16 + 2 ^ 64 : Nat).testBit 71 = false := by decide +kernel
theorem wit_PodIsConfigured : State.reset.pod.gen = false ∧ State.reset.pod.updating = false ∧ (State.reset.pod.port 4).st = .down ∧
    State.reset.pod.tx = [] ∧ State.reset.agent.kernels = [] := by decide +kernel
/-- A command of op 99 and one of MAP with action 9; a whole slot and a part of one; a line of HBM and one where there is none. -/
theorem wit_HostWindows : ((cmdS 99 (pay [])).agent.cmdSlots.toList.getD 0 []).length = 64 ∧ (99 + 48 * 2 ^ 16 + 2 ^ 64) % 256 = 99 ∧
    cmdNum (pay [(2, 9, 1)]) 2 1 = 9 ∧ cmdBad (2 + 48 * 2 ^ 16 + 2 ^ 64) (pay [(2, 9, 1)]) = false ∧
    pmaOk 0 8 = true ∧ pmaOk (31 * 2 ^ 55) 8 = false ∧ State.reset.frozen (.pma 0) = false ∧ State.reset.poisonedAt (.pma 0) 8 = false := by decide +kernel
theorem wit_Resets : kern .running 0 = kern .running 0 ∧ (kern .running 0).isOver = false ∧ (kernS [kern .running 0]).host.wf = true ∧
    (kernS [kern .running 0]).agent.kernels = [kern .running 0] ∧ (kernS [kern .running 0]).mem.wf = true ∧ (kernS [kern .running 0]).agent.slotAt 0 = 0 :=
  ⟨rfl, by decide +kernel, by decide, rfl, by decide +kernel, by decide +kernel⟩
theorem wit_FlitsTravel : let f : Flit := { x := 1, y := 2, dx := 3, dy := 2, port := 0, msg := {} }
    ({ State.reset with reel0 := [f] } : State).inj0 = [] ∧ (f.x ≠ f.dx ∨ f.y ≠ f.dy) ∧ State.reset.canTake { f with x := 3 } = true := by decide +kernel
/-- Two flits at the router of core 0: one that it injects, and one of that core to a core outside the rectangle of a sealed fence. -/
theorem wit_RoutersInject : let f : Flit := { x := 0, y := 0, dx := 3, dy := 2, port := 0, msg := { dest := 2 * 48 + 3 } }
    let q : InjQ := { x := 0, y := 0, flits := [f, { f with fidx := 1, nflits := 2 }] }
    let s : State := { msgS 20 0 {} [] with inj0 := [q] }
    q.head? = some f ∧ q.flits.erase f ≠ [] ∧ State.reset.refusesFlit q { f with src := 1 } = false ∧
    ({ s with agent := { s.agent with fences := s.agent.fences.set 0 { st := .sealed, tenant := 1023 } } } : State).refusesFlit q f = true := by decide +kernel
/-- R349: a flit two columns away comes one hop closer. -/
theorem test_reel : gives { State.reset with reel0 := [{ x := 1, y := 2, dx := 3, dy := 2, port := 0, msg := {} }] } .reelFlitRouting
    (fun t => t.reel0.map (fun f => (f.x, f.y)) == [(2, 2)]) = true := by decide +kernel
/-- Ports 0 and 36 are UP; package 3 is of the pod, reached on plane 0, 4 is scale-out peer 0, 5 is absent. -/
def podS (f : LinkFrame) : State :=
  let q : Port := { st := .up }
  let s : State := { State.reset with pod := { ({} : Pod) with map := [(3, 1), (4, 2)], sets0 := [(3, 1)], ports := ((Vector.replicate 38 ({} : Port)).set 0 q).set 36 q
                                                               gate0 := [{ dest := 3 * 4096, tenant := 5 }] } }
  { s with ev := { data := s.frameBytes f } }
theorem wit_GatewaysSend : let s := podS {}
    s.pod.gate0[0]? = some { dest := 3 * 4096, tenant := 5 } ∧ ({ dest := 3 * 4096, tenant := 5 } : Msg).dpkg = 3 ∧ (tabGet s.pod.map 3).getD 0 = 1 ∧
    (tabGet s.pod.map 5).getD 0 = 0 ∧ (tabGet s.pod.map 4).getD 0 = 0 + 2 ∧ (s.pod.port 36).st = .up ∧ s.pod.planes 3 = [0] ∧
    s.choosePlane { dest := 3 * 4096, tenant := 5 } 0 [0] = some 0 ∧
    nextPlane s.pod.ueRr ([36, 37].filter fun p => (s.pod.port p).st == .up) = some 36 ∧ s.linkKey 3 false = none ∧ (s.pod.txOf 3 0).dpkg = 3 := by decide +kernel
/-- The next data frame of package 3, one out of sequence, and bytes that are no frame. -/
theorem wit_DataFramesArrive : let f : LinkFrame := { spkg := 3, msg := some {} }
    let s := podS f
    (s.pod.port 0).st = .up ∧ (match parseFrame s.ev.data with | some (g, _) => g.fkind == 0 && g.lseq == (s.pod.port 0).expect && g.spkg == 3 && g.tseq == 0 | none => false) = true ∧
    (match parseFrame (podS { f with lseq := 7 }).ev.data with | some (g, _) => g.lseq == 7 | none => false) = true ∧ parseFrame [1] = none ∧
    (s.pod.rxOf 3 0).low = 0 ∧ (s.pod.rxOf 3 0).got = [] ∧ s.linkKey 3 true = none := by decide +kernel
theorem wit_ControlFramesArrive : ([1, 2, 3, 4].all fun n => match parseFrame (podS { spkg := 3, fkind := n }).ev.data with
      | some (g, b) => g.fkind == n && ((podS {}).openFrame g b).isSome | none => false) = true ∧
    (([{ lseq := 0 }, { lseq := 1 }] : List LinkFrame) = [] ++ { lseq := 0 } :: [{ lseq := 1 }]) ∧ ((podS {}).pod.txOf 3 0).dpkg = 3 := by decide +kernel
theorem wit_LinkTimers : let f : LinkFrame := { dpkg := 3, tseq := 2 }
    let x : TxStream := { dpkg := 3, pclass := 0, unacked := [(f, 5, 0)] }
    let r : RxStream := { spkg := 3, pclass := 0, sinceAck := 1 }
    ((podS {}).pod.port 0).st = .up ∧ [x].find? (fun x => x.dpkg == 3 && x.pclass == 0) = some x ∧ x.unacked.find? (fun u => u.1.tseq == 2) = some (f, 5, 0) ∧
    [r].find? (fun r => r.spkg == 3 && r.pclass == 0) = some r ∧ ((podS {}).pod.planes 3).find? (fun p => ((podS {}).pod.port p).st == .up) = some 0 ∧
    nextPlane 5 (((podS {}).pod.planes 3).filter fun p => p != 5 && (podS {}).pod.takes 0 p) = some 0 ∧ ({ st := .training, fails := 1 } : Port).fails < 2 := by
  decide +kernel
/-- A packet whose message is not ordered, and an ordered one of a sender and channel that has none before it. -/
theorem wit_PacketsArrive : ((podS {}).pod.port 36).st = .up ∧ 16 ≤ (List.replicate 16 0#8).length ∧
    (msgOf 0 []).flag flagOrdered = false ∧ ({ flags := 2 ^ flagOrdered } : Msg).flag flagOrdered = true ∧
    (podS {}).pod.ueIn = [] ∧ (podS {}).pod.inOrder = [] := by decide +kernel

/-! ### The machine as a whole -/

/-- A parcel, a word of a Fibre and a word of a hart, placed where the first step fetches them. -/
theorem test_steps : (match step (State.reset.withFetchWord 16 0x10A2) with | .next t => (t.ctx 0 0).pcOff == 1 | _ => false) = true ∧
    (match step (State.reset.withFetchWord 32 0x0438C2A5) with | .next t => (t.ctx 0 0).pcOff == 2 | _ => false) = true ∧
    (match step (State.reset.withFetchWord 32 0x0005B57B) with | .next t => (t.hart 0 false).pc == 0x1004 | _ => false) = true := by decide +kernel
theorem wit_FibresRunWhatIsDecoded : let s := State.reset.placeFibre (bytesOf 0x0438C2A5 4)
    let x := s.ctx 0 0
    s.turns = .issue 0 :: [] ∧ (s.core 0).pickFibre = some 0 ∧ (s.core 0).currentBlock x = some 0x1000 ∧ x.pcOff = 0 ∧
    (match s.fetchBlock 0 false 0x1000 with
      | .ready d => markerOf d == none && Claim.parcel d 0 % 2 == 1 &&
          (match decodeFibreWord (BitVec.ofNat 32 (Claim.parcel d 0 + 65536 * Claim.parcel d 1)) with | .ok i => i == .addFp .rup 7 6 5 .f32 | _ => false)
      | _ => false) = true := by decide +kernel
theorem wit_HartsRunWhatIsDecoded : let s := State.reset.placeHart (bytesOf 0x0005B57B 4)
    s.turns = .hart 0 :: [] ∧ (s.core 0).pickHart = some false ∧
    (match s.fetchHart 0 false with | .ok w _ => w == 0x0005B57B && (decodeHart (BitVec.ofNat 32 w)).1 == .jdCnt 11 10 | _ => false) = true := by
  decide +kernel
/-- Hart U at a fence behind an access of its own, which stalls, and hart N ready beside it. -/
theorem wit_StalledHarts : let s := State.reset.placeHart (bytesOf 0x0330000F 4)
    let r : Req := { id := 0, core := 0, who := .hart true, op := .hartRead 8 false, va := 0, loc := .pma 0, isWrite := false, insn := 0 }
    let u : State := { (s.updCore 0 fun k => { k with idU := k.idN }).setHart 0 true (s.hart 0 false) with reqs := [r], turns := [] }
    (u.core 0).pickHart = some true ∧
    (match u.fetchHart 0 true with
      | .ok w s1 => w == 0x0330000F && gives { s1 with cur := .hart 0 true, hop := (decodeHart (BitVec.ofNat 32 w)).2, hraw := BitVec.ofNat 32 w, stalled := false }
          (decodeHart (BitVec.ofNat 32 w)).1 fun t => t.stalled && (t.core 0).hartReady false
      | _ => false) = true := by decide +kernel
theorem wit_TurnsAreTaken : let s : State := { State.reset with turns := [.tick 3] }
    (s.core 3).inbox.landing = [] ∧
    s.turns = .tick 3 :: [] ∧ (s.core 3).heldMsgs = [] ∧ State.reset.turns = [] ∧ (match step s with | .next t => (t.core 3).counter == 1 | _ => false) = true := by
  decide +kernel
/-- A core with a READY Fibre and one with none; a hart that may issue and none. -/
theorem wit_SchedulerPicks : ((State.reset.placeFibre []).core 0).pickFibre = some 0 ∧ (State.reset.core 0).pickFibre = none ∧ ((hartOf .none []).core 0).pickHart = some false ∧
    (State.reset.core 0).pickHart = none := by decide +kernel
/-- A state where the rectangles are apart, and a step from it. -/
theorem wit_FencesStayApart : Claim.fencesApart { kernS [] with turns := [.tick 3] } ∧ ((kernS []).fence 0).st = .active ∧
    ∃ t, step { kernS [] with turns := [.tick 3] } = .next t := by
  have h : ∀ i, i < 32 → i ≠ 0 → ((kernS []).fence i).st = .free := by decide +kernel
  refine ⟨⟨fun j hj hf => ?_, fun i j hi hj hn hf hg => ?_⟩, by decide +kernel, _, rfl⟩
  · rcases Nat.decEq j 0 with h0 | rfl
    · exact absurd (h j hj h0) hf
    · decide +kernel
  · rcases Nat.decEq i 0 with h0 | rfl
    · exact absurd (h i hi h0) hf
    · exact absurd (h j hj (Ne.symm hn)) hg
/-- Words with every bit of their operands in use. -/
theorem wit_RoundTrips : (Instr.addsS 2 .w16 63 62 61).wf = true ∧ (encodeFibreWord (.addsS 2 .w16 63 62 61)).isSome = true ∧ (Instr.jdSend 31 30).wf = true ∧
    (encodeJdWord (.jdSend 31 30)).isSome = true ∧ (encodeParcel (.parcelAddF32 31 31)).isSome = true := by decide +kernel
/-- Die 3 is at 106 °C; the machine after reset is below 105 °C. A sensor takes a value, and management reads it. -/
theorem wit_FirmwareAndHeat : let a : Agent := { sensors := [(3, 106)] }
    a.hold = false ∧ 105 ≤ a.temperature ∧ State.reset.agent.temperature < 105 ∧
    (match step { State.reset with turns := [.sensor 9 40, .monitor 9] } with
      | .next t => (match step t with | .next u => u.readings == [(9, 40)] | _ => false) | _ => false) = true := by decide +kernel
/-- A capability of the code window passes fetch_check. -/
theorem wit_FetchCheckPasses : fetchCheck (fib.core 0) false (((capMake 0x1000 0x1040 permX).getD 0) + 4) true = .ok (0x1000, 2) := ok_of (by decide +kernel)
/-- An access of 24 bytes that starts off the unit has a byte in its middle piece. -/
theorem wit_AccessPieces : (Loc.pma 0x50004).pieces 24 ≠ [] ∧ (3 : Nat) < 24 := by decide +kernel

/-! ### Further witnesses: the other clauses of statements with several -/

/-- A signed block whose marker is its parcel 4, and a first branch of it whose target is the marker. -/
theorem wit_SignedBranches : let g : Signed := { blk := 0x1000, entry := {} }
    let s : State := ({ (State.reset.placeFibre (List.replicate 8 0#8 ++ [0xFE#8, 0xFF#8])) with cur := .fibre 0 0, turns := [] } : State).updCtx 0 0
      fun x => { x with signed := some g, st := .running }
    Claim.ready s 0 0 .branch [] [] [] ∧ (s.ctx 0 0).signed = some g ∧
    ((((s.core 0).findBlock (s.ctx 0 0).pcBlk).bind (·.data)).bind markerOf) = some 4 ∧ g.branched = false ∧ (s.ctx 0 0).pcOff + 2 ≤ 4 ∧
    (4 : BitVec 13).toInt = 4 ∧ (5 : BitVec 13).toInt = 5 :=
  ⟨ready_of (by decide +kernel), by decide +kernel⟩
/-- A Fibre in the run of a signed block, and a hank with fewer than two free slots. -/
theorem wit_HeldHanks : let s := (fibOf fun x => { x with signed := some { blk := 0x1000, entry := x.r } }).updCore 0 fun k => k.setHank 2 hank4
    Claim.ready s 0 0 .plain [] [5] [] ∧ (s.ctx 0 0).signed.isSome = true ∧ hkValid (((s.core 0).sigView 0).hank 2) = true ∧
    2 ≤ hkFilled (((s.core 0).sigView 0).hank 2) ∧ hkFree (((s.core 0).sigView 0).hank 2) < 2 ∧ (2 : Nat) ≤ hkSlots (((s.core 0).sigView 0).hank 2) :=
  ⟨ready_of (by decide +kernel), by decide +kernel⟩
/-- The name 0x100 is LIVE, and EXITED; a Fibre in a signed block that joins it. -/
theorem wit_LiveNames : let s (st : NameSt) : State := { fibJ with agent := { fibJ.agent with names := [(1, { st := st })] } }
    let f := (s .live).updCtx 0 0 fun x => { x with skein := 0, joined := false, signed := some { blk := 0x1000, entry := x.r } }
    ((s .live).nameEntry 0x100).any (·.st == .live) = true ∧ ((s .exited).nameEntry 0x100).any (·.st == .exited) = true ∧
    Claim.ready f 0 0 .plain [11] [10] [] ∧ (((f.core 0).sigView 0).ctx 0).skein = 0 ∧ (f.ctx 0 0).vlo 11 = 0x100 ∧
    (∃ r ∈ ((f.core 0).sigView 0).residents, r.name = 0x100 ∧ r.lvl = (f.ctx 0 0).lvl) :=
  ⟨by decide +kernel, by decide +kernel, ready_of (by decide +kernel), by decide +kernel⟩
/-- A request refused BUSY whose page misses, and one whose page does not admit it. -/
theorem wit_Retries : (fibG.core 0).translate 0x30000 .write = .miss ∧
    ((fibG.updCore 0 fun k => { k with tlb := { k.tlb with entries := [(0, leaf2 - 8)] } }).core 0).translate 0x20000 .write = .refused ∧
    (homeS { rq (.write [1] none) true with stage := .busy 0 }).findReq 7 = some { rq (.write [1] none) true with stage := .busy 0 } := by decide +kernel
/-- A FULL word in HBM, where another package reads it. -/
theorem wit_OutsideReadsFull : let s := (homeS (rq (.fe .ldff 0) true)).setFull (.pma 0x50000) true
    (Loc.pma 0x50000).hasState = true ∧ s.isFull (.pma 0x50000) = true ∧ s.poisonedAt (.pma 0x50000) 8 = false := by decide +kernel
/-- The only member of the resident Skein 0x100 has STOPPED. -/
theorem wit_LastMembersLeave :
    let s : State := { (fibJ.updCtx 0 0 fun x => { x with st := .stopped }) with
      cur := .env, agent := { ({} : Agent) with names := [(1, { st := .live })] } }
    (s.ctx 0 0).st = .stopped ∧ (s.ctx 0 0).joined = true ∧ (s.ctx 0 0).mbr = false ∧ s.outstanding 0 0 = false ∧
    (s.core 0).members 0x100 = [0] ∧ ((s.core 0).residents.any fun r => r.name == 0x100) = true ∧ (s.nameEntry 0x100).isSome = true := by decide +kernel
/-- A Carder command that waits for the granule, and a request that asked for its translation. -/
theorem wit_RefusedWaiters : let x : CdCmd := { id := 5, op := 0, record := cdRec, word := 0, lvl := false, missVa := some 0x20018 }
    let r : Req := { rq (.write [1] none) true with stage := .busy 0, asked := true }
    let s : State := { (missS 0 { va := 0x20010, kind := 0, epoch := 0, walked := true, fill := some none }).updCore 0 fun k => { k with carderN := [x] } with reqs := [r] }
    (∃ m, (s.core 0).tlb.misses[0]? = some m ∧ m.fill = some none ∧ (s.core 0).tlb.epoch ≤ m.epoch) ∧ (s.reqs.map (·.id)).Nodup ∧ r.retries = true ∧
    0x20010 / 2 ^ 16 = r.va / 2 ^ 16 :=
  ⟨⟨_, rfl, rfl, by decide +kernel⟩, by decide, by decide, by decide⟩
/-- A pool of which one frame is retired, so that the next is taken; and a pool that has none. -/
theorem wit_PoolsWithRetired : let s : State := { State.reset with agent := { ({} : Agent) with retired := [(0x80000, 65536)], pool := [(0x80000, 0), (0x90000, 0)] } }
    let fits (p : Nat × Nat) : Bool := p.2 == 0 && !s.isRetired p.1 (2 ^ pageShift p.2)
    s.agent.pool.find? fits = some (0x90000, 0) ∧ (s.agent.pool.take 1).find? fits = none := by decide +kernel
/-- An error strikes a granule of a frame that is MAPPED. -/
theorem wit_StruckFrames : let s : State := { State.reset with agent := { ({} : Agent) with frames := [(0x50000, {})] } }
    s.frameAt 0x50040 = some (0x50000, {}) ∧ s.poisonedAt (.pma 0x50040) 1 = false := by decide +kernel
/-- A reservation in the source of a move, and a store that a signed block holds back there. -/
theorem wit_MovedHolders : let v : Resv := { core := 0, urgent := false, loc := .pma 0x50010, n := 8 }
    let h : HeldStore := { va := 0x20020, data := [1, 2, 3, 4], tags := [], ps := [(0, 4, .pma 0x50020)] }
    let s : State := { fibOf (fun x => { x with signed := some { blk := 0x1000, entry := x.r, stores := [h] } }) with resvs := [v] }
    v ∈ s.resvs ∧ 0x50000 ≤ 0x50010 ∧ 0x50010 + v.n ≤ 0x50000 + 65536 ∧ (s.ctx 0 0).signed.map (·.stores) = some [h] ∧ (0, 4, Loc.pma 0x50020) ∈ h.ps := by
  decide +kernel
/-- A level that has been HALTING for its whole bound: with everything halted, and with a hart that has not; and one in a later cycle. -/
theorem wit_HaltsAreBounded : let s := (haltS .halting).updCore 0 fun k => { k with counter := 18 }
    let u := s.updHart 0 false fun h => { h with st := .running }
    (s.core 0).haltBound ≤ 18 ∧ ((((s.core 0).counter : Int) - (s.core 0).haltCycle) % 2 ^ 64).toNat = 18 ∧ s.hasHalted 0 = true ∧ (u.core 0).haltBound ≤ 18 ∧
    (s.core 0).counter ≠ (s.core 0).haltCycle ∧ ((haltS .halting).core 0).counter = ((haltS .halting).core 0).haltCycle := by decide +kernel
/-- The header that checks, of an image without loads to issue again. -/
theorem wit_RestoresHaveEntries :
    let head := bytesOf 0x4A5A5356 4 ++ bytesOf 1 2 ++ bytesOf 1 2 ++ List.replicate 8 0#8 ++ bytesOf 48 8 ++ List.replicate 24 0#8
    let s := imgS (crc32c head)
    s.entriesFree 0 (s.savedLoads 0 0x100000) = true := by decide +kernel
/-- R169: three flaws are recorded in four bytes' worth of loads at most. -/
theorem wit_LoadRecords : (((haltS .saving).core 0).haltedCtxs.map fun i => (((haltS .saving).core 0).ctx i).flawEntries).foldl (· + ·) 0 ≤ 512 := by
  decide +kernel
/-- The destination of the migration is LIVE, no deposit of the member is out, and its name is cached by none. -/
theorem wit_MigrationsInstall : let s : State := { migS with agent := { migS.agent with names := [(1, { st := .migrating })] } }
    (s.core 1).level = .live ∧ (∀ e ∈ (s.core 0).ctxEntries 0, e.isDeposit = false) ∧ (s.nameEntry 0x100).any (·.caches.isEmpty) = true ∧
    ({ name := 0x100, src := 0, dst := 1, level := false } : Migration).held = [] ∧ (migS.ctx 0 0).st = .halted := by decide +kernel
/-- A core of a rectangle that is not closed, one that is drained, and a deposit that is not ordered. -/
theorem wit_AnswersPass : let s := msgS 20 0 { arrived := [ansM 0x204 0] } []
    s.rectClosed 0 = false ∧ (ansM 0x204 0).tenant = (s.core 0).tenant ∧ ((s.updCore 0 fun k => { k with drained := true }).rectClosed 0) = false ∧
    (depM 0).flag flagOrdered = false ∧ (ansM 0x204 16).flag flagNack = true := by decide +kernel
/-- A resolution from the name server of package 9, and a context that was given a name that has EXITED. -/
theorem wit_NamesOfOthers : let q : NameReq := { core := 0, ctx := some 0, handle := none, inc := 0 }
    let s : State := { fib with cur := .env, ev := { b := true, n := 9 * 2 ^ 24 + 0x100 }
                                agent := { ({} : Agent) with nameReqs := [q], named := [(0, 0)], names := [(1, { st := .exited, owner := some (0, 0, 0) })] } }
    s.ev.b = true ∧ s.ev.n < 2 ^ 32 ∧ s.ev.n / 2 ^ 24 ≠ s.pkg ∧ s.agent.nameReqs[0]? = some q ∧ tabGet s.agent.named (32 * q.core + 0) = some q.inc ∧
    (∀ e ∈ s.agent.names, e.2.owner = some (q.core, 0, q.inc) → e.2.st = .exited ∨ e.2.st = .free) := by decide +kernel
/-- R309, R50: −0, 1 and 2 as FP32 are known exactly, and infinity is not. -/
theorem wit_KGroupsRoundOnce : Claim.exactFin (fval fmt32 0x80000000) ∧ Claim.exactFin (fval fmt32 0x3F800000) ∧
    Claim.exactFin (fmulX (fval fmt32 0x3F800000) (fval fmt32 0x40000000)) ∧ fval fmt32 0x7F800000 = .inf false ∧
    (fval fmt32 0x80000000).neg = true := ⟨⟨_, _, _, rfl⟩, ⟨_, _, _, rfl⟩, ⟨_, _, _, rfl⟩, rfl, rfl⟩
/-- The last block of one word of a deal to a rectangle of three cores, row by row. -/
def cdD (pos : Nat) : State :=
  let x : CdCmd := { id := 5, op := 1, record := cdRec + 16 * 2 ^ 128 + 16 * 2 ^ 468, word := 0, lvl := false, pos := pos, pattern := 1 + 2 ^ 12 * 2 + 2 ^ 18 * 3 + 2 ^ 24 }
  { fibG.updCore 0 fun k => { k with carderN := [x] } with cur := .env }
theorem wit_DealBlocksLeave : let s := cdD 16
    ((s.cdPick 0).any fun x => x.op == 1 && bits x.pattern 11 0 == 1 && x.pos % 16 == 0 && x.pos < x.stream && x.stream ≤ x.pos + 16 &&
      x.pos % 4096 + (x.stream - x.pos) ≤ 4096 && x.ended.isNone && !x.cnv && !x.tagp &&
      (x.slots ((x.pos / 16) % x.wordsRow)).all fun e => e < x.rowLen && match x.elemAddr ((x.pos / 16) / x.wordsRow) e with
        | some a => (match s.cdLoc 0 x a x.esz .cread with | .ok l => l.isLocal && !s.poisonedAt l x.esz | .error _ => false)
        | none => false) = true := by decide +kernel
/-- A cdr.cvt to MXFP8 of one block of 32 elements at its first word, and at the word of its scale codes. -/
def cdC (pos : Nat) (scales : Tab Nat) : State :=
  let x : CdCmd := { id := 5, op := 4, record := spadBase + 1024 + 9 * 2 ^ 60 + 32 * 2 ^ 128 + 2 * 2 ^ 288 + 32 * 2 ^ 468, word := 0xC * 2 ^ 29
                     lvl := false, pos := pos, scales := scales }
  { fibG.updCore 0 fun k => { k with carderN := [x] } with cur := .env }
theorem wit_CarderPacks :
    (((cdC 0 []).cdPick 0).any fun x => x.op == 4 && !x.trn && x.esz == 2 && x.off % 16 == 0 && x.blocks * x.blkBytes == 32 && x.pos + x.blkBytes == 32 &&
      (List.range 32).all fun i => match x.elemAddr 0 i with
        | some a => (match (cdC 0 []).cdLoc 0 x a 2 .cread with | .ok l => l.isLocal && !(cdC 0 []).poisonedAt l 2 | .error _ => false)
        | none => false) = true ∧
    (((cdC 32 [(0, 77)]).cdPick 0).any fun x => x.blocks * x.blkBytes ≤ x.pos && x.pos + 16 == x.stream && x.blocks == 1 && tabGet x.scales 0 == some 77) = true := by
  decide +kernel
/-- A kernel that another package has loaded beside this one; reports of it, and of one that failed; one that was pre-empted. -/
theorem wit_OtherPlacements : let p : Place := { pkg := 9, x0 := 0, y0 := 0, w := 1, h := 1 }
    let k (r : Option Nat) := { kern .placing 0 with places := [{ p with report := r }] }
    let r : Start := { core := 0, place := 0, seq := 5 }
    (k none).othersLoaded 0 = false ∧ (k (some 0)).othersLoaded 0 = true ∧ (kernS [k none]).kernel 1 = some (k none) ∧ (k none).st = .placing ∧
    (k none).places[0]? = some p ∧ p.report = none ∧ p.pkg ≠ (kernS []).pkg ∧
    ({ kern .preempted 0 with starts := [r] } : Kernel).st = .preempted ∧ (kern .running 0).isOver = false := by decide +kernel
/-- The kernel of another home agent in a sweep. -/
theorem wit_GuestsAreSwept : let r : SweepRes := { sent := 3, recv := 3, idle := true }
    let k := { kern .running 0 with guest := true, part := some (0, r) }
    (kernS [k]).kernel 1 = some k ∧ k.guest = true ∧ 0 ≤ k.cores.length := by decide +kernel
/-- A kernel that has ended on a LIVE core, and an urgent one that has on a core where a normal one is saved. -/
theorem wit_KernelsAreReleased : let k := { kern .ended 0 with cores := [0] }
    let j := { kern .preempted 0 with kid := 2, cores := [0] }
    let s := (kernS [k]).updCore 0 fun x => { x with idN := { x.idN with kernel := some 1 } }
    let u := (kernS [k, j]).updCore 0 fun x => { x with level := .saved, idU := { x.idU with kernel := some 1 }, idN := { x.idN with kernel := some 2 } }
    s.kernel 1 = some k ∧ k.isOver = true ∧ k.cores.Nodup ∧ (s.core 0).level = .live ∧ (s.core 0).inbox.late = [] ∧ (s.core 0).idN.kernel = some 1 ∧
    (s.core 0).idU.kernel = none ∧ s.host.wf = true ∧
    u.kernel 1 = some k ∧ u.kernel 2 = some j ∧ (u.core 0).level = .saved ∧ (u.core 0).idU.kernel = some 1 ∧ (u.core 0).idN.kernel = some 2 := by decide +kernel
/-- A frame that a page moves to is promised, and one that nothing moves to is not; an address in the middle of a page. -/
theorem wit_PromisedFrames : let s : State := { State.reset with agent := { ({} : Agent) with pool := [(0x80000, 0)] } }
    s.promised 0x80000 65536 = true ∧ State.reset.promised 0x80000 65536 = false ∧ (0x20040 : Nat) % 2 ^ 16 ≠ 0 ∧
    (0x30000 : Nat) % 2 ^ pageShift 1 ≠ 0 ∧ (0x30000 : Nat) % 2 ^ 16 = 0 := by decide +kernel
/-- Of the cores of a rectangle in reset only a plain write is outstanding, and then an atomic that waits no more. -/
theorem wit_ResetsWait : let f : Fence := { st := .resetting, tenant := 5, wm := 1 }
    f.holds 0 = true ∧ (rq (.write [1] none) true).op = .write [1] none ∧
    ({ rq (.atomic .add 4 1 0) true with stage := .answered [0, 0, 0, 0] [] } : Req).settled = true ∧ (rq (.atomic .add 4 1 0) true).settled = false := by
  decide +kernel
/-- An update of the plane sets under way, a kernel placed on package 3, and one that is checked only. -/
theorem wit_PodInUse : let k := { kern .running 0 with places := [{ pkg := 3, x0 := 0, y0 := 0, w := 1, h := 1 }] }
    let s : State := { podS {} with pod := { (podS {}).pod with updating := true }, agent := { (podS {}).agent with kernels := [k] } }
    s.pod.updating = true ∧ (∃ k ∈ s.agent.kernels, (k.st = .running ∨ k.st = .preempted) ∧ ∃ q ∈ k.places, q.pkg = 3) ∧ (tabGet s.pod.map 3).getD 0 = 1 ∧
    (∀ j ∈ (kernS [kern .checking 0]).agent.kernels, j.st ≠ .running) ∧ (∀ x ∈ s.pod.tx, ∀ u ∈ x.unacked, u.1.gen = s.pod.gen) :=
  ⟨by decide +kernel, ⟨_, List.mem_cons_self .., .inl rfl, _, List.mem_cons_self .., rfl⟩, by decide +kernel, by decide +kernel, by decide +kernel⟩
/-- A whole slot that holds a POD_CONFIG action 1; a reply slot. -/
theorem wit_SlotWrites : let d := bytesOf (11 + 48 * 2 ^ 16 + 2 ^ 64) 16 ++ pay [(0, 1, 1)]
    d.length = 64 ∧ (ofBytes (d.take 16)).testBit 64 = true ∧ d.getD 0 0#8 = 11#8 ∧ d.getD 16 0#8 = 1#8 ∧
    (State.reset.agent.replySlots.toList.getD 0 []).length = 64 ∧ (ofBytes ((State.reset.agent.cmdSlots.toList.getD 0 []).take 16)).testBit 64 = false := by
  decide +kernel
/-- A stream with an ordered message that waits for the notice of the one before it, a packet that does, and a frame resent sixteen times. -/
theorem wit_NoticesWake : let m : Msg := { flags := 2 ^ flagOrdered }
    let key := (m.rcore, m.dest, m.chan)
    let r : RxStream := { spkg := 3, pclass := 0, low := 1, ordered := [(0, false, m)] }
    let s : State := { State.reset with pod := { State.reset.pod with notices := [key], inOrder := [key], rx := [r] } }
    s.pod.notices[0]? = some key ∧ r.ordered = (0, false, m) :: [] ∧ (0 : Nat) ≤ r.low ∧ m.dpkg = s.pkg ∧ key ∉ s.pod.inOrder.erase key ∧ s.pod.ueIn = [] ∧
    (({ s with pod := { s.pod with rx := [], ueIn := [(0, true, m)] } } : State).pod.ueIn = (0, true, m) :: []) ∧
    (∃ e ∈ ({ st := .up, resends := [(4, 16)] } : Port).resends, 16 ≤ e.2) ∧ ({ st := .retrain } : Port).st = .retrain :=
  ⟨rfl, rfl, by decide, by decide, by decide, by decide, rfl, ⟨_, List.mem_cons_self .., by decide⟩, rfl⟩
/-- R356: of the frames of an ack-only frame, sent again up to the first of a class that is paused. -/
theorem wit_PausedClasses : ([{ lseq := 1, pclass := 0 }, { lseq := 2, pclass := 2 }] : List LinkFrame).takeWhile (fun g => !(4 : Nat).testBit g.pclass) =
    [{ lseq := 1, pclass := 0 }] := by decide
/-- A core whose halt is not due, and the release of a kernel that waits for its turn. -/
theorem wit_ReleaseTurns : let s := (kernS [{ kern .ended 0 with cores := [0] }]).updCore 0 fun x => { x with idN := { x.idN with kernel := some 1 } }
    (State.reset.core 3).haltDue = false ∧ (((haltS .halting).updCore 0 fun k => { k with counter := 18 }).core 0).haltDue = true ∧
    (match step { s with turns := [.release 1] } with | .next t => (t.kernel 1).any (·.cores.isEmpty) | _ => false) = true := by decide +kernel
end Sys2Proof.Tests
end

section
/-! What the reset state holds (R7), and the statements on it. -/

namespace Sys2Proof.Machine

@[simp] theorem State.core_reset (c : Nat) : State.reset.core c = {} := rfl
theorem Core.ctx_empty (i : Nat) : ({} : Core).ctx i = {} := by
  unfold Core.ctx
  split <;> simp
theorem Core.hart_empty (u : Bool) : ({} : Core).hart u = {} := by cases u <;> rfl
theorem Core.boxes_empty (b : Nat) : ({} : Core).boxes.toList.getD b {} = {} := by
  show (Vector.replicate 16 ({} : SkBox)).toList.getD b {} = {}
  rw [Vector.toList_replicate, List.getD_eq_getElem?_getD, List.getElem?_replicate]
  split <;> rfl
/-- R7, R364: every fence entry is FREE. -/
theorem State.fence_reset (j : Nat) : State.reset.fence j = {} := by
  unfold State.fence State.reset
  split <;> simp
/-- R257: no word of any memory is FULL. -/
theorem State.isFull_reset (l : Loc) : State.reset.isFull l = false := by
  unfold State.isFull
  cases l <;> rfl

end Sys2Proof.Machine

namespace Sys2Proof
open Sys2Proof.Machine

/-- Settles O55: each part of an unlisted core, and of the agent, holds its default. -/
theorem resetLeaves : Obligations.ResetLeaves := by
  refine ⟨fun c _ => ?_, State.isFull_reset, fun j _ => by rw [State.fence_reset], rfl, rfl, rfl, rfl⟩
  refine ⟨rfl, rfl, rfl, rfl, rfl, rfl, rfl, rfl, fun b _ => ?_, fun i _ => ?_, fun u => ?_⟩
  · rw [State.core_reset, Core.boxes_empty]
  · rw [State.core_reset, Core.ctx_empty]
    exact ⟨rfl, rfl, rfl, rfl⟩
  · rw [State.core_reset, Core.hart_empty]
    exact ⟨rfl, rfl, rfl, rfl, rfl, rfl⟩

/-- Settles O57: no entry is in use. -/
theorem fencesApartAtReset : Obligations.FencesApartAtReset := by
  have free (j : Nat) : (State.reset.fence j).st = .free := by rw [State.fence_reset]
  exact ⟨fun j _ h => absurd (free j) h, fun i _ _ _ _ h => absurd (free i) h⟩

end Sys2Proof
end

section
/-! The taking of a Fibre fault (R10, R144), and the statement on the trap forms. -/

namespace Sys2Proof.Machine
open Sys2Proof.Claim

/-! ### What the parts of a fault leave -/

@[simp] theorem Ctx.discardSigned_st (x : Ctx) : x.discardSigned.st = x.st := by
  unfold Ctx.discardSigned
  split <;> rfl
theorem Ctx.discardSigned_none {x : Ctx} (h : x.signed = none) : x.discardSigned = x := by
  simp [Ctx.discardSigned, h]
@[simp] theorem Core.ctx_queueFault (k : Core) (u : Bool) (m : Msg) (i : Nat) : (k.queueFault u m).ctx i = k.ctx i := by
  cases u <;> rfl
@[simp] theorem Core.spad_queueFault (k : Core) (u : Bool) (m : Msg) : (k.queueFault u m).spad = k.spad := by
  cases u <;> rfl
theorem Core.inbox_queueFault (k : Core) (u : Bool) (m : Msg) : (k.queueFault u m).inbox =
    if u then { k.inbox with uFault := k.inbox.uFault ++ [m] } else { k.inbox with nFault := k.inbox.nFault ++ [m] } := by
  cases u <;> rfl
@[simp] theorem Core.ctx_trimStreams (k : Core) (i : Nat) : k.trimStreams.ctx i = k.ctx i := rfl
@[simp] theorem Core.inbox_trimStreams (k : Core) : k.trimStreams.inbox = k.inbox := rfl
@[simp] theorem Core.spad_trimStreams (k : Core) : k.trimStreams.spad = k.spad := rfl
@[simp] theorem Core.inbox_setCtx (k : Core) (i : Nat) (x : Ctx) : (k.setCtx i x).inbox = k.inbox := by rw [Core.setCtx_eq]

/-! ### The fault -/

/-- R144: context i of a core as a fault leaves it, where it does not halt. -/
def Core.faultCtx (k : Core) (i cause addr : Nat) : Ctx :=
  let x := (k.ctx i).discardSigned
  { x with st := .faulted, cause := cause, faultAddr := addr % 2 ^ 64, faultPc := x.pcBlk + 2 * x.pcOff, faultSeq := some k.seq
           wait := {}, missVa := 0, awaits := none, faultLen := k.instrParcels x }

/-- R144: the message on channel 1 that tells of the fault of context i of core c. -/
def State.faultMsg (s : State) (c i cause addr : Nat) : Msg :=
  let k := s.core c
  { seq := k.seq, tenant := k.tenant, rchan := 1, rcore := s.addrOf c, plen := 4, prio := entLvl (k.entry 1), chan := 1
    dest := s.addrOf c, payload := (k.faultCtx i cause addr).faultPayload i }

/-- R10, R144: what the taking of a fault changes: requests, and of core c the context, the sequence number, the checker, the
block copies, the streams and a fault queue. -/
theorem State.takeFault_eq (s : State) (c i cause addr : Nat) (hst : (s.ctx c i).st ≠ .halted) :
    ∃ l q b, s.takeFault c i cause addr = { s.setCore c
      ((({ s.core c with seq := ((s.core c).seq + 1) % 65536, checker := q, blocks := b } : Core).setCtx i
        ((s.core c).faultCtx i cause addr)).queueFault (entLvl ((s.core c).entry 1)) (s.faultMsg c i cause addr)).trimStreams
      with reqs := l } := by
  have hst' : ((((s.core c).ctx i).discardSigned).st == CtxSt.halted) = false := by simpa [State.ctx] using hst
  unfold State.takeFault
  simp only [hst', Bool.false_eq_true, if_false, Core.nextSeq]
  split
  · exact ⟨_, _, _, rfl⟩
  · exact ⟨_, _, _, rfl⟩

/-- R144: a fault of a context that does not halt is what the claims call one. -/
theorem faulted_takeFault (s : State) {c i : Nat} (cause addr : Nat) (hi : i < 32) (hst : (s.ctx c i).st ≠ .halted) :
    faulted s (s.takeFault c i cause addr) c i cause addr := by
  obtain ⟨l, q, b, ht⟩ := s.takeFault_eq c i cause addr hst
  generalize s.takeFault c i cause addr = t at ht
  have hctx : t.ctx c i = (s.core c).faultCtx i cause addr := by
    rw [ht]
    exact (congrArg (Core.ctx · i) (State.core_setCore_self ..)).trans (by simp [hi])
  have hcore (d : Nat) (hd : d ≠ c) : t.core d = s.core d := by rw [ht]; exact State.core_setCore_ne _ _ hd
  have hself := (congrArg (State.core · c) ht).trans (State.core_setCore_self ..)
  refine ⟨?_, ?_, ?_, ?_, fun hs => ?_, ⟨s.faultMsg c i cause addr, rfl, rfl, rfl, rfl, rfl, ?_, ?_⟩, fun j hj => ?_, hcore, ?_⟩
  · rw [hctx]; rfl
  · rw [hctx]; rfl
  · rw [hctx]; rfl
  · rw [hctx]; rfl
  · have hx : ((s.core c).ctx i).discardSigned = (s.core c).ctx i := Ctx.discardSigned_none hs
    rw [hctx, Core.faultCtx, hx]
    exact ⟨rfl, rfl, rfl⟩
  · rw [hctx]; rfl
  · rw [hself]
    simp only [Core.inbox_trimStreams, Core.inbox_queueFault, Core.inbox_setCtx]
    rfl
  · show (t.core c).ctx j = _
    rw [hself]
    simp only [Core.ctx_trimStreams, Core.ctx_queueFault, Core.ctx_setCtx_ne _ _ hj]
    rfl
  · refine sameMemory_of (by rw [ht]; rfl) (by rw [ht]; rfl) fun d => ?_
    by_cases hd : d = c
    · subst hd; rw [hself]; simp
    · rw [hcore d hd]

/-- R10: an instruction whose own effect is a fault takes it where it is ready. -/
theorem faultOp_faulted {s : State} {c i : Nat} (len cause addr : Nat) (h : ready s c i .plain [] [] []) :
    ∃ t, faultOp len [] [] [] (fun _ => .error (cause, addr)) s = .next t ∧ faulted s t c i cause addr := by
  refine ⟨_, fibreOp_ready _ h, ?_⟩
  obtain ⟨-, -, hi, hrun, -⟩ := h
  exact faulted_takeFault s cause addr hi (by rw [hrun]; simp)

end Sys2Proof.Machine

namespace Sys2Proof
open Sys2Proof.Machine

/-- Settles O9: each trap form is `faultOp` of its cause and address. -/
theorem fibreTraps : Obligations.FibreTraps := by
  intro ins cause addr s c i hins h
  unfold Claim.trapOf at hins
  split at hins <;> cases hins
  · exact faultOp_faulted 2 _ _ h
  · exact faultOp_faulted 2 _ _ h
  · exact faultOp_faulted 1 _ _ h
  · exact faultOp_faulted 1 _ _ h

end Sys2Proof
end

section
/-! Bytes and their bits (R5), and how the firmware takes a host command and replies to it (R384, R385), in the terms of the
claims. -/

namespace Sys2Proof

/-! ### Bytes -/

@[simp] theorem bytesOf_length (x n : Nat) : (bytesOf x n).length = n := by
  induction n generalizing x with
  | zero => rfl
  | succ n ih => simp [bytesOf, ih]

/-- R5: the bytes of a number give it back, modulo their width. -/
theorem ofBytes_bytesOf (x n : Nat) : ofBytes (bytesOf x n) = x % 2 ^ (8 * n) := by
  induction n generalizing x with
  | zero => simp [bytesOf, ofBytes, Nat.mod_one]
  | succ n ih =>
    have hp : 2 ^ (8 * (n + 1)) = 256 * 2 ^ (8 * n) := by rw [Nat.mul_add, Nat.pow_add, Nat.mul_comm]
    rw [bytesOf, ofBytes, ih, hp, Nat.mod_mul, Nat.shiftRight_eq_div_pow, BitVec.toNat_ofNat]

/-- R5: a bit of a number that bytes give is one of the byte that holds it. -/
theorem testBit_ofBytes (d : List Byte) (i : Nat) : (ofBytes d).testBit i = (d.getD (i / 8) 0#8).getLsbD (i % 8) := by
  induction d generalizing i with
  | nil => simp [ofBytes]
  | cons b r ih =>
    have h : ofBytes (b :: r) = 2 ^ 8 * ofBytes r + b.toNat := Nat.add_comm ..
    rw [h, Nat.testBit_two_pow_mul_add _ b.isLt]
    split
    · next hi => simp [Nat.div_eq_of_lt hi, Nat.mod_eq_of_lt hi, BitVec.getLsbD]
    · next hi =>
      obtain ⟨j, rfl⟩ : ∃ j, i = j + 8 := ⟨i - 8, by omega⟩
      simp [ih]

end Sys2Proof

namespace Sys2Proof.Machine
open Sys2Proof.Claim

/-! ### Slots -/

/-- R384: a slot whose V is cleared, byte by byte. -/
theorem getD_clearV (d : List Byte) (j : Nat) :
    (d.zipIdx.map fun b => if b.2 = 8 then b.1 &&& 0xFE#8 else b.1).getD j 0#8 =
      if j = 8 then d.getD j 0#8 &&& 0xFE#8 else d.getD j 0#8 := by
  simp only [List.getD_eq_getElem?_getD, List.getElem?_map, List.getElem?_zipIdx, Nat.zero_add]
  cases d[j]? with
  | none => simp
  | some b => simp only [Option.map_some, Option.getD_some]

/-- R384: the V of a slot's header. -/
theorem testBit_slotHeader (d : List Byte) : (ofBytes (d.take 16)).testBit 64 = (d.getD 8 0#8).getLsbD 0 := by
  rw [testBit_ofBytes]
  simp [List.getD_eq_getElem?_getD]

/-- R384: a slot whose V is cleared has V clear. -/
theorem testBit_clearV (d : List Byte) :
    (ofBytes ((d.zipIdx.map fun b => if b.2 = 8 then b.1 &&& 0xFE#8 else b.1).take 16)).testBit 64 = false := by
  rw [testBit_slotHeader, getD_clearV, if_pos rfl, BitVec.getLsbD_and]
  simp

/-- R384: a state whose command slots and next slot are those after the taking of slot i has taken it. -/
theorem tookSlot_of {s t : State} {i : Nat} (hi : i < 32) (hn : t.agent.nextSlot = (s.takeSlot i).agent.nextSlot)
    (hc : t.agent.cmdSlots = (s.takeSlot i).agent.cmdSlots) : tookSlot s t i := by
  have hslots : (s.takeSlot i).agent.cmdSlots = setSlot s.agent.cmdSlots i _ := rfl
  refine ⟨hn, ?_, fun j hj => ?_⟩
  · rw [hc, hslots, setSlot_self _ _ hi, testBit_clearV]
  · rw [hc, hslots, setSlot_ne _ _ hj]

/-! ### Replies -/

theorem hdrOp_eq (h : Nat) : hdrOp h = h % 256 := rfl
theorem hdrPlen_eq (h : Nat) : hdrPlen h = h / 2 ^ 16 % 256 := by simp [hdrPlen, bits, Nat.shiftRight_eq_div_pow]
theorem hdrTag_eq (h : Nat) : hdrTag h = h / 2 ^ 32 % 2 ^ 32 := by simp [hdrTag, bits, Nat.shiftRight_eq_div_pow]
theorem hdrVec_eq (h : Nat) : hdrVec h = h / 2 ^ 72 % 256 := by simp [hdrVec, bits, Nat.shiftRight_eq_div_pow]

/-- R382: an interrupt changes the vectors raised and one counter alone. -/
theorem State.interruptHost_eq (s : State) (v : Nat) :
    ∃ m c, s.interruptHost v = { s with msix := m, agent := { s.agent with counters := c } } := by
  unfold State.interruptHost
  split
  · exact ⟨_, _, rfl⟩
  · exact ⟨_, _, rfl⟩

/-- R384, R385: the header of a reply. -/
def replyHeader (h st len : Nat) : Nat := hdrOp h + len * 2 ^ 16 + st * 2 ^ 24 + hdrTag h * 2 ^ 32 + 2 ^ 64
/-- R385: the bytes of a reply's slot. -/
def replyBytes (h st : Nat) (res : List Byte) : List Byte :=
  (bytesOf (replyHeader h st res.length) 16 ++ res ++ List.replicate 48 0#8).take 64

/-- R385: what a reply writes, and the interrupt that it raises where the command asks. -/
theorem State.replyHost_slot (u : State) (i h st : Nat) (res : List Byte) :
    (u.replyHost i h st res).agent.replySlots = setSlot u.agent.replySlots i (replyBytes h st res) ∧
    (u.replyHost i h st res).agent.cmd = none ∧
    (hdrIrq h = true → hdrVec h < 64 → (u.replyHost i h st res).msix.head? = some (hdrVec h)) := by
  unfold State.replyHost State.interruptHost
  dsimp only
  split
  · split
    · exact ⟨rfl, rfl, fun _ _ => rfl⟩
    · next hv => exact ⟨rfl, rfl, fun _ h => absurd h hv⟩
  · next hq => exact ⟨rfl, rfl, fun h => absurd h hq⟩

theorem replyBytes_length (h st : Nat) (res : List Byte) : (replyBytes h st res).length = 64 := by
  simp [replyBytes]; omega
/-- R385: a reply begins with its header. -/
theorem ofBytes_replyBytes (h : Nat) {st : Nat} {res : List Byte} (hst : st < 256) (hres : res.length ≤ 48) :
    ofBytes ((replyBytes h st res).take 16) = replyHeader h st res.length := by
  rw [replyBytes, List.take_take, List.append_assoc, List.take_left' (by simp), ofBytes_bytesOf, Nat.mod_eq_of_lt]
  rw [replyHeader, hdrOp_eq, hdrTag_eq]
  omega
/-- R385: the result of a reply follows its header. -/
theorem take_replyBytes (h st : Nat) {res : List Byte} (hres : res.length ≤ 48) :
    ((replyBytes h st res).drop 16).take res.length = res := by
  rw [replyBytes, List.drop_take, List.append_assoc, List.drop_left' (by simp), List.take_take, Nat.min_eq_left hres,
    List.take_left]

/-- R385: a reply shows in its slot. -/
theorem shows_replyHost (u : State) {i : Nat} (h : Nat) {st : Nat} {res : List Byte} (hi : i < 32) (hst : st < 256)
    (hres : res.length ≤ 48) : shows (u.replyHost i h st res) i h st res := by
  obtain ⟨hslot, hcmd, hvec⟩ := u.replyHost_slot i h st res
  have hd : (u.replyHost i h st res).agent.replySlots.toList.getD i [] = replyBytes h st res := by
    rw [hslot, setSlot_self _ _ hi]
  unfold shows
  rw [hd]
  rw [hdrVec_eq] at hvec
  refine ⟨hcmd, replyBytes_length h st res, ?_, take_replyBytes h st hres, hvec⟩
  rw [ofBytes_replyBytes h hst hres, replyHeader, hdrOp_eq, hdrTag_eq]

/-- R384, R385: the command of a taken slot that is replied to. -/
theorem replied_replyHost {s u : State} {i : Nat} (h : Nat) {st : Nat} {res : List Byte} (hi : i < 32) (hst : st < 256)
    (hres : res.length ≤ 48) (hn : u.agent.nextSlot = (s.takeSlot i).agent.nextSlot)
    (hc : u.agent.cmdSlots = (s.takeSlot i).agent.cmdSlots) : replied s (u.replyHost i h st res) i h st res := by
  refine ⟨tookSlot_of hi ?_ ?_, shows_replyHost u h hi hst hres⟩
  · obtain ⟨m, c, v, e⟩ := u.replyHost_eq i h st res; rw [e]; exact hn
  · obtain ⟨m, c, v, e⟩ := u.replyHost_eq i h st res; rw [e]; exact hc

/-- R385: a command that is refused, or done, at once, with a status and no result. -/
theorem replied_takeSlot (s : State) {i : Nat} (h : Nat) {st : Nat} (hi : i < 32) (hst : st < 256) :
    replied s ((s.takeSlot i).replyHost i h st []) i h st [] := replied_replyHost h hi hst (by simp) rfl rfl

/-- R385: the command of a taken slot that replies later. -/
theorem runs_runCmd {s u : State} {i : Nat} (h : Nat) (p : List Byte) (wait arg : Nat) (hi : i < 32)
    (hn : u.agent.nextSlot = (s.takeSlot i).agent.nextSlot) (hc : u.agent.cmdSlots = (s.takeSlot i).agent.cmdSlots) :
    runs s (u.runCmd i h p wait arg) i h p := ⟨tookSlot_of hi hn hc, _, rfl, rfl, rfl, rfl⟩

/-! ### Rows -/

/-- R384, R386: an offered command that breaks no rule is acted on by its row, its slot taken. -/
theorem cmdRow_offered {ins : Instr} {s : State} {i h op : Nat} {p : List Byte} {sel named mine} (act)
    (hrow : hostRow ins = some (op, sel, named)) (ho : offered s ins i h p) (hw : wellFormed ins h p)
    (hmine : ∀ q, (∀ o v, sel = some (o, v) → cmdNum q o 1 = v) → mine op q = true) :
    cmdRow mine named act s = .next (act (s.takeSlot i) i h p) := by
  obtain ⟨-, hslot, hcmd, -, hh, hp, hv, hr, hl, op', sel', named', hrow', hop, hsel⟩ := ho
  obtain ⟨rfl, rfl, rfl⟩ : op = op' ∧ sel = sel' ∧ named = named' := by simpa [hrow] using hrow'
  refine cmdRow_acts (nextCmd_of hslot hcmd hh hp hv hr) ?_ (hdrPlen_eq h ▸ hl) hw.1 (hw.2 _ _ _ hrow)
  rw [hdrOp_eq, hop]
  exact hmine p hsel

end Sys2Proof.Machine
end

section
/-! Frames: what messages, refusals and the names of Skeins leave (R172, R176, R216, R217, R227), and what the release of a kernel
leaves (R251, R252). -/

namespace Sys2Proof.Machine

/-- R15: a core that is listed stays listed. -/
def State.Lists (s t : State) : Prop := ∀ c, tabGet s.cores c ≠ none → tabGet t.cores c ≠ none

theorem State.Lists.trans {s t u : State} (h : s.Lists t) (g : t.Lists u) : s.Lists u := fun c hc => g c (h c hc)
theorem State.lists_setCore (s : State) (c : Nat) (k : Core) : s.Lists (s.setCore c k) := fun d hd => by
  by_cases h : d = c
  · subst h; simp [State.setCore]
  · rwa [State.setCore, tabGet_tabSet_ne _ _ h]

/-- From s to t only cores, requests, the Reel, rotated operands, the pod's gateways, and of the agent its messages, names and
migrations have changed, and every core listed is listed still. -/
structure State.Quiet (s t : State) : Prop where
  eq : t = { s with
    cores := t.cores, reqs := t.reqs, inj0 := t.inj0, inj1 := t.inj1, rotated := t.rotated, pod := t.pod
    agent := { s.agent with
      inbox := t.agent.inbox, nsDeposits := t.agent.nsDeposits, names := t.agent.names, ranges := t.agent.ranges
      migrations := t.agent.migrations } }
  lists : s.Lists t

namespace State.Quiet
variable {s t u : State}

theorem refl (s : State) : s.Quiet s := ⟨rfl, fun _ h => h⟩
theorem trans (h : s.Quiet t) (g : t.Quiet u) : s.Quiet u := ⟨g.eq.trans (by rw [h.eq]), h.lists.trans g.lists⟩
/-- A fold of quiet steps is quiet. -/
theorem foldl {f : State → α → State} (hf : ∀ (s : State) (x : α), s.Quiet (f s x)) (l : List α) (s : State) : s.Quiet (l.foldl f s) := by
  induction l generalizing s with
  | nil => exact refl s
  | cons x r ih => exact (hf s x).trans (ih _)

theorem mem (h : s.Quiet t) : t.mem = s.mem := by rw [h.eq]
theorem host (h : s.Quiet t) : t.host = s.host := by rw [h.eq]
theorem resvs (h : s.Quiet t) : t.resvs = s.resvs := by rw [h.eq]
theorem cmd (h : s.Quiet t) : t.agent.cmd = s.agent.cmd := by rw [h.eq]
theorem kernels (h : s.Quiet t) : t.agent.kernels = s.agent.kernels := by rw [h.eq]
theorem fence (h : s.Quiet t) (k : Nat) : t.fence k = s.fence k := by rw [h.eq]; rfl

/-! ### Cores and messages -/

theorem setCore (s : State) (c : Nat) (k : Core) : s.Quiet (s.setCore c k) := ⟨rfl, s.lists_setCore c k⟩
theorem updCore (s : State) (c : Nat) (f : Core → Core) : s.Quiet (s.updCore c f) := setCore s c _
theorem deliver (s : State) (e : Endpoint) (m : Msg) : s.Quiet (s.deliver e m) := by
  unfold State.deliver
  dsimp only
  split
  · exact updCore s _ _
  · split
    · exact ⟨rfl, fun _ h => h⟩
    · split
      · exact ⟨rfl, fun _ h => h⟩
      · split <;> exact ⟨rfl, fun _ h => h⟩
theorem inject (s : State) (x y : Nat) (e : Endpoint) (m : Msg) (src : Nat) : s.Quiet (s.inject x y e m src) := by
  unfold State.inject
  dsimp only
  split
  · exact deliver s e _
  · split <;> exact ⟨rfl, fun _ h => h⟩
theorem fenceRefuse (s : State) (c : Nat) (m : Msg) : s.Quiet (s.fenceRefuse c m) := by
  unfold State.fenceRefuse
  split
  · exact updCore s _ _
  · exact deliver s _ _
theorem post (s : State) (c : Nat) (m : Msg) : s.Quiet (s.post c m) := by
  have h1 : s.Quiet (if m.isNotice then s else s.updCore c (Core.countSent · m.prio)) := by
    split
    · exact refl s
    · exact updCore s _ _
  unfold State.post
  dsimp only
  split
  · exact h1.trans (fenceRefuse _ _ _)
  · exact h1.trans (inject _ _ _ _ _ _)
theorem refuse (s : State) (c reason : Nat) (m : Msg) : s.Quiet (s.refuse c reason m) := post s c _
theorem depRefuse (s : State) (c : Nat) (svc : Bool) (reason : Nat) (m : Msg) : s.Quiet (s.depRefuse c svc reason m) := by
  cases svc
  · exact (updCore s _ _).trans (refuse _ _ _ _)
  · exact inject s _ _ _ _ _
theorem tookOrdered (s : State) (m : Msg) : s.Quiet (s.tookOrdered m) := by
  obtain ⟨n, h⟩ := s.tookOrdered_eq m
  rw [h]
  exact ⟨rfl, fun _ h => h⟩

/-! ### Names and migrations -/

theorem exitName (s : State) (n : Nat) : s.Quiet (s.exitName n) := by
  unfold State.exitName
  split
  · exact ⟨rfl, fun _ h => h⟩
  · exact refl s
theorem exitGone (s : State) (l : List Resident) (c : Nat) : s.Quiet (s.exitGone l c) := by
  unfold State.exitGone
  exact foldl (fun s (r : Resident) => exitName s r.name) _ s
theorem dropCache (s : State) (c n : Nat) : s.Quiet (s.dropCache c n) := by
  unfold State.dropCache
  split
  · exact ⟨rfl, fun _ h => h⟩
  · exact refl s
theorem refuseHeld (s : State) (p : Migration → Bool) (svc : Bool) (reason : Nat) : s.Quiet (s.refuseHeld p svc reason) := by
  unfold State.refuseHeld
  extract_lets a s1
  have h1 : s.Quiet s1 := ⟨rfl, fun _ h => h⟩
  exact h1.trans (foldl (fun s (g : Migration) => foldl (fun s m => depRefuse s g.dst svc reason m) g.held s) _ s1)
theorem refuseLate (s : State) (c : Nat) : s.Quiet (s.refuseLate c) := by
  unfold State.refuseLate
  exact (updCore s c _).trans (foldl (fun s m => depRefuse s c true rNoSuchGroup m) _ _)

/-! ### Contexts, links and the release of a core -/

theorem abortWaits (s : State) (c i : Nat) : s.Quiet (s.abortWaits c i) := ⟨rfl, fun _ h => h⟩
theorem abortWaits_ite (s : State) (c i : Nat) (p : Prop) [Decidable p] : s.Quiet (if p then s.abortWaits c i else s) := by
  split
  · exact abortWaits s c i
  · exact refl s
theorem releaseCore (s : State) (k : Kernel) (c : Nat) : s.Quiet (s.releaseCore k c) := by
  unfold State.releaseCore
  extract_lets held old s1 drop other s2 s3
  have h1 : s.Quiet s1 := foldl (fun s i => abortWaits_ite s c i _) _ s
  have h3 : s.Quiet s3 := h1.trans ((updCore s1 c _).trans (exitGone s2 _ c))
  split
  · exact h3.trans (refuseLate s3 c)
  · exact h3
theorem freePort (s : State) (r : Rotated) (h : Nat) (n : Int) : s.Quiet (r.freePort h n s) := by
  unfold Rotated.freePort
  split
  · exact refl s
  · exact updCore s _ _
theorem dropRotated (s : State) (r : Rotated) : s.Quiet (s.dropRotated r) :=
  (foldl (fun s h => freePort s r h _) (List.range (r.crossed.length + 1)) s).trans ⟨rfl, fun _ h => h⟩

end State.Quiet

/-! ### The release of kernels -/

/-- From s to t memory, frames, fence entries, command slots and the next slot stay, and every core listed is listed still. -/
structure State.Calm (s t : State) : Prop where
  mem : t.mem = s.mem
  frames : t.agent.frames = s.agent.frames
  fences : t.agent.fences = s.agent.fences
  cmdSlots : t.agent.cmdSlots = s.agent.cmdSlots
  nextSlot : t.agent.nextSlot = s.agent.nextSlot
  lists : s.Lists t

namespace State.Calm
variable {s t u : State}

theorem refl (s : State) : s.Calm s := ⟨rfl, rfl, rfl, rfl, rfl, fun _ h => h⟩
theorem trans (h : s.Calm t) (g : t.Calm u) : s.Calm u :=
  ⟨g.mem.trans h.mem, g.frames.trans h.frames, g.fences.trans h.fences, g.cmdSlots.trans h.cmdSlots, g.nextSlot.trans h.nextSlot,
    h.lists.trans g.lists⟩
theorem foldl {f : State → α → State} (hf : ∀ (s : State) (x : α), s.Calm (f s x)) (l : List α) (s : State) : s.Calm (l.foldl f s) := by
  induction l generalizing s with
  | nil => exact refl s
  | cons x r ih => exact (hf s x).trans (ih _)
theorem of_quiet (h : s.Quiet t) : s.Calm t := by
  refine ⟨?_, ?_, ?_, ?_, ?_, h.lists⟩ <;> rw [h.eq]
theorem fence (h : s.Calm t) (k : Nat) : t.fence k = s.fence k := by unfold State.fence; rw [h.fences]

theorem closeKernel (s : State) (kid status place : Nat) : s.Calm (s.closeKernel kid status place) := by
  obtain ⟨l, o, h⟩ := s.closeKernel_eq kid status place
  rw [h]
  exact ⟨rfl, rfl, rfl, rfl, rfl, fun _ h => h⟩

end State.Calm

/-- Counting changes counters of the agent alone. -/
theorem State.count_eq (s : State) (i : Nat) : ∃ c, s.count i = { s with agent := { s.agent with counters := c } } := by
  unfold State.count
  split
  · exact ⟨_, rfl⟩
  · exact ⟨_, rfl⟩
theorem State.counts_eq {α : Type} (s : State) (i : Nat) (l : List α) :
    ∃ c, l.foldl (fun s _ => s.count i) s = { s with agent := { s.agent with counters := c } } := by
  induction l generalizing s with
  | nil => exact ⟨_, rfl⟩
  | cons x r ih =>
    obtain ⟨c, hc⟩ := s.count_eq i
    obtain ⟨d, hd⟩ := ih (s.count i)
    exact ⟨d, by rw [List.foldl_cons, hd, hc]⟩
/-- R252: bytes to the host change host memory, reservations and a counter. -/
theorem State.toHost_eq (s : State) (a : Nat) (d : List Byte) : ∃ r c, s.toHost a d =
    { s with host := s.host.store 64 false a d none, resvs := r, agent := { s.agent with counters := c } } := by
  obtain ⟨c, hc⟩ := State.counts_eq { s.clearResvs (.host a) d.length with host := s.host.store 64 false a d none } 4
    (List.range (s.host.partials 64 a d.length))
  exact ⟨_, c, hc⟩
/-- R252, R253: the records of a kernel change host memory, reservations, vectors and counters. -/
theorem State.writeRecords_eq (s : State) (k : Kernel) : ∃ h r m c, s.writeRecords k =
    { s with host := h, resvs := r, msix := m, agent := { s.agent with counters := c } } := by
  unfold State.writeRecords
  split
  · exact ⟨_, _, _, _, rfl⟩
  · have h1 : ∃ h r c, (if k.loaded then s.toHost (k.recN 64 8) (k.jobRecord s) else s) =
        { s with host := h, resvs := r, agent := { s.agent with counters := c } } := by
      split
      · obtain ⟨r, c, h⟩ := s.toHost_eq (k.recN 64 8) (k.jobRecord s); exact ⟨_, r, c, h⟩
      · exact ⟨_, _, _, rfl⟩
    obtain ⟨h, r, c, e1⟩ := h1
    dsimp only
    rw [e1]
    obtain ⟨r2, c2, e2⟩ := State.toHost_eq { s with host := h, resvs := r, agent := { s.agent with counters := c } } (k.recN 56 8)
      (k.completion s.agent.counter)
    rw [e2]
    split
    · obtain ⟨m, c3, e3⟩ := State.interruptHost_eq { s with
        host := h.store 64 false (k.recN 56 8) (k.completion s.agent.counter) none, resvs := r2
        agent := { s.agent with counters := c2 } } (k.recN 36 2)
      exact ⟨_, _, m, c3, e3⟩
    · exact ⟨_, _, _, _, rfl⟩

/-- R251, R252: what the release of a kernel leaves. -/
theorem State.Calm.release (s : State) (kid : Nat) : s.Calm (s.release kid) := by
  unfold State.release
  split
  · exact refl s
  next k _ =>
    split
    · exact refl s
    · have h1 : s.Calm (k.cores.foldl (fun s c => s.releaseCore k c) s) := foldl (fun s c => of_quiet (.releaseCore s k c)) _ s
      dsimp only
      refine h1.trans ?_
      generalize k.cores.foldl (fun s c => s.releaseCore k c) s = u
      obtain ⟨h, r, m, c, e⟩ := (u.updKernel kid fun k => { k with cores := [], areas := [] }).writeRecords_eq
        { k with cores := [], areas := [] }
      rw [e]
      exact ⟨rfl, rfl, rfl, rfl, rfl, fun _ h => h⟩

end Sys2Proof.Machine
end

section
/-! Kernels that a reset fails (R235, R251, R367): what closing and releasing make of every kernel. -/

namespace Sys2Proof.Machine

/-! ### Kernels found by their identifier -/

/-- A change of kernels that keeps identifiers is seen by the kernel found. -/
theorem find_map_kid (l : List Kernel) {f : Kernel → Kernel} (hf : ∀ q, (f q).kid = q.kid) (kid : Nat) :
    (l.map f).find? (fun k => k.kid == kid) = (l.find? fun k => k.kid == kid).map f := by
  rw [List.find?_map]
  congr 2
  funext q
  simp [hf]
/-- The kernel found after a change of those with an identifier. -/
theorem State.kernel_updKernel_map (s : State) (kid' kid : Nat) {f : Kernel → Kernel} (hf : ∀ q, (f q).kid = q.kid) :
    (s.updKernel kid' f).kernel kid = (s.kernel kid).map fun k => if k.kid = kid' then f k else k :=
  find_map_kid s.agent.kernels (fun q => by split <;> simp [hf]) kid
theorem State.kernel_congr {s t : State} (h : t.agent.kernels = s.agent.kernels) (kid : Nat) : t.kernel kid = s.kernel kid := by
  unfold State.kernel; rw [h]

/-! ### Closing and releasing -/

/-- R235: a kernel as it is closed with a status and a placement. -/
def Kernel.closed (status place : Nat) (k : Kernel) : Kernel :=
  { k with st := if status = 0 then .ended else .failed, status := status, badPlace := place, starts := [], part := none }
/-- R251: a kernel whose cores have been released. -/
def Kernel.released (k : Kernel) : Kernel := { k with cores := [], areas := [] }

/-- R235: closing a kernel that is over changes nothing. -/
theorem State.closeKernel_over {s : State} {kid : Nat} {k : Kernel} (status place : Nat) (h : s.kernel kid = some k)
    (ho : k.isOver = true) : s.closeKernel kid status place = s := by
  simp [State.closeKernel, h, ho]
/-- R235: the kernels after one that is not over was closed. -/
theorem State.closeKernel_kernels {s : State} {kid : Nat} {k : Kernel} (status place : Nat) (h : s.kernel kid = some k)
    (ho : k.isOver = false) :
    (s.closeKernel kid status place).agent.kernels = (s.updKernel kid (Kernel.closed status place)).agent.kernels := by
  simp only [State.closeKernel, h, ho, Bool.false_eq_true, if_false]
  split <;> rfl
/-- R251: the cores of a kernel are released without a change of kernels. -/
theorem State.Quiet.releaseCores (s : State) (k : Kernel) (l : List Nat) : s.Quiet (l.foldl (fun s c => s.releaseCore k c) s) :=
  foldl (fun s c => releaseCore s k c) l s
theorem State.release_none {s : State} {kid : Nat} (h : s.kernel kid = none) : s.release kid = s := by simp [State.release, h]
theorem State.release_live {s : State} {kid : Nat} {k : Kernel} (h : s.kernel kid = some k) (ho : k.isOver = false) :
    s.release kid = s := by simp [State.release, h, ho]
/-- R243, R251, R252: the release of a kernel that is over. -/
theorem State.release_over {s : State} {kid : Nat} {k : Kernel} (h : s.kernel kid = some k) (ho : k.isOver = true) :
    s.release kid = ((k.cores.foldl (fun s c => s.releaseCore k c) s).updKernel kid Kernel.released).writeRecords k.released := by
  simp only [State.release, h, ho, Bool.not_true, Bool.false_eq_true, if_false]
  rfl
theorem State.writeRecords_kernels (s : State) (k : Kernel) : (s.writeRecords k).agent.kernels = s.agent.kernels := by
  obtain ⟨h, r, m, c, e⟩ := s.writeRecords_eq k
  rw [e]
/-- R251: the kernels after one that is over was released. -/
theorem State.release_kernels {s : State} {kid : Nat} {k : Kernel} (h : s.kernel kid = some k) (ho : k.isOver = true) :
    (s.release kid).agent.kernels = (s.updKernel kid Kernel.released).agent.kernels := by
  rw [State.release_over h ho, State.writeRecords_kernels]
  show List.map _ _ = List.map _ _
  rw [(State.Quiet.releaseCores s k k.cores).kernels]

/-! ### Kernels that fail with status 8 -/

/-- R252, R367: k' is k, but for what a release takes, or has failed with status 8 where k was not over. -/
def Kernel.Resets (k k' : Kernel) : Prop :=
  (k'.st = k.st ∧ k'.status = k.status) ∨ (k.isOver = false ∧ k'.st = .failed ∧ k'.status = 8)

theorem Kernel.isOver_congr {k k' : Kernel} (h : k'.st = k.st) : k'.isOver = k.isOver := by simp [Kernel.isOver, h]
theorem Kernel.isOver_failed {k : Kernel} (h : k.st = .failed) : k.isOver = true := by simp [Kernel.isOver, h]
theorem Kernel.Resets.refl (k : Kernel) : k.Resets k := .inl ⟨rfl, rfl⟩
theorem Kernel.Resets.trans {a b c : Kernel} (h : a.Resets b) (g : b.Resets c) : a.Resets c := by
  rcases h with ⟨h1, h2⟩ | ⟨h1, h2, h3⟩ <;> rcases g with ⟨g1, g2⟩ | ⟨g1, g2, g3⟩
  · exact .inl ⟨g1.trans h1, g2.trans h2⟩
  · exact .inr ⟨Kernel.isOver_congr h1 ▸ g1, g2, g3⟩
  · exact .inr ⟨h1, g1.trans h2, g2.trans h3⟩
  · rw [Kernel.isOver_failed h2] at g1; cases g1

/-- From s to t every kernel that is found is found still, and is as it was or has failed with status 8. -/
def State.Resets (s t : State) : Prop := ∀ kid k, s.kernel kid = some k → ∃ k', t.kernel kid = some k' ∧ k.Resets k'

namespace State.Resets
variable {s t u : State}

theorem of_kernels (h : t.agent.kernels = s.agent.kernels) : s.Resets t := fun kid k hk =>
  ⟨k, (State.kernel_congr h kid).trans hk, .refl k⟩
theorem trans (h : s.Resets t) (g : t.Resets u) : s.Resets u := fun kid k hk => by
  obtain ⟨k1, h1, r1⟩ := h kid k hk
  obtain ⟨k2, h2, r2⟩ := g kid k1 h1
  exact ⟨k2, h2, r1.trans r2⟩
theorem foldl {f : State → α → State} (hf : ∀ (s : State) (x : α), s.Resets (f s x)) (l : List α) (s : State) :
    s.Resets (l.foldl f s) := by
  induction l generalizing s with
  | nil => exact of_kernels rfl
  | cons x r ih => exact (hf s x).trans (ih _)
/-- A change of every kernel that keeps identifier, state and status. -/
theorem of_map {f : Kernel → Kernel} (h : t.agent.kernels = s.agent.kernels.map f)
    (hf : ∀ q, (f q).kid = q.kid ∧ (f q).st = q.st ∧ (f q).status = q.status) : s.Resets t := fun kid k hk =>
  ⟨f k, by unfold State.kernel at hk ⊢; rw [h, find_map_kid _ (fun q => (hf q).1), hk]; rfl, .inl (hf k).2⟩

/-- R251: a release changes no state and no status. -/
theorem release (s : State) (kid : Nat) : s.Resets (s.release kid) := by
  cases hk : s.kernel kid with
  | none => rw [State.release_none hk]; exact of_kernels rfl
  | some k =>
    cases ho : k.isOver with
    | false => rw [State.release_live hk ho]; exact of_kernels rfl
    | true => exact of_map (State.release_kernels hk ho) fun q => by split <;> exact ⟨rfl, rfl, rfl⟩

/-- R367: closing with status 8 fails the kernel with the identifier where it is not over. -/
theorem closeKernel (s : State) (kid place : Nat) : s.Resets (s.closeKernel kid 8 place) := by
  cases hk : s.kernel kid with
  | none => exact of_kernels (by simp [State.closeKernel, hk])
  | some k =>
    cases ho : k.isOver with
    | true => rw [State.closeKernel_over 8 place hk ho]; exact of_kernels rfl
    | false =>
      intro kid' q hq
      have hmap := s.kernel_updKernel_map kid kid' (f := Kernel.closed 8 place) fun _ => rfl
      rw [hq, Option.map_some] at hmap
      refine ⟨_, (State.kernel_congr (State.closeKernel_kernels 8 place hk ho) kid').trans hmap, ?_⟩
      by_cases hkid : q.kid = kid
      · obtain rfl : kid' = kid := (State.kernel_kid hq).symm.trans hkid
        obtain rfl : k = q := Option.some.inj (hk.symm.trans hq)
        rw [if_pos hkid]
        exact .inr ⟨ho, rfl, rfl⟩
      · rw [if_neg hkid]
        exact .refl q

end State.Resets

/-- R252, R367: what a reset does to a kernel: it fails with status 8, and its cores are released. -/
def State.resetKernel (s : State) (kid : Nat) : State := (s.closeKernel kid 8 0xFF).release kid

theorem State.Resets.resetKernel (s : State) (kid : Nat) : s.Resets (s.resetKernel kid) :=
  (closeKernel s kid 0xFF).trans (release _ kid)
theorem State.Calm.resetKernel (s : State) (kid : Nat) : s.Calm (s.resetKernel kid) :=
  (closeKernel s kid 8 0xFF).trans (release _ kid)

/-- R367: a kernel that a reset strikes has failed with status 8, unless it was over another way. -/
theorem State.resetKernel_self {s : State} {kid : Nat} {k : Kernel} (hk : s.kernel kid = some k)
    (h : k.isOver = false ∨ (k.st = .failed ∧ k.status = 8)) :
    ∃ q, (s.resetKernel kid).kernel kid = some q ∧ q.st = .failed ∧ q.status = 8 := by
  have hclose : ∃ q, (s.closeKernel kid 8 0xFF).kernel kid = some q ∧ q.st = .failed ∧ q.status = 8 := by
    rcases h with ho | ⟨hst, hstatus⟩
    · refine ⟨k.closed 8 0xFF, ?_, rfl, rfl⟩
      rw [State.kernel_congr (State.closeKernel_kernels 8 0xFF hk ho)]
      exact State.kernel_updKernel _ hk fun _ h => h
    · rw [State.closeKernel_over 8 0xFF hk (Kernel.isOver_failed hst)]
      exact ⟨k, hk, hst, hstatus⟩
  obtain ⟨q, hq, hst, hstatus⟩ := hclose
  obtain ⟨q', hq', hr⟩ := State.Resets.release (s.closeKernel kid 8 0xFF) kid kid q hq
  rcases hr with ⟨h1, h2⟩ | ⟨ho, -⟩
  · exact ⟨q', hq', h1.trans hst, h2.trans hstatus⟩
  · rw [Kernel.isOver_failed hst] at ho; cases ho

/-- R367: every kernel of a list that a reset strikes has failed with status 8. -/
theorem State.resetKernels_fails {s : State} {l : List Kernel} {x : Kernel} (hx : x ∈ l) (hk : s.kernel x.kid = some x)
    (ho : x.isOver = false) :
    ∃ q, (l.foldl (fun s y => s.resetKernel y.kid) s).kernel x.kid = some q ∧ q.st = .failed ∧ q.status = 8 := by
  obtain ⟨a, b, rfl⟩ := List.append_of_mem hx
  have steps (l : List Kernel) (s : State) : s.Resets (l.foldl (fun s y => s.resetKernel y.kid) s) :=
    State.Resets.foldl (fun s (y : Kernel) => State.Resets.resetKernel s y.kid) l s
  rw [List.foldl_append, List.foldl_cons]
  obtain ⟨q1, h1, r1⟩ := steps a s x.kid x hk
  have hq1 : q1.isOver = false ∨ (q1.st = .failed ∧ q1.status = 8) := by
    rcases r1 with ⟨hst, -⟩ | ⟨-, h8⟩
    · exact .inl (Kernel.isOver_congr hst ▸ ho)
    · exact .inr h8
  obtain ⟨q2, h2, hst, hstatus⟩ := State.resetKernel_self h1 hq1
  obtain ⟨q3, h3, r3⟩ := steps b _ x.kid q2 h2
  rcases r3 with ⟨g1, g2⟩ | ⟨g, -⟩
  · exact ⟨q3, h3, g1.trans hst, g2.trans hstatus⟩
  · rw [Kernel.isOver_failed hst] at g; cases g

end Sys2Proof.Machine
end

section
/-! FENCE_RECT and RESET_RECT (R364, R365, R367): what the start of a group reset does, and the commands that start one. -/

namespace Sys2Proof.Machine
open Sys2Proof.Claim

/-! ### The steps of a group reset's start -/

/-- R367 step 2: what waits at a core is refused quietly. -/
theorem State.Quiet.refuseQueued (s : State) (c : Nat) : s.Quiet (s.refuseQueued c) := by
  unfold State.refuseQueued
  extract_lets k b all e s1 s2 s3
  have h1 : s.Quiet s1 := updCore s c _
  have h2 : s1.Quiet s2 := foldl (fun s (d : Dir × Msg) => updCore s (neighbour c d.1) _) _ s1
  have h3 : s2.Quiet s3 := foldl (fun s m => tookOrdered s m) _ s2
  refine h1.trans (h2.trans (h3.trans (foldl (fun s (m : Msg) => ?_) _ s3)))
  split
  · exact refl s
  · exact refuse s c rFenced m

/-- R367 step 3: the waits of a core's contexts are aborted. -/
def State.abortAll (s : State) (c : Nat) : State :=
  (List.range 32).foldl (fun s i => if (s.ctx c i).st != CtxSt.free then s.abortWaits c i else s) s
/-- R367 step 3: a core stops: what the start of a group reset does at each of its cores in the end. -/
def State.stopCore (s : State) (c : Nat) : State := (s.abortAll c).updCore c fun x => { x with stopped := true }

theorem State.Quiet.abortAll (s : State) (c : Nat) : s.Quiet (s.abortAll c) :=
  foldl (fun s i => abortWaits_ite s c i _) _ s
theorem State.Quiet.stopCore (s : State) (c : Nat) : s.Quiet (s.stopCore c) := (abortAll s c).trans (updCore _ c _)

/-- R162: aborting waits changes requests alone. -/
theorem State.abortAll_cores (s : State) (c : Nat) : (s.abortAll c).cores = s.cores := by
  unfold State.abortAll
  generalize List.range 32 = l
  induction l generalizing s with
  | nil => rfl
  | cons i r ih => rw [List.foldl_cons, ih]; split <;> rfl
/-- R367: a core that stops is stopped, and one that was stopped stays so. -/
theorem State.stopped_stopCore (s : State) (c d : Nat) (h : d = c ∨ (s.core d).stopped = true) :
    ((s.stopCore c).core d).stopped = true := by
  by_cases hd : d = c
  · rw [hd, State.stopCore, State.core_updCore_self]
  · have hcore : (s.abortAll c).core d = s.core d := by unfold State.core; rw [State.abortAll_cores]
    rw [State.stopCore, State.core_updCore_ne _ _ hd, hcore]
    exact h.resolve_left hd
/-- R367: each of the cores that stop is stopped. -/
theorem State.stopped_stopCores (l : List Nat) (s : State) (d : Nat) (h : d ∈ l ∨ (s.core d).stopped = true) :
    ((l.foldl State.stopCore s).core d).stopped = true := by
  induction l generalizing s with
  | nil => exact h.resolve_left (List.not_mem_nil)
  | cons c r ih =>
    rw [List.foldl_cons]
    refine ih (s.stopCore c) ?_
    rcases h with h | h
    · rcases List.mem_cons.1 h with h | h
      · exact .inr (s.stopped_stopCore c d (.inl h))
      · exact .inl h
    · exact .inr (s.stopped_stopCore c d (.inr h))

theorem mem_keys_of_tabGet {t : Tab α} {c : Nat} (h : tabGet t c ≠ none) : c ∈ t.map (·.1) := by
  induction t with
  | nil => simp [tabGet] at h
  | cons p r ih =>
    obtain ⟨a, b⟩ := p
    by_cases ha : a = c
    · simp [ha]
    · rw [tabGet, if_neg ha] at h
      exact List.mem_cons_of_mem _ (ih h)

/-! ### The start of a group reset -/

/-- R364: whether a core of the array lies in a rectangle whose entry is RESETTING. -/
def Fence.inside (f : Fence) (c : Nat) : Bool := c < numCores && ({ f with st := .resetting } : Fence).holds c
/-- R367: whether a group reset strikes a kernel. -/
def Fence.strikes (f : Fence) (k : Kernel) : Bool := !k.isOver && k.cores.any f.inside
/-- R367: a kernel keeps no core of the rectangle that it halted. -/
def Kernel.spare (f : Fence) (k : Kernel) : Kernel := { k with halted := k.halted.filter fun c => !f.inside c }
/-- R367: the state once the kernels in the rectangle have failed. -/
def State.resetStruck (s : State) (k : Nat) (f : Fence) : State :=
  let s0 := s.setFence k { f with st := .resetting }
  let s1 := (s0.agent.kernels.filter f.strikes).foldl (fun s x => s.resetKernel x.kid) s0
  { s1 with agent := { s1.agent with kernels := s1.agent.kernels.map (Kernel.spare f) } }

/-- R367 steps 1 to 3: after the kernels have failed, the cores that are listed refuse what waits at them, and stop. -/
theorem State.startReset_eq (s : State) (k : Nat) (f : Fence) :
    let s2 := s.resetStruck k f
    let cs := (s2.cores.map (·.1)).filter f.inside
    s.startReset k f =
      cs.foldl State.stopCore ((cs.foldl State.refuseQueued s2).refuseHeld (fun m => f.inside m.dst) false rFenced) := rfl

theorem State.Calm.setFence_of (s : State) (k : Nat) (f : Fence) :
    (s.setFence k f).mem = s.mem ∧ (s.setFence k f).agent.frames = s.agent.frames ∧
    (s.setFence k f).agent.cmdSlots = s.agent.cmdSlots ∧ (s.setFence k f).agent.nextSlot = s.agent.nextSlot ∧
    (s.setFence k f).agent.kernels = s.agent.kernels := by
  unfold State.setFence
  split <;> exact ⟨rfl, rfl, rfl, rfl, rfl⟩

/-- R367: what the failing of kernels leaves. -/
theorem State.calm_resetStruck (s : State) (k : Nat) (f : Fence) : (s.setFence k { f with st := .resetting }).Calm (s.resetStruck k f) := by
  unfold State.resetStruck
  extract_lets s0 s1
  have h : s0.Calm s1 := State.Calm.foldl (fun s (x : Kernel) => State.Calm.resetKernel s x.kid) _ s0
  exact h.trans ⟨rfl, rfl, rfl, rfl, rfl, fun _ h => h⟩
/-- R367: what the refusals and stops leave. -/
theorem State.quiet_startReset (s : State) (k : Nat) (f : Fence) : (s.resetStruck k f).Quiet (s.startReset k f) := by
  rw [State.startReset_eq]
  exact (State.Quiet.foldl State.Quiet.refuseQueued _ _).trans
    ((State.Quiet.refuseHeld _ _ _ _).trans (State.Quiet.foldl State.Quiet.stopCore _ _))
/-- R367: what the start of a group reset leaves beside its fence entry. -/
theorem State.calm_startReset (s : State) (k : Nat) (f : Fence) : (s.setFence k { f with st := .resetting }).Calm (s.startReset k f) :=
  (s.calm_resetStruck k f).trans (.of_quiet (s.quiet_startReset k f))

/-- R367: the cores of the rectangle are stopped. -/
theorem State.stopped_startReset (s : State) (k : Nat) (f : Fence) {c : Nat} (hc : f.inside c = true) (hl : tabGet s.cores c ≠ none) :
    ((s.startReset k f).core c).stopped = true := by
  rw [State.startReset_eq]
  refine State.stopped_stopCores _ _ c (.inl (List.mem_filter.2 ⟨mem_keys_of_tabGet ?_, hc⟩))
  refine (s.calm_resetStruck k f).lists c ?_
  rwa [State.setFence_cores]

/-- R367: the kernels in the rectangle have failed with status 8. -/
theorem State.failed_startReset (s : State) (k : Nat) (f : Fence) {x : Kernel} (hx : s.kernel x.kid = some x) (ho : x.isOver = false)
    {c : Nat} (hc : c ∈ x.cores) (hin : f.inside c = true) :
    ∃ q, (s.startReset k f).kernel x.kid = some q ∧ q.st = .failed ∧ q.status = 8 := by
  rw [State.kernel_congr (s.quiet_startReset k f).kernels]
  unfold State.resetStruck
  extract_lets s0 s1
  have hkern : s0.agent.kernels = s.agent.kernels := (State.Calm.setFence_of s k _).2.2.2.2
  have hmem : x ∈ s0.agent.kernels.filter f.strikes := by
    rw [hkern]
    refine List.mem_filter.2 ⟨List.mem_of_find?_eq_some hx, ?_⟩
    simp only [Fence.strikes, ho, Bool.not_false, Bool.true_and, List.any_eq_true]
    exact ⟨c, hc, hin⟩
  obtain ⟨q, hq, hst, hstatus⟩ := State.resetKernels_fails hmem ((State.kernel_congr hkern _).trans hx) ho
  have hspare : s1.Resets { s1 with agent := { s1.agent with kernels := s1.agent.kernels.map (Kernel.spare f) } } :=
    .of_map rfl fun _ => ⟨rfl, rfl, rfl⟩
  obtain ⟨q', hq', hr⟩ := hspare _ q hq
  rcases hr with ⟨h1, h2⟩ | ⟨g, -⟩
  · exact ⟨q', hq', h1.trans hst, h2.trans hstatus⟩
  · rw [Kernel.isOver_failed hst] at g; cases g

/-! ### The commands -/

/-- R365, R367: that a command has started the group reset of entry k as f, as the claims say it. -/
theorem resets_startReset {s : State} {i h k : Nat} {p : List Byte} (f : Fence) (hi : i < 32) (hk : k < 32) :
    let t := ((s.takeSlot i).startReset k f).runCmd i h p 3 k
    runs s t i h p ∧ t.fence k = { f with st := .resetting } ∧ (∀ j, j ≠ k → t.fence j = s.fence j) ∧
    (∀ c, c < numCores → tabGet s.cores c ≠ none → ({ f with st := .resetting } : Fence).holds c = true → (t.core c).stopped = true) ∧
    (∀ x c, s.kernel x.kid = some x → x.isOver = false → c ∈ x.cores → c < numCores → ({ f with st := .resetting } : Fence).holds c = true →
      ∃ q, t.kernel x.kid = some q ∧ q.st = .failed ∧ q.status = 8) := by
  have hcalm := (s.takeSlot i).calm_startReset k f
  obtain ⟨-, -, hslots, hnext, -⟩ := State.Calm.setFence_of (s.takeSlot i) k { f with st := .resetting }
  have inside {c : Nat} (hc : c < numCores) (hin : ({ f with st := .resetting } : Fence).holds c = true) : f.inside c = true := by
    simp [Fence.inside, hc, hin]
  refine ⟨runs_runCmd h p 3 k hi (hcalm.nextSlot.trans hnext) (hcalm.cmdSlots.trans hslots), ?_, fun j hj => ?_,
    fun c hc hl hin => ?_, fun x c hx ho hxc hc hin => ?_⟩
  · exact (hcalm.fence k).trans (State.fence_setFence_self _ _ hk)
  · exact (hcalm.fence j).trans (State.fence_setFence_ne _ _ hj)
  · exact (s.takeSlot i).stopped_startReset k f (inside hc hin) hl
  · exact (s.takeSlot i).failed_startReset k f hx ho hxc (inside hc hin)

/-- The fields of FENCE_RECT create's rectangle. -/
theorem fenceFields (r : Nat) : bits r 5 0 = r % 64 ∧ bits r 11 6 = r / 2 ^ 6 % 64 ∧ bits r 17 12 = r / 2 ^ 12 % 64 ∧
    bits r 23 18 = r / 2 ^ 18 % 64 := by
  simp [bits, Nat.shiftRight_eq_div_pow]

/-- A fence entry in use that meets another is found among the entries. -/
theorem State.any_fences (s : State) (p : Fence → Bool) :
    s.agent.fences.toList.any p = true ↔ ∃ j, j < 32 ∧ p (s.fence j) = true := by
  rw [List.any_eq_true]
  constructor
  · rintro ⟨f, hf, hp⟩
    obtain ⟨j, hj, rfl⟩ := List.getElem_of_mem hf
    have hj' : j < 32 := by simpa using hj
    exact ⟨j, hj', by simpa [State.fence, hj'] using hp⟩
  · rintro ⟨j, hj, hp⟩
    rw [State.fence, dif_pos hj] at hp
    exact ⟨_, by simp, hp⟩


/-- R364: that a rectangle meets an entry in use, as FENCE_RECT create tests it. -/
theorem State.meets_any (s : State) (f : Fence) : (s.agent.fences.toList.any fun g => g.st != .free && f.meets g) = true ↔
    ¬ ∀ j, j < 32 → (s.fence j).st ≠ .free → f.meets (s.fence j) = false := by
  rw [State.any_fences]
  simp

/-- R365: the rectangle that FENCE_RECT create names. -/
def createdFence (p : List Byte) : Fence :=
  let r := cmdNum p 4 3
  { st := .resetting, tenant := cmdNum p 2 2, x0 := r % 64, y0 := r / 2 ^ 6 % 64, wm := r / 2 ^ 12 % 64, hm := r / 2 ^ 18 % 64 }
/-- R364, R365: that an entry and a rectangle are in range. -/
def inRange (k : Nat) (f : Fence) : Prop := k < 32 ∧ f.tenant ≤ 1022 ∧ f.x0 + f.wm < 48 ∧ f.y0 + f.hm < 48
/-- R365: that an entry is FREE and no entry in use meets a rectangle. -/
def State.fenceFree (s : State) (k : Nat) (f : Fence) : Prop :=
  (s.fence k).st = .free ∧ ∀ j, j < 32 → (s.fence j).st ≠ .free → f.meets (s.fence j) = false

/-- R365: what FENCE_RECT create does. -/
theorem fenceRectCreate_next {s : State} {i h : Nat} {p : List Byte} (ho : offered s .fenceRectCreate i h p)
    (hw : wellFormed .fenceRectCreate h p) :
    let u := s.takeSlot i
    let k := cmdNum p 1 1
    let f := createdFence p
    ∃ t, exec .fenceRectCreate s = .next t ∧ (¬ inRange k f → t = u.replyHost i h 2 []) ∧
      (inRange k f → ¬ s.fenceFree k f → t = u.replyHost i h 3 []) ∧
      (inRange k f → s.fenceFree k f → t = (u.startReset k f).runCmd i h p 3 k) := by
  intro u k f
  rw [exec_fenceRectCreate, execFenceRectCreate, cmdRow_offered _ rfl ho hw fun q hq => by simp [isFence, hq 0 0 rfl]]
  obtain ⟨h1, h2, h3, h4⟩ := fenceFields (cmdNum p 4 3)
  have hok : (decide (k > 31) || decide (f.tenant > 1022) || decide (f.x0 + f.wm > 47) || decide (f.y0 + f.hm > 47)) = true ↔
      ¬ inRange k f := by
    simp only [Bool.or_eq_true, decide_eq_true_eq, inRange]; omega
  have hfree : ((u.fence k).st != .free || u.agent.fences.toList.any fun g => g.st != .free && f.meets g) = true ↔
      ¬ s.fenceFree k f := by
    rw [Bool.or_eq_true, bne_iff_ne]
    refine (or_congr Iff.rfl (State.meets_any u f)).trans ?_
    exact Classical.not_and_iff_not_or_not.symm
  simp only [h1, h2, h3, h4]
  refine ⟨_, rfl, fun h => if_pos (hok.2 h), fun h g => ?_, fun h g => ?_⟩
  · exact (if_neg fun hn => hok.1 hn h).trans (if_pos (hfree.2 g))
  · exact (if_neg fun hn => hok.1 hn h).trans (if_neg fun hn => hfree.1 hn g)

/-- R365: what a change of an entry's state at once does. -/
theorem fenceMove_next {ins : Instr} {a : Nat} (src dst : FenceSt) {s : State} {i h : Nat} {p : List Byte}
    (hrow : hostRow ins = some (4, some (0, a), [(0, 7)])) (ho : offered s ins i h p) (hw : wellFormed ins h p) :
    let u := s.takeSlot i
    let k := cmdNum p 1 1
    let e := s.fence k
    ∃ t, fenceMove a src dst s = .next t ∧ (32 ≤ k → t = u.replyHost i h 2 []) ∧
      (k < 32 → e.st ≠ src → t = u.replyHost i h 3 []) ∧
      (k < 32 → e.st = src → t = (u.setFence k { e with st := dst }).replyHost i h 0 []) := by
  intro u k e
  rw [fenceMove, cmdRow_offered _ hrow ho hw fun q hq => by simp [isFence, hq 0 a rfl]]
  refine ⟨_, rfl, fun h => if_pos h, fun h g => ?_, fun h g => ?_⟩
  · exact (if_neg (Nat.not_lt.2 (Nat.le_of_lt_succ h))).trans (if_pos (bne_iff_ne.2 g))
  · exact (if_neg (Nat.not_lt.2 (Nat.le_of_lt_succ h))).trans (if_neg fun hn => bne_iff_ne.1 hn g)

/-- R365, R367: what a command that resets a rectangle in use as a group does. -/
theorem resetEntry_cases (removal : Bool) (s : State) (i h : Nat) (p : List Byte) :
    let u := s.takeSlot i
    let k := cmdNum p 1 1
    let e := s.fence k
    let t := resetEntry removal u i h p
    (32 ≤ k → t = u.replyHost i h 2 []) ∧
    (k < 32 → e.st ≠ .active → e.st ≠ .sealed → t = u.replyHost i h 3 []) ∧
    (k < 32 → e.st = .active ∨ e.st = .sealed → t = (u.startReset k { e with removal := removal }).runCmd i h p 3 k) := by
  intro u k e t
  refine ⟨fun h => if_pos h, fun h g1 g2 => ?_, fun h g => ?_⟩
  · exact (if_neg (Nat.not_lt.2 (Nat.le_of_lt_succ h))).trans
      (if_pos (Bool.and_eq_true_iff.2 ⟨bne_iff_ne.2 g1, bne_iff_ne.2 g2⟩))
  · refine (if_neg (Nat.not_lt.2 (Nat.le_of_lt_succ h))).trans (if_neg fun hn => ?_)
    obtain ⟨n1, n2⟩ := Bool.and_eq_true_iff.1 hn
    exact g.elim (bne_iff_ne.1 n1) (bne_iff_ne.1 n2)

/-- R364 to R367: the commands on fence entries do what the claims say. -/
theorem fencesAreCommanded : FencesAreCommanded := by
  intro s i h p k e resets
  have refused {t : State} {st : Nat} (hi : i < 32) (hst : st < 256) (ht : t = (s.takeSlot i).replyHost i h st []) :
      replied s t i h st [] ∧ t.cores = s.cores ∧ ∀ j, t.fence j = s.fence j := by
    rw [ht]
    exact ⟨replied_takeSlot s h hi hst, by simp, fun j => by simp⟩
  refine ⟨fun ho hw => ?_, fun ins src dst hins ho hw => ?_, fun ins removal hins ho hw => ?_⟩
  · intro r f ok free
    have hi := ho.1
    obtain ⟨t, ht, hbad, hmet, hgo⟩ := fenceRectCreate_next ho hw
    refine ⟨t, ht, fun h1 h2 => ?_, fun h1 => ?_, fun h1 h2 => ?_⟩
    · rw [hgo h1 h2]
      exact resets_startReset f hi h1.1
    · obtain ⟨hr, hc, -⟩ := refused hi (by decide) (hbad h1)
      exact ⟨hr, hc⟩
    · obtain ⟨hr, hc, -⟩ := refused hi (by decide) (hmet h1 h2)
      exact ⟨hr, hc⟩
  · have hi := ho.1
    have hmove : ∃ a, hostRow ins = some (4, some (0, a), [(0, 7)]) ∧ exec ins s = fenceMove a src dst s := by
      simp only [List.mem_cons, Prod.mk.injEq, List.not_mem_nil, or_false] at hins
      rcases hins with ⟨rfl, rfl, rfl⟩ | ⟨rfl, rfl, rfl⟩
      · exact ⟨1, rfl, rfl⟩
      · exact ⟨2, rfl, rfl⟩
    obtain ⟨a, hrow, hexec⟩ := hmove
    obtain ⟨t, ht, hbad, hother, hgo⟩ := fenceMove_next src dst hrow ho hw
    have hcase : t.cores = s.cores ∧ ∀ j, j ≠ k → t.fence j = s.fence j := by
      by_cases hk : 32 ≤ k
      · obtain ⟨-, hc, hf⟩ := refused hi (by decide) (hbad hk)
        exact ⟨hc, fun j _ => hf j⟩
      · by_cases hst : e.st = src
        · rw [hgo (Nat.lt_of_not_le hk) hst]
          exact ⟨by simp, fun j hj => by rw [State.fence_replyHost, State.fence_setFence_ne _ _ hj, State.fence_takeSlot]⟩
        · obtain ⟨-, hc, hf⟩ := refused hi (by decide) (hother (Nat.lt_of_not_le hk) hst)
          exact ⟨hc, fun j _ => hf j⟩
    refine ⟨t, hexec.trans ht, hcase.1, hcase.2, fun hk hst => ?_, fun hk => ?_, fun hk hst => ?_⟩
    · rw [hgo hk hst]
      obtain ⟨-, -, hslots, hnext, -⟩ := State.Calm.setFence_of (s.takeSlot i) k { e with st := dst }
      exact ⟨replied_replyHost h hi (by decide) (by simp) hnext hslots, by
        rw [State.fence_replyHost, State.fence_setFence_self _ _ hk]⟩
    · exact (refused hi (by decide) (hbad hk)).1
    · obtain ⟨hr, -, hf⟩ := refused hi (by decide) (hother hk hst)
      exact ⟨hr, hf k⟩
  · have hi := ho.1
    have hreset : exec ins s = .next (resetEntry removal (s.takeSlot i) i h p) := by
      simp only [List.mem_cons, Prod.mk.injEq, List.not_mem_nil, or_false] at hins
      rcases hins with ⟨rfl, rfl⟩ | ⟨rfl, rfl⟩
      · rw [exec_fenceRectRemove, execFenceRectRemove, cmdRow_offered _ rfl ho hw fun q hq => by simp [isFence, hq 0 3 rfl]]
      · rw [exec_resetRect, execResetRect, cmdRow_offered _ rfl ho hw fun _ _ => rfl]
    obtain ⟨hbad, hother, hgo⟩ := resetEntry_cases removal s i h p
    refine ⟨_, hreset, fun hk hst => ?_, fun hk => ?_, fun hk h1 h2 => ?_⟩
    · rw [hgo hk hst]
      exact resets_startReset { e with removal := removal } hi hk
    · obtain ⟨hr, hc, -⟩ := refused hi (by decide) (hbad hk)
      exact ⟨hr, hc⟩
    · obtain ⟨hr, hc, -⟩ := refused hi (by decide) (hother hk h1 h2)
      exact ⟨hr, hc⟩

end Sys2Proof.Machine
end

section
/-! How a group reset finishes (R7, R365, R367): what its refusals leave of every core, and the reset of the rectangle's own. -/

namespace Sys2Proof.Machine
open Sys2Proof.Claim

/-! ### What a refusal leaves of a core -/

/-- A core that differs in its links, and in answers that have newly arrived. -/
def Core.Gets (k k' : Core) : Prop :=
  ∃ d q, (∀ m ∈ q, m.answer = true) ∧ k' = { k with side := d, inbox := { k.inbox with arrived := k.inbox.arrived ++ q } }
/-- A core whose contexts, drained mark and incoming messages are as before, but for answers that have newly arrived. -/
def Core.Keeps (k k' : Core) : Prop :=
  k'.ctxs = k.ctxs ∧ k'.drained = k.drained ∧ k'.inbox.reasm = k.inbox.reasm ∧ k'.inbox.deposits = k.inbox.deposits ∧
    ∃ q, (∀ m ∈ q, m.answer = true) ∧ k'.inbox.arrived = k.inbox.arrived ++ q

theorem Core.Gets.refl (k : Core) : k.Gets k := ⟨k.side, [], by simp, by simp⟩
theorem Core.Gets.trans {a b c : Core} (h : a.Gets b) (g : b.Gets c) : a.Gets c := by
  obtain ⟨d, q, hq, rfl⟩ := h
  obtain ⟨e, r, hr, rfl⟩ := g
  exact ⟨e, q ++ r, fun m hm => (List.mem_append.1 hm).elim (hq m) (hr m), by simp⟩
theorem Core.Gets.keeps {a b : Core} (h : a.Gets b) : a.Keeps b := by
  obtain ⟨d, q, hq, rfl⟩ := h
  exact ⟨rfl, rfl, rfl, rfl, q, hq, rfl⟩
theorem Core.Keeps.of_eq {a b : Core} (h1 : b.ctxs = a.ctxs) (h2 : b.drained = a.drained) (h3 : b.inbox = a.inbox) : a.Keeps b :=
  ⟨h1, h2, by rw [h3], by rw [h3], [], by simp, by simp [h3]⟩
theorem Core.Keeps.trans {a b c : Core} (h : a.Keeps b) (g : b.Keeps c) : a.Keeps c := by
  obtain ⟨h1, h2, h3, h4, q, hq, h5⟩ := h
  obtain ⟨g1, g2, g3, g4, r, hr, g5⟩ := g
  exact ⟨g1.trans h1, g2.trans h2, g3.trans h3, g4.trans h4, q ++ r, fun m hm => (List.mem_append.1 hm).elim (hq m) (hr m), by
    rw [g5, h5, List.append_assoc]⟩

/-- R366, R367: from s to t the cores of `own` have refused messages: no request has changed, every core keeps its contexts, mark and
incoming messages, and the others get answers alone. -/
structure State.Refuses (own : Nat → Bool) (s t : State) : Prop where
  reqs : t.reqs = s.reqs
  keeps : ∀ c, (s.core c).Keeps (t.core c)
  gets : ∀ c, own c = false → (s.core c).Gets (t.core c)

namespace State.Refuses
variable {own : Nat → Bool} {s t u : State}

theorem of_eq (hr : t.reqs = s.reqs) (hc : t.cores = s.cores) : s.Refuses own t := by
  have h (c : Nat) : t.core c = s.core c := by unfold State.core; rw [hc]
  exact ⟨hr, fun c => by rw [h]; exact (Core.Gets.refl _).keeps, fun c _ => by rw [h]; exact .refl _⟩
theorem trans (h : s.Refuses own t) (g : t.Refuses own u) : s.Refuses own u :=
  ⟨g.reqs.trans h.reqs, fun c => (h.keeps c).trans (g.keeps c), fun c hc => (h.gets c hc).trans (g.gets c hc)⟩
theorem foldl_mem {f : State → α → State} (l : List α) (hf : ∀ (s : State), ∀ x ∈ l, s.Refuses own (f s x)) (s : State) :
    s.Refuses own (l.foldl f s) := by
  induction l generalizing s with
  | nil => exact of_eq rfl rfl
  | cons x r ih =>
    rw [List.foldl_cons]
    exact (hf s x (List.mem_cons_self ..)).trans (ih (fun s y hy => hf s y (List.mem_cons_of_mem _ hy)) _)
theorem foldl {f : State → α → State} (hf : ∀ (s : State) (x : α), s.Refuses own (f s x)) (l : List α) (s : State) :
    s.Refuses own (l.foldl f s) := foldl_mem l (fun s x _ => hf s x) s
/-- A core gets answers. -/
theorem updCore_gets (s : State) (c : Nat) (f : Core → Core) (hf : (s.core c).Gets (f (s.core c))) : s.Refuses own (s.updCore c f) := by
  have h (d : Nat) : (s.core d).Gets ((s.updCore c f).core d) := by
    by_cases hd : d = c
    · rw [hd, State.core_updCore_self]; exact hf
    · rw [State.core_updCore_ne _ _ hd]; exact .refl _
  exact ⟨rfl, fun d => (h d).keeps, fun d _ => h d⟩
/-- One of the own cores changes. -/
theorem updCore_own (s : State) {c : Nat} (f : Core → Core) (hc : own c = true) (hf : (s.core c).Keeps (f (s.core c))) :
    s.Refuses own (s.updCore c f) := by
  refine ⟨rfl, fun d => ?_, fun d hd => ?_⟩
  · by_cases h : d = c
    · rw [h, State.core_updCore_self]; exact hf
    · rw [State.core_updCore_ne _ _ h]; exact (Core.Gets.refl _).keeps
  · have h : d ≠ c := fun h => by rw [h, hc] at hd; cases hd
    rw [State.core_updCore_ne _ _ h]; exact .refl _

/-! ### Answers that are sent -/

theorem deliver (s : State) (e : Endpoint) {m : Msg} (hm : m.answer = true) : s.Refuses own (s.deliver e m) := by
  unfold State.deliver
  dsimp only
  split
  · refine updCore_gets s _ _ ?_
    rw [hm, Bool.not_true, Bool.and_false, if_neg Bool.false_ne_true]
    exact ⟨_, [_], fun x hx => by rw [List.mem_singleton.1 hx], rfl⟩
  · split
    · exact of_eq rfl rfl
    · split
      · exact of_eq rfl rfl
      · split <;> exact of_eq rfl rfl
theorem inject (s : State) (x y : Nat) (e : Endpoint) {m : Msg} (src : Nat) (hm : m.answer = true) :
    s.Refuses own (s.inject x y e m src) := by
  unfold State.inject
  dsimp only
  split
  · exact deliver s e hm
  · exact of_eq rfl rfl
/-- R366: an own core posts an answer. -/
theorem post (s : State) {c : Nat} {m : Msg} (hc : own c = true) (hm : m.answer = true) : s.Refuses own (s.post c m) := by
  have h1 : s.Refuses own (if m.isNotice then s else s.updCore c (Core.countSent · m.prio)) := by
    split
    · exact of_eq rfl rfl
    · refine updCore_own s _ hc ?_
      unfold Core.countSent
      split <;> exact .of_eq rfl rfl rfl
  unfold State.post
  dsimp only
  split
  · refine h1.trans ?_
    rw [State.fenceRefuse, if_pos hm]
    refine updCore_own _ _ hc ?_
    exact .of_eq rfl rfl rfl
  · exact h1.trans (inject _ _ _ _ _ hm)
/-- R176, R227: a deposit is refused by an own core, or by a service core. -/
theorem depRefuse (s : State) {c : Nat} {svc : Bool} (reason : Nat) (m : Msg) (h : svc = true ∨ own c = true) :
    s.Refuses own (s.depRefuse c svc reason m) := by
  cases svc
  · have hc := h.resolve_left Bool.false_ne_true
    refine (updCore_own s _ hc ?_).trans (post _ hc rfl)
    unfold Core.countRecv
    split <;> exact .of_eq rfl rfl rfl
  · exact inject s _ _ _ _ rfl
/-- R218, R367: the deposits held for migrations are refused by own cores, or by service cores. -/
theorem refuseHeld (s : State) (p : Migration → Bool) (svc : Bool) (reason : Nat) (h : ∀ g, p g = true → svc = true ∨ own g.dst = true) :
    s.Refuses own (s.refuseHeld p svc reason) := by
  unfold State.refuseHeld
  extract_lets a s1
  have h1 : s.Refuses own s1 := of_eq rfl rfl
  refine h1.trans (foldl_mem _ (fun s g hg => ?_) s1)
  exact foldl (fun s m => depRefuse s reason m (h g (List.mem_filter.1 hg).2)) g.held s

/-! ### Names and links -/

theorem exitName (s : State) (n : Nat) : s.Refuses own (s.exitName n) := by
  unfold State.exitName
  split <;> exact of_eq rfl rfl
theorem freePort (s : State) (r : Rotated) (h : Nat) (n : Int) : s.Refuses own (r.freePort h n s) := by
  unfold Rotated.freePort
  split
  · exact of_eq rfl rfl
  · exact updCore_gets s _ _ ⟨_, [], by simp, by simp; rfl⟩
theorem dropRotated (s : State) (r : Rotated) : s.Refuses own (s.dropRotated r) := by
  unfold State.dropRotated
  exact (foldl (fun s h => freePort s r h _) (List.range (r.crossed.length + 1)) s).trans (of_eq rfl rfl)

end State.Refuses

/-! ### The reset of the cores -/

/-- R367 step 4: a core of the rectangle takes its power-on state, and its name cache is forgotten. -/
def State.clearCore (tenant : Core → Nat) (s : State) (c : Nat) : State :=
  ((s.core c).nameCache.foldl (fun s e => s.dropCache c e.1) s).updCore c fun k => k.groupReset (tenant k)

/-- R215: dropping caches changes the name table alone. -/
theorem State.dropCaches_cores (s : State) (c : Nat) (l : List (Nat × Nat)) :
    (l.foldl (fun s e => s.dropCache c e.1) s).cores = s.cores ∧ (l.foldl (fun s e => s.dropCache c e.1) s).reqs = s.reqs := by
  induction l generalizing s with
  | nil => exact ⟨rfl, rfl⟩
  | cons e r ih =>
    have h : (s.dropCache c e.1).cores = s.cores ∧ (s.dropCache c e.1).reqs = s.reqs := by
      unfold State.dropCache
      split <;> exact ⟨rfl, rfl⟩
    rw [List.foldl_cons]
    exact ⟨(ih _).1.trans h.1, (ih _).2.trans h.2⟩
theorem State.Quiet.clearCore (tenant : Core → Nat) (s : State) (c : Nat) : s.Quiet (s.clearCore tenant c) :=
  (foldl (fun s (e : Nat × Nat) => dropCache s c e.1) _ s).trans (updCore _ c _)
theorem State.clearCore_reqs (tenant : Core → Nat) (s : State) (c : Nat) : (s.clearCore tenant c).reqs = s.reqs :=
  (s.dropCaches_cores c (s.core c).nameCache).2
theorem State.core_clearCore (tenant : Core → Nat) (s : State) (c d : Nat) :
    (s.clearCore tenant c).core d = if d = c then (s.core c).groupReset (tenant (s.core c)) else s.core d := by
  have h (e : Nat) : ((s.core c).nameCache.foldl (fun s e => s.dropCache c e.1) s).core e = s.core e := by
    unfold State.core
    rw [(s.dropCaches_cores c _).1]
  unfold State.clearCore
  split
  · next hd => rw [hd, State.core_updCore_self, h]
  · next hd => rw [State.core_updCore_ne _ _ hd, h]
/-- R367: of a list of cores without repetition each is reset once, and no other changes. -/
theorem State.core_clearCores (tenant : Core → Nat) {l : List Nat} (hl : l.Nodup) (s : State) (c : Nat) :
    (l.foldl (State.clearCore tenant) s).core c =
      if c ∈ l then (s.core c).groupReset (tenant (s.core c)) else s.core c := by
  induction l generalizing s with
  | nil => simp
  | cons d r ih =>
    obtain ⟨hd, hr⟩ := List.nodup_cons.1 hl
    rw [List.foldl_cons, ih hr, State.core_clearCore]
    by_cases h : c = d
    · subst h
      simp [hd]
    · simp [h]
theorem State.clearCores_reqs (tenant : Core → Nat) (l : List Nat) (s : State) : (l.foldl (State.clearCore tenant) s).reqs = s.reqs := by
  induction l generalizing s with
  | nil => rfl
  | cons c r ih => rw [List.foldl_cons, ih, State.clearCore_reqs]

/-- R367: what is left of the request of a core in the rectangle: a write that is not performed goes on, for nobody. -/
def Req.orphan (inside : Nat → Bool) (r : Req) : Option Req :=
  if !inside r.core then some r else if r.isWrite && !r.settled then some { r with who := .fibre 32 0 } else none

theorem Req.orphan_some {inside : Nat → Bool} {r q : Req} (h : r.orphan inside = some q) :
    (inside r.core = false ∧ q = r) ∨ (inside r.core = true ∧ r.settled = false ∧ q = { r with who := .fibre 32 0 }) := by
  unfold Req.orphan at h
  split at h
  · next hin => exact .inl ⟨by simpa using hin, (Option.some.inj h).symm⟩
  · next hin =>
    split at h
    · next hset => exact .inr ⟨by simpa using hin, by simp at hset; exact hset.2, (Option.some.inj h).symm⟩
    · cases h

/-- R367: what a group reset leaves of the requests, the reservations and every core, and that fence entries and the command that
runs stay. -/
theorem State.resetCores_spec (s : State) (inside : Nat → Bool) {cs : List Nat} (tenant : Core → Nat) (hcs : cs.Nodup) :
    let t := s.resetCores inside cs tenant
    (∀ j, t.fence j = s.fence j) ∧ t.agent.cmd = s.agent.cmd ∧ t.reqs = s.reqs.filterMap (Req.orphan inside) ∧
    t.resvs = s.resvs.filter (fun r => !inside r.core) ∧
    ∃ u : State, (∀ c, (s.core c).Keeps (u.core c)) ∧ (∀ c, inside c = false → (s.core c).Gets (u.core c)) ∧
      ∀ c, t.core c = if c ∈ cs then (u.core c).groupReset (tenant (u.core c)) else u.core c := by
  unfold State.resetCores
  extract_lets gone lost s0 s1 a s2 s3
  have q1 : s.Quiet s1 := (State.Quiet.refuseHeld s _ _ _).trans ((State.Quiet.refuseHeld _ _ _ _).trans
    (State.Quiet.foldl State.Quiet.exitName _ s0))
  have r1 : s.Refuses inside s1 := (State.Refuses.refuseHeld s _ _ _ fun g hg => .inr hg).trans
    ((State.Refuses.refuseHeld _ _ _ _ fun g _ => .inl rfl).trans (State.Refuses.foldl State.Refuses.exitName _ s0))
  have q3 : s2.Quiet s3 := State.Quiet.foldl State.Quiet.dropRotated _ s2
  have r3 : s2.Refuses inside s3 := State.Refuses.foldl State.Refuses.dropRotated _ s2
  have q4 : s3.Quiet (cs.foldl (State.clearCore tenant) s3) := State.Quiet.foldl (State.Quiet.clearCore tenant) cs s3
  have h4 := State.clearCores_reqs tenant cs s3
  have hreqs : s2.reqs = s.reqs.filterMap (Req.orphan inside) := by rw [← r1.reqs]; rfl
  refine ⟨fun j => ?_, ?_, ?_, ?_, s3, fun c => ?_, fun c hc => ?_, fun c => State.core_clearCores tenant hcs s3 c⟩
  · exact (q4.fence j).trans ((q3.fence j).trans (q1.fence j))
  · exact q4.cmd.trans (q3.cmd.trans q1.cmd)
  · exact h4.trans (r3.reqs.trans hreqs)
  · refine q4.resvs.trans (q3.resvs.trans ?_)
    rw [← q1.resvs]
  · exact (r1.keeps c).trans (r3.keeps c)
  · exact (r1.gets c hc).trans (r3.gets c hc)

/-- R367: a core that keeps its contexts and messages, reset. -/
theorem Core.groupReset_of_keeps {k k' : Core} (h : k.Keeps k') (tenant : Nat) :
    ∃ p q, (∀ m ∈ q, m.answer = true) ∧ k'.groupReset tenant = { ({} : Core) with
      ctxs := k.ctxs.map fun y => { ({} : Ctx) with inc := y.inc }
      tenant := tenant
      drained := k.drained, stopped := k.drained
      inbox := { ({} : Inbox) with reasm := k.inbox.reasm, arrived := k.inbox.arrived ++ q, deposits := k.inbox.deposits }
      side := p } := by
  obtain ⟨h1, h2, h3, h4, q, hq, h5⟩ := h
  exact ⟨k'.side, q, hq, by rw [Core.groupReset, h1, h2, h3, h4, h5]⟩

/-! ### The end of a group reset -/

theorem State.setFence_eq (s : State) (k : Nat) (f : Fence) : ∃ v, s.setFence k f = { s with agent := { s.agent with fences := v } } := by
  unfold State.setFence
  split
  · exact ⟨_, rfl⟩
  · exact ⟨s.agent.fences, rfl⟩
/-- R385: the end of the command that runs changes reply slots, the command, interrupts and a counter alone. -/
theorem State.endCmd_eq (s : State) (st : Nat) (res : List Byte) :
    ∃ m c d v, s.endCmd st res = { s with msix := m, agent := { s.agent with cmd := d, counters := c, replySlots := v } } := by
  unfold State.endCmd
  split
  next c _ =>
    obtain ⟨m, w, v, e⟩ := s.replyHost_eq c.slot c.header st res
    exact ⟨m, w, none, v, e⟩
  next => exact ⟨_, _, _, _, rfl⟩

/-- R365, R367: the state once a group reset of entry k is over, before its command is replied to. -/
def State.endReset (s : State) (k : Nat) : State :=
  let f := s.fence k
  (s.resetCores (fun c => c < numCores && f.holds c) f.cores fun _ => if f.removal then 1023 else f.tenant).setFence k
    (if f.removal then {} else { f with st := .active })

/-- R365, R367: what the finished group reset makes of a state: it ends, and the command that waits for it, and no other, is
replied to. -/
theorem groupResetComplete_next {s : State} (hst : (s.fence s.ev.k).st = .resetting)
    (hreqs : ∀ r ∈ s.reqs, (s.fence s.ev.k).holds r.core = true → (∃ d g, r.op = .write d g) ∨ r.settled = true) :
    let u := s.endReset s.ev.k
    ∃ t, exec .groupResetComplete s = .next t ∧
      (∃ m c d v, t = { u with msix := m, agent := { u.agent with cmd := d, counters := c, replySlots := v } }) ∧
      ∀ c, u.agent.cmd = some c → c.wait = 3 → c.arg = s.ev.k → t = u.replyHost c.slot c.header stOK [] := by
  intro u
  have hany : (s.reqs.any fun r => (s.fence s.ev.k).holds r.core && !r.op.isStore && !r.settled) = false := by
    rw [List.any_eq_false]
    intro r hr hc
    simp only [Bool.and_eq_true, Bool.not_eq_true'] at hc
    obtain ⟨⟨hin, hstore⟩, hset⟩ := hc
    rcases hreqs r hr hin with ⟨d, g, hop⟩ | h
    · rw [hop] at hstore; cases hstore
    · rw [h] at hset; cases hset
  have hgo : exec .groupResetComplete s = match u.agent.cmd with
      | some c => .next (if c.wait = 3 && c.arg = s.ev.k then u.endCmd stOK [] else u)
      | none => .next u := by
    rw [exec_groupResetComplete, execGroupResetComplete]
    simp only [hst, hany]
    rfl
  cases hcmd : u.agent.cmd with
  | none =>
    rw [hcmd] at hgo
    exact ⟨u, hgo, ⟨_, _, _, _, rfl⟩, fun c hc => by cases hc⟩
  | some c =>
    rw [hcmd] at hgo
    refine ⟨_, hgo, ?_, fun d hd hw ha => ?_⟩
    · split
      · exact u.endCmd_eq stOK []
      · exact ⟨_, _, _, _, rfl⟩
    · obtain rfl : c = d := Option.some.inj hd
      rw [hw, ha, decide_eq_true rfl, decide_eq_true rfl, Bool.and_self, if_pos rfl, State.endCmd, hcmd]

theorem Fence.mem_cores (f : Fence) (c : Nat) : c ∈ f.cores ↔ c < numCores ∧ f.holds c = true := by
  simp [Fence.cores]
theorem Fence.cores_nodup (f : Fence) : f.cores.Nodup := List.nodup_range.filter _

/-- R7, R365, R367: a group reset finishes as the claims say. -/
theorem groupResetsFinish : GroupResetsFinish := by
  intro s k f plain hk hst hreqs
  obtain ⟨t, ht, ⟨m, cn, d, v, hform⟩, hreply⟩ := groupResetComplete_next hst hreqs
  let inside (c : Nat) : Bool := c < numCores && f.holds c
  have inside_iff (c : Nat) : inside c = true ↔ c < numCores ∧ f.holds c = true := by simp [inside]
  obtain ⟨hfence, hcmd, hrq, hrv, u, hkeeps, hgets, hcore⟩ :=
    s.resetCores_spec inside (fun _ => if f.removal then 1023 else f.tenant) f.cores_nodup
  generalize hr : s.resetCores inside f.cores (fun _ => if f.removal then 1023 else f.tenant) = r at hfence hcmd hrq hrv hcore
  have hend : s.endReset s.ev.k = r.setFence k (if f.removal then {} else { f with st := .active }) := by rw [← hr]; rfl
  obtain ⟨w, hw⟩ := r.setFence_eq k (if f.removal then {} else { f with st := .active })
  have htf (j : Nat) : t.fence j = (r.setFence k (if f.removal then {} else { f with st := .active })).fence j := by
    rw [hform, hend]; rfl
  have htreqs : t.reqs = s.reqs.filterMap (Req.orphan inside) := by rw [hform, hend, hw]; exact hrq
  have htresvs : t.resvs = s.resvs.filter fun r => !inside r.core := by rw [hform, hend, hw]; exact hrv
  have htcore (c : Nat) : t.core c = r.core c := by rw [hform, hend, hw]; rfl
  refine ⟨t, ht, ?_, fun j hj => ?_, fun c hc hin => ?_, fun c hc => ?_, fun q hq hc hin => ?_, fun q hq hout => ?_,
    fun q hq hc => ?_, fun c hc hwait harg hslot => ?_⟩
  · rw [htf, State.fence_setFence_self _ _ hk]
  · rw [htf, State.fence_setFence_ne _ _ hj, hfence]
  · rw [htcore, hcore, if_pos ((f.mem_cores c).2 ⟨hc, hin⟩)]
    exact Core.groupReset_of_keeps (hkeeps c) _
  · rw [htcore, hcore, if_neg fun h => hc ((f.mem_cores c).1 h)]
    refine hgets c ?_
    rw [← Bool.not_eq_true]
    exact fun h => hc ((inside_iff c).1 h)
  · rw [htreqs] at hq
    obtain ⟨w, hwm, hwq⟩ := List.mem_filterMap.1 hq
    rcases Req.orphan_some hwq with ⟨hw, rfl⟩ | ⟨hw, hset, rfl⟩
    · rw [(inside_iff _).2 ⟨hc, hin⟩] at hw; cases hw
    · refine ⟨w, hwm, (hreqs w hwm hin).resolve_right ?_, hset, rfl⟩
      rw [hset]; exact Bool.false_ne_true
  · rw [htreqs]
    refine List.mem_filterMap.2 ⟨q, hq, if_pos ?_⟩
    rw [Bool.not_eq_true', ← Bool.not_eq_true]
    exact fun h => hout ((inside_iff _).1 h)
  · rw [htresvs] at hq
    have h := (List.mem_filter.1 hq).2
    simpa [inside, hc] using h
  · have hr := hreply c (by rw [hend, hw]; exact hcmd.trans hc) hwait harg
    rw [hr]
    exact shows_replyHost _ _ hslot (by decide) (by simp)

end Sys2Proof.Machine

namespace Sys2Proof
open Sys2Proof.Machine

/-- Settles O48: the commands act on fence entries as claimed, and a group reset finishes as claimed. -/
theorem groupFences : Obligations.GroupFences := ⟨fencesAreCommanded, groupResetsFinish⟩

end Sys2Proof
end

section
/-! Stores to memory without poison (R273, R274): they write their bytes, and no others. -/

namespace Sys2Proof.Machine

/-! ### Bytes written -/

/-- A byte that is read is the cell at its address. -/
theorem Mem.getD_read (m : Mem) (a : Nat) {n k : Nat} (h : k < n) : (m.read a n).getD k 0#8 = cellGet m.bytes (a + k) := by
  induction n generalizing a k with
  | zero => cases h
  | succ n ih =>
    cases k with
    | zero => rfl
    | succ k =>
      rw [Mem.read, List.getD_cons_succ, ih (a + 1) (Nat.lt_of_succ_lt_succ h), Nat.add_right_comm, Nat.add_assoc]
/-- The cells after bytes were written. -/
theorem Mem.get_put {m : Mem} (a : Nat) (d : List Byte) (j : Nat) (hw : m.wf = true) :
    cellGet (m.put a d).bytes j = if a ≤ j ∧ j < a + d.length then d.getD (j - a) 0#8 else cellGet m.bytes j := by
  split
  · next h =>
    have hk := (m.put a d).getD_read a (n := d.length) (k := j - a) (by omega)
    rw [Mem.read_put a d hw, Nat.add_sub_cancel' h.1] at hk
    exact hk.symm
  · next h => exact Mem.get_put_ne m a j d (by omega)

/-! ### Granules -/

/-- A granule that an access touches is among its granules. -/
theorem mem_granules {a n g j : Nat} (h1 : a ≤ j) (h2 : j < a + n) : j / g ∈ granules a n g := by
  have hn : n ≠ 0 := by omega
  have hlo : a / g ≤ j / g := Nat.div_le_div_right h1
  have hhi : j / g ≤ (a + n - 1) / g := Nat.div_le_div_right (by omega)
  rw [granules, if_neg hn]
  exact List.mem_map.2 ⟨j / g - a / g, List.mem_range.2 (by omega), by omega⟩

/-- R274: a store to a granule that is not poisoned writes the bytes that lie in it. -/
theorem Mem.storeGranule_clean {m : Mem} (g a : Nat) (d : List Byte) (k : Nat) (hp : m.poison = []) :
    m.storeGranule g a d k = m.put (max a (k * g)) ((d.drop (max a (k * g) - a)).take
      (min (a + d.length) (k * g + g) - max a (k * g))) := by
  simp [Mem.storeGranule, hp, setHas]
theorem Mem.poison_storeGranule {m : Mem} (g a : Nat) (d : List Byte) (k : Nat) (hp : m.poison = []) :
    (m.storeGranule g a d k).poison = [] := by
  rw [m.storeGranule_clean g a d k hp, (m.put_sets _ _).2.1, hp]
/-- R274: the cells after a store to one granule. -/
theorem Mem.get_storeGranule {m : Mem} {g : Nat} (a : Nat) (d : List Byte) (k j : Nat) (hg : 0 < g) (hw : m.wf = true)
    (hp : m.poison = []) : cellGet (m.storeGranule g a d k).bytes j =
      if (a ≤ j ∧ j < a + d.length) ∧ j / g = k then d.getD (j - a) 0#8 else cellGet m.bytes j := by
  have hdiv : j / g = k ↔ k * g ≤ j ∧ j < k * g + g := by
    rw [Nat.div_eq_iff hg]
    omega
  rw [m.storeGranule_clean g a d k hp, Mem.get_put _ _ _ hw]
  simp only [List.length_take, List.length_drop]
  refine ite_congr (propext (by rw [hdiv]; omega)) (fun h => ?_) fun _ => rfl
  obtain ⟨h1, h2⟩ := hdiv.1 h.2
  simp only [List.getD_eq_getElem?_getD, List.getElem?_take, List.getElem?_drop]
  rw [if_pos (by omega), show max a (k * g) - a + (j - max a (k * g)) = j - a by omega]
/-- R274: the cells after stores to several granules. -/
theorem Mem.get_storeGranules {m : Mem} {g : Nat} (a : Nat) (d : List Byte) (ks : List Nat) (j : Nat) (hg : 0 < g) (hw : m.wf = true)
    (hp : m.poison = []) : cellGet (ks.foldl (fun m k => m.storeGranule g a d k) m).bytes j =
      if (a ≤ j ∧ j < a + d.length) ∧ j / g ∈ ks then d.getD (j - a) 0#8 else cellGet m.bytes j := by
  induction ks generalizing m with
  | nil => simp
  | cons k r ih =>
    rw [List.foldl_cons, ih (Mem.wf_storeGranule g a d k hw) (m.poison_storeGranule g a d k hp),
      Mem.get_storeGranule a d k j hg hw hp]
    by_cases hin : a ≤ j ∧ j < a + d.length
    · by_cases hr : j / g ∈ r
      · simp [hin, hr]
      · simp [hin, hr]
    · simp [hin]
theorem Mem.poison_storeGranules {m : Mem} (g a : Nat) (d : List Byte) (ks : List Nat) (hp : m.poison = []) :
    (ks.foldl (fun m k => m.storeGranule g a d k) m).poison = [] := by
  induction ks generalizing m with
  | nil => exact hp
  | cons k r ih => exact ih (m.poison_storeGranule g a d k hp)

/-! ### Stores -/

/-- R273: the tags that a store writes change no byte and no poison bit. -/
theorem Mem.store_bytes (m : Mem) (g : Nat) (tagged : Bool) (a : Nat) (d : List Byte) (ts : Option (List Bool)) :
    let u := (granules a d.length g).foldl (fun m k => m.storeGranule g a d k) m
    (m.store g tagged a d ts).bytes = u.bytes ∧ (m.store g tagged a d ts).poison = u.poison := by
  unfold Mem.store
  dsimp only
  split
  · exact ⟨rfl, rfl⟩
  · split <;> exact ⟨rfl, rfl⟩
/-- R274: a store to memory without poison leaves each cell as the writing of its bytes does. -/
theorem Mem.get_store {m : Mem} {g : Nat} (tagged : Bool) (a : Nat) (d : List Byte) (ts : Option (List Bool)) (j : Nat) (hg : 0 < g)
    (hw : m.wf = true) (hp : m.poison = []) : cellGet (m.store g tagged a d ts).bytes j = cellGet (m.put a d).bytes j := by
  rw [(m.store_bytes g tagged a d ts).1, Mem.get_storeGranules a d _ j hg hw hp, Mem.get_put a d j hw]
  exact ite_congr (propext ⟨fun h => h.1, fun h => ⟨h, mem_granules h.1 h.2⟩⟩) (fun _ => rfl) fun _ => rfl
theorem Mem.poison_store {m : Mem} (g : Nat) (tagged : Bool) (a : Nat) (d : List Byte) (ts : Option (List Bool)) (hp : m.poison = []) :
    (m.store g tagged a d ts).poison = [] := by
  rw [(m.store_bytes g tagged a d ts).2, Mem.poison_storeGranules g a d _ hp]
/-- R274: what a store to memory without poison wrote reads back. -/
theorem Mem.read_store {m : Mem} {g : Nat} (tagged : Bool) (a : Nat) (d : List Byte) (ts : Option (List Bool)) (hg : 0 < g)
    (hw : m.wf = true) (hp : m.poison = []) : (m.store g tagged a d ts).read a d.length = d :=
  (Mem.read_congr fun j _ _ => Mem.get_store tagged a d ts j hg hw hp).trans (Mem.read_put a d hw)
/-- R274: bytes that a store to memory without poison does not touch read as before. -/
theorem Mem.read_store_ne {m : Mem} {g : Nat} (tagged : Bool) (a : Nat) (d : List Byte) (ts : Option (List Bool)) {b n : Nat}
    (hg : 0 < g) (hw : m.wf = true) (hp : m.poison = []) (h : b + n ≤ a ∨ a + d.length ≤ b) :
    (m.store g tagged a d ts).read b n = m.read b n :=
  Mem.read_congr fun j _ _ => (Mem.get_store tagged a d ts j hg hw hp).trans (Mem.get_put_ne m a j d (by omega))
/-- The first bytes of a longer read. -/
theorem Mem.take_read (m : Mem) (a : Nat) {n k : Nat} (h : k ≤ n) : (m.read a n).take k = m.read a k := by
  induction n generalizing a k with
  | zero =>
    obtain rfl : k = 0 := Nat.le_zero.1 h
    rfl
  | succ n ih =>
    cases k with
    | zero => rfl
    | succ k => rw [Mem.read, List.take_succ_cons, ih (a + 1) (Nat.le_of_succ_le_succ h), Mem.read]

end Sys2Proof.Machine
end

section
/-! The windows of the host (R383 to R385, R387). -/

namespace Sys2Proof.Machine
open Sys2Proof.Claim

/-! ### Memories that no window's event touches -/

/-- Memories read alike where memory, host memory and cores are equal. -/
theorem sameMemory_of_cores {s t : State} (hm : t.mem = s.mem) (hh : t.host = s.host) (hc : t.cores = s.cores) : sameMemory s t :=
  sameMemory_of hm hh fun c => by unfold State.core; rw [hc]
theorem sameMemory_replyHost (s : State) (i h st : Nat) (res : List Byte) : sameMemory s ((s.takeSlot i).replyHost i h st res) :=
  sameMemory_of_cores (by simp) (by simp) (by simp)

/-! ### Commands of no row (R385) -/

/-- R385: whether an op is of no row, or its payload too long. -/
def unknownOp (h : Nat) : Prop := h % 256 = 0 ∨ 11 < h % 256 ∨ 48 < h / 2 ^ 16 % 256
/-- R385: whether a payload names an action or kind that its op has not. -/
def badAction (op : Nat) (p : List Byte) : Bool :=
  (op == 2 && cmdNum p 2 1 > 4) || (op == 4 && cmdNum p 0 1 > 3) || (op == 6 && cmdNum p 0 1 > 1) ||
  (op == 9 && cmdNum p 0 1 > 3) || (op == 0xB && cmdNum p 0 1 > 4)

/-- R385: what a command of no row, or of an action of none, gets. -/
theorem unknownOpCommand_next {s : State} {i h : Nat} {p : List Byte} (hn : s.nextCmd = some (i, h, p)) :
    ∃ t, exec .unknownOpCommand s = .next t ∧ (t = s ∨ ∃ st, t = (s.takeSlot i).replyHost i h st []) ∧
      (unknownOp h → t = (s.takeSlot i).replyHost i h 1 []) ∧
      (¬ unknownOp h → badAction (h % 256) p = true → cmdBad h p = false → t = (s.takeSlot i).replyHost i h 2 []) := by
  have hexec : exec .unknownOpCommand s =
      if (!(decide (1 ≤ hdrOp h) && decide (hdrOp h ≤ 0xB)) || decide (hdrPlen h > 48)) = true then
        .next ((s.takeSlot i).replyHost i h 1 [])
      else if badAction (hdrOp h) p = true then .next ((s.takeSlot i).replyHost i h (if cmdBad h p then 1 else stBADARG) [])
      else .next s := by
    rw [exec_unknownOpCommand, execUnknownOpCommand]
    simp only [hn]
    rfl
  have hbad : (!(decide (1 ≤ hdrOp h) && decide (hdrOp h ≤ 0xB)) || decide (hdrPlen h > 48)) = true ↔ unknownOp h := by
    rw [hdrOp_eq, hdrPlen_eq, unknownOp]
    simp
    omega
  rw [hexec]
  by_cases hu : unknownOp h
  · rw [if_pos (hbad.2 hu)]
    exact ⟨_, rfl, .inr ⟨1, rfl⟩, fun _ => rfl, fun hn => absurd hu hn⟩
  · rw [if_neg (mt hbad.1 hu)]
    by_cases ha : badAction (hdrOp h) p = true
    · rw [if_pos ha]
      exact ⟨_, rfl, .inr ⟨_, rfl⟩, fun h => absurd h hu, fun _ _ hb => by rw [hb]; rfl⟩
    · rw [if_neg ha]
      exact ⟨s, rfl, .inl rfl, fun h => absurd h hu, fun _ h _ => absurd h ha⟩

/-! ### Slots written by the host (R384) -/

/-- R384: the bytes of a slot that the host has written to. -/
theorem getD_hostBytes (old : List Byte) (o : Nat) (d : List Byte) {j : Nat} (h : j < 64) :
    (hostBytes old o d).getD j 0#8 = if o ≤ j ∧ j < o + d.length ∧ j ≠ 3 then d.getD (j - o) 0#8 else old.getD j 0#8 := by
  unfold hostBytes
  simp [List.getD_eq_getElem?_getD, h, and_assoc]
@[simp] theorem hostBytes_length (old : List Byte) (o : Nat) (d : List Byte) : (hostBytes old o d).length = 64 := by
  simp [hostBytes]

theorem ofBytes_take_one (d : List Byte) : ofBytes (d.take 1) = (d.getD 0 0#8).toNat := by
  cases d <;> simp [ofBytes]
theorem ofBytes_mod (d : List Byte) : ofBytes d % 256 = (d.getD 0 0#8).toNat := by
  cases d with
  | nil => rfl
  | cons b r =>
    have := b.isLt
    simp [ofBytes]
    omega
/-- R387: a slot holds an action 1 of POD_CONFIG as its bytes say. -/
theorem isRoutingEntry_iff (d : List Byte) :
    isRoutingEntry d = true ↔ (ofBytes (d.take 16)).testBit 64 = true ∧ d.getD 0 0#8 = 11#8 ∧ d.getD 16 0#8 = 1#8 := by
  have hop : hdrOp (slotHeader d) = (d.getD 0 0#8).toNat := by
    rw [hdrOp_eq, slotHeader, ofBytes_mod]
    simp [List.getD_eq_getElem?_getD]
  have hact : cmdNum (d.drop 16) 0 1 = (d.getD 16 0#8).toNat := by
    rw [cmdNum, List.drop_zero, ofBytes_take_one]
    simp [List.getD_eq_getElem?_getD]
  have byte (b : Byte) (n : Nat) (hn : n < 256) : b.toNat = n ↔ b = BitVec.ofNat 8 n := by
    rw [← BitVec.toNat_inj, BitVec.toNat_ofNat, Nat.mod_eq_of_lt hn]
  unfold isRoutingEntry
  simp only [Bool.and_eq_true, beq_iff_eq, hop, hact, and_assoc]
  rw [byte _ 11 (by decide), byte _ 1 (by decide)]
  rfl

theorem count_get {s : State} {i : Nat} (h : i < 16) :
    (s.count i).agent.counters.toList.getD i 0 = min (s.agent.counters.toList.getD i 0 + 1) (2 ^ 64 - 1) := by
  simp [State.count, h, List.getD_eq_getElem?_getD]

theorem slotWritten (v : Vector (List Byte) 32) {k : Nat} (hk : k < 32) (old : List Byte) (o : Nat) (d : List Byte) {j : Nat} (hj : j < 64) :
    ((setSlot v k (hostBytes old o d)).toList.getD k []).getD j 0#8 =
      if o ≤ j ∧ j < o + d.length ∧ j ≠ 3 then d.getD (j - o) 0#8 else old.getD j 0#8 := by
  rw [setSlot_self _ _ hk, getD_hostBytes old o d hj]

/-- R384: a write of the host to a command slot is discarded and counted where it is no whole write to a slot with V clear. -/
theorem hostCommandSlotWrite_next {s : State} (hk : s.ev.k < 32) (hd : s.ev.data ≠ []) :
    let k := s.ev.k
    let d := s.ev.data
    let old := s.agent.cmdSlots.toList.getD k []
    let odd := d.length ≠ 64 ∨ (ofBytes (old.take 16)).testBit 64 = true
    ∃ t, exec .hostCommandSlotWrite s = .next t ∧ (odd → t = s.count 7) ∧
      (¬ odd → t = { s with
        agent := { s.agent with cmdSlots := setSlot s.agent.cmdSlots k (hostBytes old 0 d) }
        pod := { s.pod with updating := s.pod.updating && !isRoutingEntry d } }) := by
  intro k d old odd
  rw [exec_hostCommandSlotWrite, execHostCommandSlotWrite]
  have hgo : ¬ (decide (k ≥ 32) || d.isEmpty) = true := by simp [k, d, hk, hd]
  have hodd : (decide (d.length ≠ 64) || hdrV (slotHeader old)) = true ↔ odd := by
    rw [Bool.or_eq_true, decide_eq_true_eq]; rfl
  by_cases h : odd
  · exact ⟨_, (if_neg hgo).trans (if_pos (hodd.2 h)), fun _ => rfl, fun hn => absurd h hn⟩
  · exact ⟨_, (if_neg hgo).trans (if_neg (mt hodd.1 h)), fun hn => absurd hn h, fun _ => rfl⟩

/-! ### The HDM range (R383) -/

/-- R383: the PMA of an offset in the HDM range. -/
theorem hdmPma_eq (o : Nat) : hdmPma o = o / 2 ^ 40 % 32 * 2 ^ 55 + o % 2 ^ 40 := by
  simp [hdmPma, bits, Nat.shiftRight_eq_div_pow]
theorem hdmLine_of {o n : Nat} (h1 : 0 < n) (h2 : o % 64 + n ≤ 64) (h3 : o + n ≤ 2 ^ 45) : hdmLine o n = true := by
  simp only [hdmLine, h1, h2, h3, decide_true, Bool.and_self]
/-- R274: what a store at a PMA changes: memory, reservations and a counter. -/
theorem State.storeAt_pma_eq (s : State) (a : Nat) (d : List Byte) (ts : Option (List Bool)) : ∃ r c, s.storeAt (.pma a) d ts =
    { s with mem := s.mem.store 32 true a d ts, resvs := r, agent := { s.agent with counters := c } } := by
  obtain ⟨c, hc⟩ := State.counts_eq { s.clearResvs (.pma a) d.length with mem := s.mem.store 32 true a d ts } 4
    (List.range (s.mem.partials 32 a d.length))
  exact ⟨_, c, hc⟩

/-- R383: what a read of a line of the HDM range returns. -/
theorem hostHdmRead_next {s : State} (hl : hdmLine s.ev.k s.ev.n = true) :
    let a := hdmPma s.ev.k
    let n := s.ev.n
    ∃ t, exec .hostHdmRead s = .next t ∧ t.cores = s.cores ∧ t.mem = s.mem ∧
      (pmaOk a n = false → t.hdmData = List.replicate n 0xFF#8) ∧
      (pmaOk a n = true → s.mem.poisoned 32 a n = false → t.hdmData = s.mem.read a n) := by
  intro a n
  have hexec : exec .hostHdmRead s =
      if (!pmaOk a n) = true then .next { s with hdmData := List.replicate n 0xFF#8 }
      else if s.mem.poisoned 32 a n = true then .next { s.takeFree.2 with hdmData := bytesOf s.takeFree.1 n }
      else .next { s with hdmData := s.mem.read a n } := by
    rw [exec_hostHdmRead, execHostHdmRead]
    exact if_neg (by rw [hl]; simp)
  rw [hexec]
  cases hok : pmaOk a n with
  | false => exact ⟨_, rfl, rfl, rfl, fun _ => rfl, fun h => absurd h (by decide)⟩
  | true =>
    cases hp : s.mem.poisoned 32 a n with
    | true => exact ⟨_, rfl, rfl, rfl, fun h => absurd h (by decide), fun _ h => absurd h (by decide)⟩
    | false => exact ⟨_, rfl, rfl, rfl, fun h => absurd h (by decide), fun _ _ => rfl⟩
/-- R383: a write of a line of the HDM range to memory that no move freezes. -/
theorem hostHdmWrite_next {s : State} (hl : hdmLine s.ev.k s.ev.data.length = true)
    (hok : pmaOk (hdmPma s.ev.k) s.ev.data.length = true) (hf : s.frozen (.pma (hdmPma s.ev.k)) = false) :
    exec .hostHdmWrite s = .next (s.storeAt (.pma (hdmPma s.ev.k)) s.ev.data none) := by
  rw [exec_hostHdmWrite, execHostHdmWrite]
  exact if_neg (by rw [hl, hok, hf]; simp)

/-- R383 to R385, R387: the windows of the host do what the claims say. -/
theorem hostWindows : HostWindows := by
  refine ⟨?_, ?_, ?_, ?_, ?_⟩
  · intro s i h p d op hi hslot hcmd hd hh hp hv hr
    obtain ⟨t, ht, hform, hbad, hact⟩ := unknownOpCommand_next (nextCmd_of hslot hcmd hh hp hv hr)
    have hsame : t.cores = s.cores ∧ sameMemory s t := by
      rcases hform with rfl | ⟨st, rfl⟩
      · exact ⟨rfl, sameMemory_of_cores rfl rfl rfl⟩
      · exact ⟨by simp, sameMemory_replyHost s i h st []⟩
    refine ⟨t, ht, hsame.1, hsame.2, fun hu => ?_, fun ha hl hb => ?_⟩
    · rw [hbad hu]
      exact replied_takeSlot s h hi (by decide)
    · rw [hact (by unfold unknownOp; omega) ?_ hb]
      · exact replied_takeSlot s h hi (by decide)
      · have h2 : badAction op p = true := by
          rcases ha with ⟨h1, h2⟩ | ⟨h1, h2⟩ <;> simp [badAction, h1, h2]
        exact h2
  · intro s k d old busy entry hk hd
    obtain ⟨t, ht, hodd, hgo⟩ := hostCommandSlotWrite_next hk hd
    have hframe : t.cores = s.cores ∧ sameMemory s t := by
      by_cases h : d.length ≠ 64 ∨ busy = true
      · obtain ⟨c, hc⟩ := s.count_eq 7
        rw [hodd h, hc]
        exact ⟨rfl, sameMemory_of_cores rfl rfl rfl⟩
      · rw [hgo h]
        exact ⟨rfl, sameMemory_of_cores rfl rfl rfl⟩
    refine ⟨t, ht, hframe.1, hframe.2, fun hlen hbusy => ?_, fun h => ?_⟩
    · have hwhole : ¬ (d.length ≠ 64 ∨ busy = true) := by rw [hlen, hbusy]; simp
      rw [hgo hwhole]
      refine ⟨fun j hj => ?_, ?_, rfl, fun he => ?_, fun he => ?_⟩
      · refine (slotWritten s.agent.cmdSlots hk old 0 d hj).trans ?_
        by_cases h3 : j = 3
        · rw [if_neg (by omega), if_pos h3]
        · rw [if_pos (by omega), if_neg h3, Nat.sub_zero]
      · exact (congrArg List.length (setSlot_self _ _ hk)).trans (hostBytes_length _ _ _)
      · show (s.pod.updating && !isRoutingEntry d) = false
        rw [(isRoutingEntry_iff d).2 he, Bool.not_true, Bool.and_false]
      · have hno : isRoutingEntry d = false := by
          rw [← Bool.not_eq_true]
          exact mt (isRoutingEntry_iff d).1 he
        show { s.pod with updating := s.pod.updating && !isRoutingEntry d } = s.pod
        rw [hno, Bool.not_false, Bool.and_true]
    · have hcount := count_get (s := s) (i := 7) (by decide)
      obtain ⟨c, hc⟩ := s.count_eq 7
      rw [hodd h]
      exact ⟨by rw [hc], by rw [hc], hcount⟩
  · intro s k d hk hd
    refine ⟨_, rfl, rfl, sameMemory_of_cores rfl rfl rfl, fun j hj => setSlot_ne _ _ hj, fun he => ?_, fun he => ?_⟩
    · have hslot := setSlot_self s.agent.replySlots (d.zipIdx.map fun b => if b.2 = 8 then b.1 &&& 0xFE#8 else b.1) hk
      rw [if_pos (by rw [he]; rfl), hslot]
      exact ⟨testBit_clearV d, fun j hj => by rw [getD_clearV, if_neg hj]⟩
    · intro j hj
      rw [if_neg (by rwa [List.isEmpty_iff])]
      exact slotWritten s.agent.replySlots hk d s.ev.n s.ev.data hj
  · intro s o n a hn hline hend
    obtain ⟨t, ht, hc, hm, hout, hin⟩ := hostHdmRead_next (hdmLine_of hn hline hend)
    rw [hdmPma_eq] at hout hin
    refine ⟨t, ht, hc, hm, hout, fun h1 h2 => ?_⟩
    exact hin h1 h2
  · intro s o d a hd hline hend hpma hfrozen hw hp
    have ha : hdmPma o = a := hdmPma_eq o
    rw [← ha] at hpma hfrozen
    have hexec := hostHdmWrite_next (hdmLine_of (List.length_pos_iff.2 hd) hline hend) hpma hfrozen
    rw [hdmPma_eq] at hexec
    obtain ⟨r, c, e⟩ := s.storeAt_pma_eq a d none
    refine ⟨_, hexec, ?_, by rw [e], fun b hb => ?_⟩
    · rw [e]
      exact Mem.read_store true a d none (by decide) hw hp
    · rw [e]
      exact Mem.read_store_ne true a d none (by decide) hw hp (by omega)

end Sys2Proof.Machine
end

section
/-! Firmware images and temperature (R390, R391). -/

namespace Sys2Proof.Machine
open Sys2Proof.Claim

/-! ### The hottest die -/

/-- The greatest of a start and of values along a list is at least each of them. -/
theorem le_foldl_max {α : Type} (f : α → Nat) (l : List α) (m : Nat) :
    m ≤ l.foldl (fun m x => max m (f x)) m ∧ ∀ x ∈ l, f x ≤ l.foldl (fun m x => max m (f x)) m := by
  induction l generalizing m with
  | nil => simp
  | cons y r ih =>
    obtain ⟨h1, h2⟩ := ih (max m (f y))
    rw [List.foldl_cons]
    exact ⟨by omega, List.forall_mem_cons.2 ⟨by omega, h2⟩⟩
/-- It is the start, or one of them. -/
theorem foldl_max_attained {α : Type} (f : α → Nat) (l : List α) (m : Nat) :
    l.foldl (fun m x => max m (f x)) m = m ∨ ∃ x ∈ l, f x = l.foldl (fun m x => max m (f x)) m := by
  induction l generalizing m with
  | nil => exact .inl rfl
  | cons y r ih =>
    rw [List.foldl_cons]
    rcases ih (max m (f y)) with h | ⟨x, hx, h⟩
    · rcases Nat.le_total (f y) m with hle | hle
      · exact .inl (h.trans (Nat.max_eq_left hle))
      · exact .inr ⟨y, List.mem_cons_self, (h.trans (Nat.max_eq_right hle)).symm⟩
    · exact .inr ⟨x, List.mem_cons_of_mem y hx, h⟩

/-- R391: no die is hotter than the temperature. -/
theorem Agent.sensor_le_temperature (a : Agent) {d : Nat} (h : d < 8) : (tabGet a.sensors d).getD 0 ≤ a.temperature :=
  (le_foldl_max (fun d => (tabGet a.sensors d).getD 0) (List.range 8) 0).2 d (List.mem_range.2 h)
/-- R391: the temperature is that of a die, or 0. -/
theorem Agent.temperature_attained (a : Agent) : a.temperature = 0 ∨ ∃ d, d < 8 ∧ tabGet a.sensors d = some a.temperature := by
  rcases foldl_max_attained (fun d => (tabGet a.sensors d).getD 0) (List.range 8) 0 with h | ⟨d, hd, h⟩
  · exact .inl h
  · cases hs : tabGet a.sensors d with
    | none => exact .inl (by rw [hs] at h; exact h.symm)
    | some v => exact .inr ⟨d, List.mem_range.1 hd, by rw [hs] at h ⊢; exact congrArg some h⟩

/-! ### Events and turns -/

/-- R390: an image is staged where its signature verifies. -/
theorem firmwareUpdate_next (s : State) : exec .firmwareUpdate s =
    .next (if sm2Check Config.rootKey (Config.updateParts s.ev.data).1 (Config.updateParts s.ev.data).2
      then { s with agent := { s.agent with staged := some s.ev.data } } else s) := by
  rw [exec_firmwareUpdate, execFirmwareUpdate]
  exact (apply_ite _ _ _ _).symm
/-- R391: kernels are held from 105 °C on. -/
theorem thermalHold_next {s : State} (h : 105 ≤ s.agent.temperature) (hh : s.agent.hold = false) :
    exec .thermalHold s = .next { s with pldm := 1 :: s.pldm, agent := { s.agent with hold := true } } := by
  rw [exec_thermalHold, execThermalHold, if_pos (by simp [h, hh])]
theorem thermalHold_idle {s : State} (h : s.agent.temperature < 105 ∨ s.agent.hold = true) : exec .thermalHold s = .next s := by
  rw [exec_thermalHold, execThermalHold, if_neg]
  rw [Bool.and_eq_true, decide_eq_true_eq, Bool.not_eq_true']
  rintro ⟨hot, free⟩
  rcases h with h | h
  · omega
  · rw [h] at free
    cases free
theorem thermalHoldEnd_next {s : State} (h : s.agent.temperature < 105) (hh : s.agent.hold = true) :
    exec .thermalHoldEnd s = .next { s with agent := { s.agent with hold := false } } := by
  rw [exec_thermalHoldEnd, execThermalHoldEnd, if_pos (by simp [h, hh])]
/-- A queued turn is the next one taken. -/
theorem step_queued {s : State} {t : Turn} {rest : List Turn} (h : s.turns = t :: rest) : step s = stepTurn t { s with turns := rest } := by
  simp only [step, State.nextTurn, h]

/-- R390, R391: firmware images, sensors and the hold on kernels. -/
theorem firmwareAndHeat : FirmwareAndHeat := fun s =>
  ⟨firmwareUpdate_next s, thermalHold_next, thermalHold_idle, thermalHoldEnd_next, fun _ => s.agent.sensor_le_temperature,
    s.agent.temperature_attained, fun _ _ _ h => step_queued h, fun _ _ h => step_queued h⟩

end Sys2Proof.Machine
end

section
/-! The resets of the package (R7, R375, R379, R390, R391). -/

namespace Sys2Proof.Machine
open Sys2Proof.Claim

/-! ### Power-on reset (R7) -/

/-- The entry of a key after a change of every entry. -/
theorem tabGet_map {α β : Type} (t : Tab α) (f : Nat → α → β) (j : Nat) :
    tabGet (t.map fun k => (k.1, f k.1 k.2)) j = (tabGet t j).map (f j) := by
  induction t with
  | nil => rfl
  | cons k r ih =>
    rw [List.map_cons, tabGet, tabGet]
    split
    · next h => rw [h]; rfl
    · exact ih
/-- R7: a core after reset is as power-on leaves it. -/
theorem Core.powerOn_empty : ({} : Core).powerOn = {} := by
  unfold Core.powerOn
  rw [show ({} : Core).ctxs = Vector.replicate 32 {} from rfl, Vector.map_replicate]
/-- R7: a context after power-on keeps its incarnation alone. -/
theorem Core.ctx_powerOn (k : Core) (i : Nat) : k.powerOn.ctx i = { ({} : Ctx) with inc := (k.ctx i).inc } := by
  unfold Core.ctx Core.powerOn
  split
  · simp
  · rfl
/-- A core after a change of every listed core that leaves a core after reset as it is. -/
theorem State.core_map {s t : State} {f : Nat → Core → Core} (h : t.cores = s.cores.map fun k => (k.1, f k.1 k.2)) (c : Nat)
    (hf : tabGet s.cores c = none → f c {} = {}) : t.core c = f c (s.core c) := by
  unfold State.core
  rw [h, tabGet_map]
  cases hc : tabGet s.cores c with
  | none => exact (hf hc).symm
  | some k => rfl
theorem State.core_powerOn (s : State) (c : Nat) : s.powerOn.core c = (s.core c).powerOn :=
  State.core_map (f := fun _ => Core.powerOn) rfl c fun _ => Core.powerOn_empty
theorem State.fence_powerOn (s : State) (k : Nat) : s.powerOn.fence k = {} := State.fence_reset k

/-! ### Memory whose keys change (R92, R379) -/

theorem mem_setDel_ne {l : List Nat} {a q : Nat} (h : q ∈ l) (hne : q ≠ a) : q ∈ setDel l a := by
  induction l with
  | nil => cases h
  | cons b r ih =>
    unfold setDel
    split
    · next hb => exact (List.mem_cons.1 h).resolve_left fun hq => hne (hq.trans hb)
    · exact List.mem_cons.2 ((List.mem_cons.1 h).imp_right ih)
theorem mem_setDels {l ks : List Nat} {q : Nat} (h : q ∈ ks.foldl setDel l) : q ∈ l := by
  induction ks generalizing l with
  | nil => exact h
  | cons k r ih => exact mem_setDel (ih h)
theorem mem_setDels_of {l ks : List Nat} {q : Nat} (h : q ∈ l) (hne : q ∉ ks) : q ∈ ks.foldl setDel l := by
  induction ks generalizing l with
  | nil => exact h
  | cons k r ih =>
    have hk : q ≠ k := fun hq => hne (hq ▸ List.mem_cons_self)
    exact ih (mem_setDel_ne h hk) fun hr => hne (List.mem_cons_of_mem k hr)
/-- A granule of a unit of 64 bytes. -/
theorem div_of_mem_granules {u g : Nat} (h : g ∈ granules (64 * u) 64 16) : g / 4 = u := by
  obtain ⟨i, hi, rfl⟩ := List.mem_map.1 h
  rw [List.mem_range] at hi
  omega

/-- From m to n the units of 64 bytes of which P holds keep bytes and tags; no tag arises, and poison and full/empty bits stay. -/
structure Mem.KeepsUnits (P : Nat → Prop) (m n : Mem) : Prop where
  tags : ∀ g ∈ n.tags, g ∈ m.tags
  kept : ∀ g ∈ m.tags, P (g / 4) → g ∈ n.tags
  poison : n.poison = m.poison
  full : n.full = m.full
  cell : ∀ a, P (a / 64) → cellGet n.bytes a = cellGet m.bytes a

namespace Mem.KeepsUnits
variable {P : Nat → Prop} {m n o : Mem}

theorem refl (m : Mem) : m.KeepsUnits P m := ⟨fun _ h => h, fun _ h _ => h, rfl, rfl, fun _ _ => rfl⟩
theorem trans (h : m.KeepsUnits P n) (g : n.KeepsUnits P o) : m.KeepsUnits P o :=
  ⟨fun t ht => h.tags t (g.tags t ht), fun t ht hp => g.kept t (h.kept t ht hp) hp, g.poison.trans h.poison, g.full.trans h.full,
    fun a hp => (g.cell a hp).trans (h.cell a hp)⟩
/-- A fold of steps that keep units keeps them. -/
theorem foldl {α : Type} {f : Mem → α → Mem} (hf : ∀ (m : Mem) (x : α), m.KeepsUnits P (f m x)) (l : List α) (m : Mem) : m.KeepsUnits P (l.foldl f m) := by
  induction l generalizing m with
  | nil => exact refl m
  | cons x r ih => exact (hf m x).trans (ih _)
/-- R379: a change of a unit of which P does not hold. -/
theorem mapUnit (m : Mem) {u : Nat} (f : List Byte → List Byte) (hu : ¬ P u) : m.KeepsUnits P (m.mapUnit u f) := by
  have hcell (a : Nat) (ha : P (a / 64)) : cellGet (m.mapUnit u f).bytes a = cellGet m.bytes a :=
    Mem.get_mapUnit_ne m f fun h => hu (h ▸ ha)
  refine ⟨?_, ?_, (m.mapUnit_sets u f).1, (m.mapUnit_sets u f).2, hcell⟩
  all_goals
    unfold Mem.mapUnit
    dsimp only
    split
  · exact fun _ h => h
  · exact fun g h => (m.put_sets _ _).1 ▸ mem_setDels h
  · exact fun _ h _ => h
  · exact fun g h hp => mem_setDels_of ((m.put_sets _ _).1.symm ▸ h) fun hg => hu (div_of_mem_granules hg ▸ hp)
/-- R379: a change of units that leaves those of which P holds as they are. -/
theorem mapUnits (m : Mem) (a n : Nat) {f : Nat → List Byte → List Byte} (hf : ∀ u, P u → ∀ d, f u d = d) :
    m.KeepsUnits P (m.mapUnits a n f) := by
  refine foldl (fun m u => ?_) (unitsIn a n) m
  by_cases hu : P u
  · rw [Mem.mapUnit_same m (hf u hu)]
    exact refl m
  · exact mapUnit m (f u) hu

end Mem.KeepsUnits

theorem Agent.slotAt_nil {a : Agent} (h : a.frames = []) (p : Nat) : a.slotAt p = 0 := by simp [Agent.slotAt, h]
theorem Agent.slotAt_congr {a b : Agent} (h : b.frames = a.frames) (p : Nat) : b.slotAt p = a.slotAt p := by
  unfold Agent.slotAt; rw [h]
/-- R379: frames that lose their owners change memory alone, and not where slot 0 held. -/
theorem State.rekeys_spec {q : State} (old : Agent) (l : List (Nat × Frame)) (h : q.agent.frames = []) :
    ∃ m, l.foldl (fun q f => q.rekey old f.1 (2 ^ pageShift f.2.size)) q = { q with mem := m } ∧
      q.mem.KeepsUnits (fun u => old.slotAt (64 * u) = 0) m := by
  induction l generalizing q with
  | nil => exact ⟨_, rfl, .refl _⟩
  | cons f r ih =>
    obtain ⟨m, e, hm⟩ := ih (q := q.rekey old f.1 (2 ^ pageShift f.2.size)) h
    refine ⟨m, e, .trans (Mem.KeepsUnits.mapUnits _ _ _ fun u hu d => ?_) hm⟩
    exact recrypt_same (hu.trans (Agent.slotAt_nil h _).symm) d

/-! ### A module reset (R390) -/

/-- R375: a core after a module reset keeps its drained mark. -/
def Core.restart (drained : Bool) (k : Core) : Core := { k with drained := drained, stopped := drained }
/-- R362, R375, R390: the package after a module reset, but for the keys that its frames lose. -/
def State.restart (s : State) : State :=
  { s.powerOn with
    mem := s.mem
    cores := s.powerOn.cores.map fun k => (k.1, k.2.restart ((tabGet s.cores k.1).getD {}).drained)
    agent := { s.powerOn.agent with
      launches := s.agent.launches, drained := s.agent.drained, atRisk := s.agent.atRisk, rails := s.agent.rails, margins := s.agent.margins
      firmware := s.agent.staged.orElse fun _ => s.agent.firmware
      staged := none } }
/-- A module reset restarts the package and takes the keys of the frames. -/
theorem State.moduleReset_spec (s : State) : ∃ m, s.moduleReset = { s.restart with mem := m } ∧
    s.mem.KeepsUnits (fun u => s.agent.slotAt (64 * u) = 0) m :=
  State.rekeys_spec (q := s.restart) s.agent s.agent.frames rfl
theorem State.core_restart (s : State) (c : Nat) : s.restart.core c = (s.core c).powerOn.restart (s.core c).drained := by
  have h := State.core_map (s := s.powerOn) (t := s.restart)
    (f := fun c k => k.restart ((tabGet s.cores c).getD {}).drained) rfl c fun hc => by
      have hnone : tabGet s.cores c = none := by
        have hc' := (tabGet_map s.cores (fun _ => Core.powerOn) c).symm.trans hc
        simpa using hc'
      rw [hnone]
      rfl
  rw [h, State.core_powerOn]
  rfl
theorem State.ctx_restart (s : State) (c i : Nat) : s.restart.ctx c i = { ({} : Ctx) with inc := (s.ctx c i).inc } := by
  unfold State.ctx
  rw [State.core_restart]
  exact Core.ctx_powerOn (s.core c) i
theorem State.moduleReset_host (s : State) : s.moduleReset.host = s.host := by
  obtain ⟨m, e, -⟩ := s.moduleReset_spec
  rw [e]
  rfl

/-! ### The record of a kernel that fails at 115 °C (R252, R391) -/

/-- R252: a completion record begins with the kernel, its status and its placement. -/
theorem Kernel.completion_take (k : Kernel) (now : Nat) :
    (k.completion now).take 6 = bytesOf k.kid 4 ++ bytesOf k.status 1 ++ bytesOf k.badPlace 1 := by
  unfold Kernel.completion
  simp only [List.append_assoc]
  rw [← List.append_assoc, ← List.append_assoc, List.append_assoc (bytesOf k.kid 4)]
  exact List.take_left' (by simp [bytesOf_length])
theorem Kernel.completion_length (k : Kernel) (now : Nat) : 6 ≤ (k.completion now).length := by
  simp [Kernel.completion, bytesOf_length]
/-- R274: a store to host memory without poison leaves it well-formed and without poison. -/
theorem State.toHost_clean {s : State} (a : Nat) (d : List Byte) (hw : s.host.wf = true) (hp : s.host.poison = []) :
    (s.toHost a d).host.wf = true ∧ (s.toHost a d).host.poison = [] ∧ (s.toHost a d).host.read a d.length = d := by
  obtain ⟨r, c, e⟩ := s.toHost_eq a d
  rw [e]
  exact ⟨Mem.wf_store 64 false a d none hw, Mem.poison_store 64 false a d none hp, Mem.read_store false a d none (by decide) hw hp⟩
/-- R252: the records of a kernel leave its completion record in host memory. -/
theorem State.writeRecords_completion {s : State} {k : Kernel} (hg : k.guest = false) (hw : s.host.wf = true) (hp : s.host.poison = []) :
    (s.writeRecords k).host.read (k.recN 56 8) 6 = bytesOf k.kid 4 ++ bytesOf k.status 1 ++ bytesOf k.badPlace 1 := by
  unfold State.writeRecords
  rw [if_neg (by rw [hg]; simp)]
  extract_lets s1 s2
  have h1 : s1.host.wf = true ∧ s1.host.poison = [] := by
    by_cases hl : k.loaded = true
    · obtain ⟨h1, h2, -⟩ := s.toHost_clean (k.recN 64 8) (k.jobRecord s) hw hp
      rw [show s1 = _ from if_pos hl]
      exact ⟨h1, h2⟩
    · rw [show s1 = _ from if_neg hl]
      exact ⟨hw, hp⟩
  have h2 : s2.host.read (k.recN 56 8) 6 = bytesOf k.kid 4 ++ bytesOf k.status 1 ++ bytesOf k.badPlace 1 := by
    obtain ⟨-, -, hr⟩ := State.toHost_clean (k.recN 56 8) (k.completion s1.agent.counter) h1.1 h1.2
    rw [← Mem.take_read _ _ (k.completion_length s1.agent.counter), ← k.completion_take s1.agent.counter]
    exact congrArg (List.take 6) hr
  split
  · obtain ⟨m, c, e⟩ := s2.interruptHost_eq (k.recN 36 2)
    rw [e]
    exact h2
  · exact h2
/-- R252, R391: a kernel that a reset fails leaves its completion record, with status 8 and no placement. -/
theorem State.resetKernel_completion {s : State} {k : Kernel} (hk : s.kernel k.kid = some k) (ho : k.isOver = false)
    (hg : k.guest = false) (hw : s.host.wf = true) (hp : s.host.poison = []) :
    (s.resetKernel k.kid).host.read (k.recN 56 8) 6 = bytesOf k.kid 4 ++ [8#8, 0xFF#8] := by
  have hclosed : (s.closeKernel k.kid 8 0xFF).kernel k.kid = some (k.closed 8 0xFF) := by
    rw [State.kernel_congr (State.closeKernel_kernels 8 0xFF hk ho)]
    exact State.kernel_updKernel _ hk fun _ h => h
  have hhost : (s.closeKernel k.kid 8 0xFF).host = s.host := by
    obtain ⟨l, o, e⟩ := s.closeKernel_eq k.kid 8 0xFF
    rw [e]
  unfold State.resetKernel
  rw [State.release_over hclosed rfl]
  generalize s.closeKernel k.kid 8 0xFF = u at hhost ⊢
  have hquiet := (State.Quiet.releaseCores u (k.closed 8 0xFF) (k.closed 8 0xFF).cores).host.trans hhost
  generalize (k.closed 8 0xFF).cores.foldl (fun s c => s.releaseCore (k.closed 8 0xFF) c) u = v at hquiet ⊢
  refine (State.writeRecords_completion (k := (k.closed 8 0xFF).released) hg ?_ ?_).trans (List.append_assoc _ _ _)
  · exact (congrArg Mem.wf hquiet).trans hw
  · exact (congrArg Mem.poison hquiet).trans hp

/-- R391: at 115 °C the kernels that are not over fail, and the module is reset. -/
theorem thermalReset_next {s : State} (h : 115 ≤ s.agent.temperature) : exec .thermalReset s =
    .next ((s.agent.kernels.filter fun k => !k.isOver).foldl (fun s k => s.resetKernel k.kid) s).moduleReset := by
  rw [exec_thermalReset, execThermalReset, if_neg (by omega)]
  rfl

/-! ### The statements -/

/-- R7, R17, R375, R379, R390, R391: the three resets of the package. -/
theorem resets : Resets := by
  unfold Resets
  intro asSlot0
  have slot0 (s u : State) (hc : s.Calm u) : asSlot0 s u.moduleReset := by
    obtain ⟨m, e, hm⟩ := u.moduleReset_spec
    have hslot (p : Nat) : u.agent.slotAt p = s.agent.slotAt p := Agent.slotAt_congr hc.frames p
    simp only [hslot, hc.mem] at hm
    rw [e]
    exact ⟨hm.tags, fun _ => hm.kept, hm.poison, hm.full, fun _ a ha => congrArg (· :: []) (hm.cell a ha)⟩
  refine ⟨fun s => ?_, fun s => ?_, fun s hs => ?_⟩
  · exact ⟨_, rfl, s.core_powerOn, s.fence_powerOn, rfl, rfl, rfl, rfl, rfl, rfl, rfl, rfl, rfl, rfl, rfl, rfl, rfl, rfl⟩
  · refine ⟨_, rfl, slot0 s s (.refl s), ?_⟩
    obtain ⟨m, e, -⟩ := s.moduleReset_spec
    rw [e]
    refine ⟨rfl, rfl, rfl, rfl, rfl, fun c => ⟨?_, ?_, s.ctx_restart c⟩, fun f hf => ?_⟩
    · exact (congrArg Core.drained (s.core_restart c) :)
    · exact (congrArg Core.tenant (s.core_restart c) :)
    · show (s.agent.staged.orElse fun _ => s.agent.firmware) = some f
      rw [hf]
      rfl
  · rw [thermalReset_next hs]
    generalize hu : (s.agent.kernels.filter fun k => !k.isOver).foldl (fun s k => s.resetKernel k.kid) s = u
    have hcalm : s.Calm u := hu ▸ State.Calm.foldl (fun s (k : Kernel) => State.Calm.resetKernel s k.kid) _ s
    refine ⟨_, rfl, slot0 s u hcalm, ?_, ?_, fun k hk ho hg hw hp => ?_⟩
    · obtain ⟨m, e, -⟩ := u.moduleReset_spec
      rw [e]
      rfl
    · obtain ⟨m, e, -⟩ := u.moduleReset_spec
      rw [e]
      rfl
    · have hfind : s.kernel k.kid = some k := by simp [State.kernel, hk]
      have hone : s.resetKernel k.kid = u := by simpa [hk, ho] using hu
      rw [State.moduleReset_host, ← hone]
      exact State.resetKernel_completion hfind ho hg hw hp

end Sys2Proof.Machine

namespace Sys2Proof
open Sys2Proof.Machine

/-- Settles O50: the host's windows, firmware update and heat, and the resets, each by its own theorem. -/
theorem windowsAndResets : Obligations.WindowsAndResets := ⟨hostWindows, firmwareAndHeat, resets⟩

end Sys2Proof
end

section
/-! Mask registers (R51, R56, R57) as numbers of 16 bits, the instructions that read or write state besides the registers
(R25, R59, R60, R141), and the statement on them. -/

namespace Sys2Proof.Machine
open Sys2Proof.Claim

/-! ### Mask registers -/

@[simp] theorem Ctx.setMask_st (x : Ctx) (k : MReg) (v : Nat) : (x.setMask k v).st = x.st := by
  unfold Ctx.setMask
  split
  · rfl
  · split
    · rfl
    · split <;> rfl
/-- R56: a write to k0 is discarded. -/
@[simp] theorem Ctx.setMask_zero (x : Ctx) (v : Nat) : x.setMask 0#2 v = x := rfl
/-- R51: a mask register takes 16 bits of what is written to it. -/
theorem Ctx.setMask_mod (x : Ctx) (k : MReg) (v : Nat) : x.setMask k (v % 2 ^ 16) = x.setMask k v := by
  have h : BitVec.ofNat 16 (v % 2 ^ 16) = BitVec.ofNat 16 v := by simp [← BitVec.toNat_inj]
  simp only [Ctx.setMask, h]
/-- R51: a mask register holds 16 bits. -/
theorem Ctx.mask_lt (x : Ctx) (k : MReg) : x.mask k < 2 ^ 16 := by
  unfold Ctx.mask
  split
  · decide
  · split
    · exact x.r.k1.isLt
    · split
      · exact x.r.k2.isLt
      · exact x.r.k3.isLt

/-! ### The selectors of setx -/

@[simp] theorem Ctx.setExt_st (x : Ctx) (e v : Nat) : (x.setExt e v).st = x.st := by
  unfold Ctx.setExt
  split <;> rfl
/-- R60: what setx writes to a selector. -/
def Ctx.setSel (x : Ctx) (n v : Nat) : Ctx :=
  if n < 8 then x.setExt n v
  else if n = 8 then { x with r := { x.r with flags := BitVec.ofNat 5 v } }
  else x.setMask (BitVec.ofNat 2 n) v

theorem Ctx.setSel_st (x : Ctx) (n v : Nat) : (x.setSel n v).st = x.st := by
  unfold Ctx.setSel
  split
  · exact x.setExt_st n v
  · split
    · rfl
    · exact x.setMask_st _ v

theorem execSetx_eq (a : VReg) (x : BitVec 6) :
    execSetx a x = pureOp 2 [a.toNat] [] [] fun y => y.setSel x.toNat (y.vlo a.toNat) := rfl

/-! ### Bits of the masks that instructions write -/

/-- R13: lanes of one bit are the bits of a number. -/
theorem testBit_eq_lane (v j : Nat) : v.testBit j = decide (lane v 1 j = 1) := by
  rw [lane, Nat.one_mul, Nat.pow_one, Nat.testBit_eq_decide_div_mod_eq]

/-- R86: bit j of a mask over n lanes; the bits past the lanes are 0. -/
theorem testBit_mkMask (n : Nat) (p : Nat → Bool) (j : Nat) : (mkMask n p).testBit j = (decide (j < n) && p j) := by
  rw [testBit_eq_lane, mkMask, lane_packLanes]
  by_cases hj : j < n
  · cases hp : p j <;> simp [List.getD, hj, hp, b01]
  · simp [List.getD, hj]

/-- R87: bit j of the complement of a mask. -/
theorem testBit_complement {v j : Nat} (hv : v < 2 ^ 16) (hj : j < 16) : (0xFFFF - v).testBit j = !v.testBit j := by
  have h := Nat.testBit_two_pow_sub_succ hv j
  simpa [show 2 ^ 16 - (v + 1) = 0xFFFF - v by omega, hj] using h

/-- R86: the comparison of the model is the one that the claims speak of. -/
theorem icondHolds_iff (cc : ICond) (w a b : Nat) : icondHolds cc w a b = true ↔ intHolds cc w a b := by
  cases cc <;> simp [icondHolds, intHolds]

/-! ### The instructions -/

/-- R56, R57: an instruction that writes mask register k alone; p says which of the 16 bits that the mask takes are 1. -/
theorem maskWrite_did {s : State} {c i : Nat} {rd : List Nat} (k : MReg) (g : Ctx → Nat) (p : Nat → Prop)
    (hg : ∀ j, j < 16 → ((g (s.ctx c i)).testBit j = true ↔ p j)) (h : ready s c i .plain rd [] []) :
    ∃ t v, pureOp 2 rd [] [] (fun x => x.setMask k (g x)) s = .next t ∧ v < 2 ^ 16 ∧
      (∀ j, j < 16 → (v.testBit j = true ↔ p j)) ∧
      (k ≠ 0#2 → did s t c i 2 ((s.ctx c i).setMask k v)) ∧ (k = 0#2 → did s t c i 2 (s.ctx c i)) := by
  obtain ⟨t, ht, hd⟩ := pureOp_did 2 (fun x => x.setMask k (g x)) (fun _ => by simp) h
  refine ⟨t, g (s.ctx c i) % 2 ^ 16, ht, Nat.mod_lt _ (by decide), fun j hj => ?_, fun _ => ?_, fun hk => ?_⟩
  · rw [Nat.testBit_mod_two_pow, ← hg j hj]
    simp [hj]
  · rw [Ctx.setMask_mod]
    exact hd
  · subst hk
    exact hd

/-- An instruction that sets its own context from what it reads of the machine, and retires, does that and no more. -/
theorem fibreOp_did {s : State} {c i : Nat} (len : Nat) {cls : Cls} {rd wr : List Nat} {al : List (Nat × Nat)}
    (f : State → Nat → Nat → Ctx → Ctx) (hf : ∀ x, (f s c i x).st = x.st) (h : ready s c i cls rd wr al) :
    ∃ t, fibreOp len cls rd wr al (fun s c i x => .retire (s.setCtx c i (f s c i x))) s = .next t ∧
      did s t c i len (f s c i (s.ctx c i)) := by
  refine ⟨_, fibreOp_ready _ h, did_retire len _ h.2.2.1 ?_⟩
  rw [hf]
  exact ready_st h

/-- R56, R57, R86, R87: each instruction writes the mask that the table of `maskOp` gives. -/
theorem maskResults : MaskResults := by
  intro ins rd k p s c i hins h
  unfold maskOp at hins
  split at hins <;> cases hins
  case h_1 m w cc b a =>
    rw [exec_cmp, execCmp]
    refine maskWrite_did k _ _ (fun j _ => ?_) h
    rw [testBit_mkMask]
    simp only [Bool.and_eq_true, decide_eq_true_eq, icondHolds_iff]
  case h_2 n =>
    rw [exec_kset, execKset]
    refine maskWrite_did k _ _ (fun j _ => ?_) h
    rw [Nat.testBit_two_pow_sub_one, decide_eq_true_eq]
  case h_3 b a =>
    rw [exec_kand, execKand]
    refine maskWrite_did k _ _ (fun j _ => ?_) h
    rw [Nat.testBit_and, Bool.and_eq_true]
  case h_4 b a =>
    rw [exec_kor, execKor]
    refine maskWrite_did k _ _ (fun j _ => ?_) h
    rw [Nat.testBit_or, Bool.or_eq_true]
  case h_5 a =>
    rw [exec_knot, execKnot]
    refine maskWrite_did k _ _ (fun j hj => ?_) h
    rw [testBit_complement (Ctx.mask_lt _ a) hj, Bool.not_eq_true']

/-- R25, R59, R60, R141: each instruction writes the value that the table of `regRead` gives. -/
theorem registerReads : RegisterReads := by
  intro ins rd d f s c i hins h
  unfold regRead at hins
  split at hins <;> cases hins
  case h_1 x => exact pureOp_did 2 (fun y => y.setV d.toNat (getxValue y x.toNat)) (fun _ => rfl) h
  case h_2 => exact fibreOp_did 2 (fun s c _ x => x.setV d.toNat (s.core c).counter) (fun _ => rfl) h
  case h_3 n =>
    exact fibreOp_did 2 (fun s c i x => x.setV d.toNat (s.identity c x.lvl n.toNat i x.nreg x.skeinSeen)) (fun _ => rfl) h
  case h_4 a => exact fibreOp_did 2 (fun s c _ x => x.setV d.toNat ((s.core c).peerWord (x.vlo a.toNat))) (fun _ => rfl) h

/-- R60: setx writes its selector, whichever register that names. -/
theorem setxWrites : SetxWrites := by
  intro a x s c i h
  rw [exec_setx, execSetx_eq]
  obtain ⟨t, ht, hd⟩ := pureOp_did 2 (fun y => y.setSel x.toNat (y.vlo a.toNat)) (fun y => y.setSel_st _ _) h
  refine ⟨t, ht, fun hx => ?_, fun hx => ?_, fun hx _ => ?_⟩
  · simpa [Ctx.setSel, hx] using hd
  · simpa [Ctx.setSel, hx] using hd
  · simpa [Ctx.setSel, show ¬ x.toNat < 8 by omega, show x.toNat ≠ 8 by omega] using hd

end Sys2Proof.Machine

namespace Sys2Proof
open Sys2Proof.Machine

/-- Settles O3: the writes of masks, of registers and of selectors, each by its own theorem. -/
theorem masksAndSpecialRegisters : Obligations.MasksAndSpecialRegisters := ⟨maskResults, registerReads, setxWrites⟩

end Sys2Proof
end

section
/-! The turns of the machine: what a Fibre or a hart issues where its parcels are at hand (R133, R146, R147), what a cycle of a core
does (R25, R131, R254), and the statement that a step runs what it decodes. -/

namespace Sys2Proof.Machine
open Sys2Proof.Claim

/-! ### What the parcels of a block decode to -/

/-- R61: the parcel at an offset is the low half of the word there. -/
theorem wordAt_eq (d : List Byte) (o : Nat) : ∃ q, wordAt d o = BitVec.ofNat 32 (parcel d o + 65536 * q) := by
  unfold wordAt
  split
  · exact ⟨parcel d (o + 1), rfl⟩
  · exact ⟨0, rfl⟩
theorem extract_wordAt (d : List Byte) (o : Nat) : (wordAt d o).extractLsb' 0 16 = BitVec.ofNat 16 (parcel d o) := by
  obtain ⟨q, hq⟩ := wordAt_eq d o
  rw [hq, ← BitVec.toNat_inj, BitVec.extractLsb'_toNat, BitVec.toNat_ofNat, BitVec.toNat_ofNat]
  omega
/-- R61: the parity of the parcel at an offset says whether a word begins there. -/
theorem getLsbD_wordAt (d : List Byte) (o : Nat) : (wordAt d o).getLsbD 0 = decide (parcel d o % 2 = 1) := by
  obtain ⟨q, hq⟩ := wordAt_eq d o
  have h2 : (parcel d o + 65536 * q) % 2 = parcel d o % 2 := by omega
  rw [hq, BitVec.getLsbD_ofNat, Nat.testBit_zero, h2]
  rfl

/-- R62, R66: an even parcel that decodes is the instruction at its offset. -/
theorem decodeFibre_parcel {d : List Byte} {o : Nat} {ins : Instr} (hp : parcel d o % 2 = 0)
    (hd : decodeParcel (BitVec.ofNat 16 (parcel d o)) = .ok ins) : decodeFibre (wordAt d o) = ins := by
  have h0 : (wordAt d o).getLsbD 0 = false := by rw [getLsbD_wordAt]; simp [hp]
  simp only [decodeFibre, h0, extract_wordAt, hd, Bool.false_eq_true, if_false]
/-- R61: an odd parcel begins the word that it makes with the next. -/
theorem decodeFibre_word {d : List Byte} {o : Nat} {ins : Instr} (hp : parcel d o % 2 = 1) (ho : o < 31)
    (hd : decodeFibreWord (BitVec.ofNat 32 (parcel d o + 65536 * parcel d (o + 1))) = .ok ins) : decodeFibre (wordAt d o) = ins := by
  have h0 : (wordAt d o).getLsbD 0 = true := by rw [getLsbD_wordAt]; simp [hp]
  have hw : wordAt d o = BitVec.ofNat 32 (parcel d o + 65536 * parcel d (o + 1)) := congrArg _ (if_pos ho)
  rw [← hw] at hd
  simp only [decodeFibre, h0, hd, if_true]

/-- R70: nothing up to the signature marker lies behind it. -/
theorem behindMarker_of_le {d : List Byte} {o : Nat} (h : ∀ m, markerOf d = some m → o ≤ m) : behindMarker d o = false := by
  unfold behindMarker
  cases hm : markerOf d with
  | none => rfl
  | some m => simp [Nat.not_lt.2 (h m hm)]

/-- R61, R70: the instruction at an offset that a marker does not bar and where no word runs past the block. -/
theorem instrAt_eq {d : List Byte} {o : Nat} (hm : ∀ m, markerOf d = some m → o ≤ m) (ho : parcel d o % 2 = 0 ∨ o < 31) :
    instrAt d o = decodeFibre (wordAt d o) := by
  have h31 : (o == 31 && parcelAt d o % 2 == 1) = false := by
    rcases ho with ho | ho
    · simp [show parcelAt d o % 2 = 0 from ho]
    · simp [Nat.ne_of_lt ho]
  simp [instrAt, h31, behindMarker_of_le hm]

/-! ### The issue of a Fibre -/

/-- R133, R135: a context whose block is at hand, and which need not enter a signed block first, runs the instruction at its place. -/
theorem State.fibreTurn_ready {s : State} {c i b : Nat} {d : List Byte} (hb : (s.core c).currentBlock (s.ctx c i) = some b)
    (hf : s.fetchBlock c (s.ctx c i).lvl b = .ready d)
    (hs : (s.ctx c i).signed.isSome ∨ (s.ctx c i).pcOff ≠ 0 ∨ markerOf d = none) :
    s.fibreTurn c i = .run (instrAt d (s.ctx c i).pcOff)
      { s.setCtx c i { s.ctx c i with pcBlk := b, st := .running } with cur := .fibre c i, stalled := false } := by
  have hin : ((s.ctx c i).signed.isNone && (s.ctx c i).pcOff == 0 && (markerOf d).isSome) = false := by
    rcases hs with h | h | h
    · simp [Option.isNone_eq_false_iff.2 h]
    · simp [h]
    · simp [h]
  unfold State.ctx at hb hf hin
  simp only [State.fibreTurn, hb, hf, hin, Bool.false_eq_true, if_false]
  rfl

/-- R133: a turn of a core's Fibres whose scheduler picks one that runs. -/
theorem stepIssue_run {s s1 : State} {c i : Nat} {ins : Instr} (hp : (s.core c).pickFibre = some i)
    (ht : s.fibreTurn c i = .run ins s1) : stepIssue s c = afterFibre c i (exec ins s1) := by
  simp only [stepIssue, hp, ht]

/-- R61, R68, R133: a Fibre runs what its parcels decode to. -/
theorem fibresRunWhatIsDecoded : FibresRunWhatIsDecoded := by
  intro s rest c i b d ins s0 x p hturn hc hpick hblk hfetch hsigned hmark hdec
  have hins : instrAt d x.pcOff = ins := by
    rcases hdec with ⟨hp, hd⟩ | ⟨hp, ho, hd⟩
    · exact (instrAt_eq hmark (.inl hp)).trans (decodeFibre_parcel hp hd)
    · exact (instrAt_eq hmark (.inr ho)).trans (decodeFibre_word hp ho hd)
  have hrun := State.fibreTurn_ready hblk hfetch hsigned
  calc step s = stepIssue s0 c := (step_queued hturn).trans (if_pos hc)
    _ = afterFibre c i (exec (instrAt d x.pcOff) _) := stepIssue_run hpick hrun
    _ = _ := by rw [hins]

/-! ### The issue of a hart -/

/-- R146: what a hart whose parcels are fetched issues. The definition is unfolded as a constant alone: compared where it is applied,
its match would have the kernel evaluate the fetch. -/
theorem State.hartTurn_fetched {s s1 : State} {c w : Nat} {u : Bool} (h : s.fetchHart c u = .ok w s1) :
    s.hartTurn c u = .run (decodeHart (BitVec.ofNat 32 w)).1
      { s1 with cur := .hart c u, hop := (decodeHart (BitVec.ofNat 32 w)).2, hraw := BitVec.ofNat 32 w, stalled := false } := by
  conv => lhs; fun; fun; fun; delta State.hartTurn
  rw [h]
/-- R147: a turn of a hart that runs an instruction; unfolded as `State.hartTurn_fetched` is. -/
theorem stepOneHart_run {s s1 : State} {c : Nat} {u : Bool} {ins : Instr} (h : s.hartTurn c u = .run ins s1) :
    stepOneHart s c u = exec ins s1 := by
  conv => lhs; fun; fun; fun; delta stepOneHart
  rw [h]
/-- R146: a hart whose parcels are fetched runs the instruction that they decode to. -/
theorem stepOneHart_fetched {s s1 : State} {c w : Nat} {u : Bool} (h : s.fetchHart c u = .ok w s1) :
    stepOneHart s c u = exec (decodeHart (BitVec.ofNat 32 w)).1
      { s1 with cur := .hart c u, hop := (decodeHart (BitVec.ofNat 32 w)).2, hraw := BitVec.ofNat 32 w, stalled := false } :=
  stepOneHart_run (State.hartTurn_fetched h)

/-- R147: hart N issues where hart U has an instruction that could not and hart N has one that may. -/
def State.yieldsToN (t : State) (c : Nat) (u : Bool) : Bool := u && t.stalled && (t.core c).hartReady false

/-- R147: a turn of a core's harts whose hart picked goes to a next state. -/
theorem stepHart_next {s t : State} {c : Nat} {u : Bool} (hp : (s.core c).pickHart = some u) (ho : stepOneHart s c u = .next t) :
    stepHart s c = afterOther (if t.yieldsToN c u then stepOneHart t c false else .next t) := by
  simp only [stepHart, hp, ho]
  rfl
/-- A hart's instruction that goes to no next state ends its turn. -/
theorem stepHart_of_not_next {s : State} {c : Nat} {u : Bool} (hp : (s.core c).pickHart = some u)
    (ho : ∀ t, stepOneHart s c u ≠ .next t) : stepHart s c = stepOneHart s c u := by
  simp only [stepHart, hp]
  cases h : stepOneHart s c u with
  | next t => exact absurd h (ho t)
  | _ => rfl

/-- R146, R147: a hart runs what its parcels decode to, and hart N issues where hart U stalls. -/
theorem hartsRunWhatIsDecoded : HartsRunWhatIsDecoded := by
  intro s s1 rest c w u s0 o
  refine ⟨stepOneHart_fetched, fun hturn hc hpick hfetch => ?_⟩
  have hone : stepOneHart s0 c u = o := stepOneHart_fetched hfetch
  have hstep : step s = stepHart s0 c := (step_queued hturn).trans (if_pos hc)
  rw [hstep]
  refine ⟨fun t ht hno => ?_, fun t ht hu hstall hready => ?_, fun hno => ?_⟩
  · have hy : t.yieldsToN c u = false := by
      rcases hno with h | h | h <;> simp [State.yieldsToN, h]
    rw [stepHart_next hpick (hone.trans ht), hy]
    rfl
  · have hy : t.yieldsToN c u = true := by simp [State.yieldsToN, hu, hstall, hready]
    rw [stepHart_next hpick (hone.trans ht), if_pos hy]
  · rw [stepHart_of_not_next hpick (hone ▸ hno), hone]

/-! ### A cycle of a core -/

theorem State.landDeposits_nil {s : State} {c : Nat} (h : (s.core c).inbox.landing = []) : s.landDeposits c = s := by
  simp [State.landDeposits, h]
theorem State.flushAll_nil {s : State} {c : Nat} (h : (s.core c).heldMsgs = []) : s.flushAll c = s := by
  simp [State.flushAll, h]

/-- R25, R131: a core after a cycle in which nothing lands, halts or is posted. -/
def Core.nextCycle (k : Core) : Core :=
  { k.endDispatch with counter := (k.counter + 1) % 2 ^ 64, doneCtx := [], slotsUsed := 0 }

/-- R25, R131, R254: a cycle of a core in which nothing lands, halts or is posted. -/
theorem State.tick_quiet {s : State} {c : Nat} (hm : (s.core c).heldMsgs = []) (hl : (s.core c).inbox.landing = [])
    (hh : (s.core c).haltDue = false) :
    s.tick c = { s with turns := (s.core c).expiries c ++ s.turns }.updCore c Core.nextCycle := by
  simp only [State.tick, hh, Bool.false_and, Bool.false_eq_true, if_false, State.landDeposits_nil hl]
  refine State.flushAll_nil ?_
  rw [State.core_updCore_self]
  exact hm

/-- R25, R131, R254: the turns of the queue, in order, and the schedule's where there is none. -/
theorem turnsAreTaken : TurnsAreTaken := by
  refine ⟨fun s rest ins a h => step_queued h, fun s rest c h hc hm hl hh => ?_, fun s rest kid h => step_queued h, fun s h => ?_⟩
  · have htick : step s = .next ({ s with turns := (s.core c).expiries c ++ rest }.updCore c Core.nextCycle) :=
      (step_queued h).trans (congrArg Host.Outcome.next ((if_pos hc).trans (State.tick_quiet hm hl hh)))
    exact ⟨_, htick, rfl, fun d hd => State.core_updCore_ne _ _ hd, State.core_updCore_self ..⟩
  · rw [step_queued (s := { s with turns := [Config.schedule s.draws], draws := s.draws + 1 }) rfl]
    simp only [step, State.nextTurn, h]

end Sys2Proof.Machine

namespace Sys2Proof
open Sys2Proof.Machine

/-- Settles O53: the turns of Fibres, of harts, and of the rest, each by its own theorem. -/
theorem stepRunsDecoded : Obligations.StepRunsDecoded := ⟨fibresRunWhatIsDecoded, hartsRunWhatIsDecoded, turnsAreTaken⟩

end Sys2Proof
end
